-- ==== Sys2Proof/Word.lean ====
section
/-! DEFINITION. The word types of the package and their plainest arithmetic (spec/00_scope.md R12, R13, R17). -/

namespace Sys2Proof

/-- One byte of a memory (00 R13). -/
abbrev Byte := BitVec 8
/-- A 32-bit register value (04 R105). -/
abbrev Word := BitVec 32
/-- A 64-bit value: an address, a K register, an instruction word (02 R50). -/
abbrev DWord := BitVec 64
/-- The widest register operand, 128 bits (02 R66). -/
abbrev QWord := BitVec 128

/-- `wrap32(y)` of 05 R131 for an integer. -/
def wrap32 (y : Int) : Word := BitVec.ofInt 32 y
/-- `wrap64(y)` of 05 R131 for an integer. -/
def wrap64 (y : Int) : DWord := BitVec.ofInt 64 y

end Sys2Proof
end

