-- ==== Sys2Proof/Syntax.lean ====
section
/-! DEFINITION. The instructions and events of spec/opcode_table.json, one constructor a row, with their operands
(spec/02_encoding.md R61–R83 for the operand fields; the chapter of each family for the rest). -/

namespace Sys2Proof

/-- A guard field (02 R61): P*g* in the thread stream, K*g* ≠ 0 in the uniform stream; 0 is always. -/
abbrev Guard := Fin 8

/-- Lane patterns of a source (02 R67). -/
inductive Pat where
  | ident | rot1 | rotn1 | b0 | x1 | x2 | x4 | mir
  deriving DecidableEq, Repr

/-- A source operand of formats V3, V2, VI (02 R64): a V register with its pattern, a queue, or a half of a K register. -/
inductive Src where
  | v (n : Fin 1536) (p : Pat)
  | q (n : Fin 16)
  | k (h : Fin 256)
  deriving DecidableEq, Repr

/-- A destination operand (02 R64). -/
inductive Dst where
  | v (n : Fin 1536)
  | q (n : Fin 16)
  | vz
  deriving DecidableEq, Repr

/-- A predicate source with its pattern (02 R71). -/
structure PSrc where
  n : Fin 8
  p : Pat
  deriving DecidableEq, Repr

/-- A floating-point source with its modifiers (02 R73, 07 R182). -/
structure FSrc where
  src : Src
  abs : Bool
  neg : Bool
  deriving DecidableEq, Repr

/-- Rounding modes (02 R73). -/
inductive Rm where
  | rne | rtz | rdn | rup
  deriving DecidableEq, Repr

/-- Element types (02 R74). -/
inductive Ty where
  | fp32 | fp16 | bf16 | b8 | int8 | uint8 | int16 | uint16 | int32 | uint32 | int64 | uint64
  deriving DecidableEq, Repr

/-- Access sizes (02 R76). -/
inductive Size where
  | s8 | s16 | s32 | s64 | s128
  deriving DecidableEq, Repr

/-- Memory orders (02 R76). -/
inductive Order where
  | rlx | acq | rel | sc
  deriving DecidableEq, Repr

/-- Memory scopes (02 R76). -/
inductive Scope where
  | thread | block | cluster | die | package | pod | system
  deriving DecidableEq, Repr

/-- Access paths (02 R76). -/
inductive Path where
  | gen | spad | ro | pers
  deriving DecidableEq, Repr

/-- Integer compare codes (05 R134). -/
inductive Cmp where
  | eq | ne | lt | le | gt | ge | ltu | leu | gtu | geu
  deriving DecidableEq, Repr

/-- Floating-point compare codes (07 R181). -/
inductive FCmp where
  | eq | ne | lt | le | gt | ge | num | nan
  deriving DecidableEq, Repr

/-- PSETP operations (05 R134). -/
inductive PredOp where
  | and | or | xor | andn | orn | nor | nand | xnor
  deriving DecidableEq, Repr

/-- MOV widths (05 R134). -/
inductive MovW where
  | w32 | w64 | w128
  deriving DecidableEq, Repr

/-- SHUF modes (05 R134). -/
inductive ShufMode where
  | idx | up | down | xor | rot
  deriving DecidableEq, Repr

/-- VOTE modes with their destination: a predicate for ALL, ANY, UNI, a register for BALLOT (05 R148). -/
inductive VoteDst where
  | all (p : Fin 8) | any (p : Fin 8) | uni (p : Fin 8) | ballot (d : Dst)
  deriving DecidableEq, Repr

/-- REDOCT operations (05 R134). -/
inductive RedOp where
  | add | min | max | minu | maxu | and | or | xor | fadd | fmin | fmax
  deriving DecidableEq, Repr

/-- Fields of a format M access (02 R76). `addr` is the even V index of the address pair. -/
structure MemF where
  addr  : Fin 1536
  off   : BitVec 14
  path  : Path
  size  : Size
  evict : Fin 8
  scope : Scope
  order : Order
  deriving DecidableEq, Repr

/-- Fields of a format MA access (02 R79). -/
structure AtomF where
  addr  : Fin 1536
  size  : Size
  evict : Fin 8
  scope : Scope
  order : Order
  opnd  : Src
  deriving DecidableEq, Repr

/-- The data of a store: a V register or a queue (10 R271). -/
inductive StData where
  | v (n : Fin 1536) | q (n : Fin 16)
  deriving DecidableEq, Repr

/-- UTRET forms (08 R223). -/
inductive UtretMode where
  | plain | retry | subst (a : Src) | substW64 (a : Src)
  deriving DecidableEq, Repr

/-- What ASTORE writes to (14 R406): memory or scratchpad rows, or the block's own tile. -/
inductive AstDst where
  | rows (kaddr kpitch : Fin 128) (spad : Bool)
  | tile (t : Fin 64)
  deriving DecidableEq, Repr

/-- One tile operand of MMA (14 R411): `own` is the LA/LB bit. -/
structure TileOp where
  tile : Fin 64
  core : Fin 4
  own  : Bool
  deriving DecidableEq, Repr

/-- BAR.WAIT's parity (16 R443, R444): an immediate bit, or bit 0 of A, beside which PAR may hold either value and has no effect. -/
inductive ParSel where
  | imm (par : Bool) | reg (a : Src) (par : Bool)
  deriving DecidableEq, Repr

/-- BAR.EXPECT kinds (16 R443). -/
inductive ExpKind where
  | bytes | arrivals | all
  deriving DecidableEq, Repr

/-- SIGNAL's address operand (16 R448): V*n*:V*n*+1 with value V*n*+2, or K*m* with value K(*m*+1). -/
inductive SigAddr where
  | v (n : Fin 1536) | k (m : Fin 128)
  deriving DecidableEq, Repr

/-- SIGNAL operations (16 R443). -/
inductive SigOp where
  | set | add | maxu
  deriving DecidableEq, Repr

/-- A packet of one Helor Link flit (17 R473): what a peer asks of this package, or answers to it.
The spec gives the flit and not the packets inside it; these are the requests and responses its rules speak of. -/
inductive LinkPacket where
  /-- A peer reads `len` bytes at a local address; the answer carries `tag`. A seq_cst access brings its clock (11 R305). -/
  | read (tag addr len : Nat) (clk : Option DWord)
  /-- A peer writes bytes at a local address; `persist` is the agent (none: an engine) and epoch of a persist write (10 R288). -/
  | write (tag addr : Nat) (data : List Byte) (persist : Option (Option (Nat × Nat) × Word)) (clk : Option DWord)
  /-- A peer performs an atomic at a local address: operation number as the opcode of 02 R85, width in bytes; `persist` marks a
  word that a persist copy updates (12 R351). -/
  | atomic (tag addr op width : Nat) (opnd cmp : DWord) (persist : Bool) (clk : Option DWord)
  /-- A peer's PWB of the line at a local address (10 R290). -/
  | pwb (tag addr : Nat) (inv : Bool) (agent : Nat × Nat) (epoch : Word)
  /-- A peer's CCTL.L2WB, or L2INV where `inv`, of the line at a local address (10 R287). -/
  | l2line (tag addr : Nat) (inv : Bool)
  /-- An answer to this package's request `rid`: the bytes read, or the old value; `poison` where a line read holds poison; `ts`
  the timestamp that a seq_cst access took. -/
  | answer (rid : Nat) (data : List Byte) (poison : Bool) (ts : DWord)
  /-- A rank of a collective joined on another package (14 R418), with its descriptor fields and send buffer. -/
  | collJoin (group : DWord) (rank npart op red ty root count : Nat) (send : List Byte)
  /-- The rebuild engine of a spare reads snapshot bytes of this survivor, of a run of `total` bytes (16 R460). -/
  | rebuildRead (tag addr len total : Nat)
  deriving DecidableEq, Repr

/-- One flit, with the CRC in its last eight bytes (17 R473). -/
structure Flit where
  seq  : BitVec 12
  vc   : Fin 4
  ack  : BitVec 12
  nak  : Bool
  crc  : DWord
  packets : List LinkPacket
  deriving DecidableEq, Repr

/-- A host access (17 R466, R469, R471): control BAR or HBM aperture, or the BAR0 of a virtual function, read or write. -/
inductive HostAcc where
  | barRead (off size : Nat)
  | barWrite (off size : Nat) (val : DWord)
  | aperRead (off size : Nat)
  | aperWrite (off : Nat) (data : List Byte)
  | vfRead (fn : Fin 9) (off size : Nat)
  | vfWrite (fn : Fin 9) (off size : Nat) (val : DWord)
  /-- The host's configuration software sizes the aperture at `2 ^ lg` bytes. -/
  | aperResize (lg : Nat)
  deriving DecidableEq, Repr

/-- A firmware image as the boot ROM finds it: its version, the public key it names, the signature and the signed bytes (17 R481). -/
structure Image where
  version : Nat
  key  : List Byte
  sig  : List Byte
  body : List Byte
  deriving DecidableEq, Repr
/-- The three images of a package: of the security processor, the power controller and Trelwester (17 R481). -/
structure Images where
  security : Image
  power    : Image
  dealer   : Image
  deriving DecidableEq, Repr

/-- Sensor values the power controller reads in one loop (17 R476, R479): the package power in watts and, for each
cluster, the frequency target and block limit its policy asks for and the margin its monitors show. -/
structure Sensors where
  powerW  : Nat
  idleW   : Nat
  freq    : List Nat
  limit   : List Nat
  margin  : List Nat
  deriving DecidableEq, Repr

/-- Memory kinds of the ECC counts (16 R462). -/
inductive EccKind where
  | sram | l2 | hbm | scmCache | scmMedia
  deriving DecidableEq, Repr

/-- The instructions (rows 1–183) and events (rows 184–296) of spec/opcode_table.json. -/
inductive Instr where
  -- integer, address, predicate and cross-lane instructions (05)
  | nop (g : Guard)
  | iadd (g : Guard) (d : Dst) (a b : Src)
  | isub (g : Guard) (d : Dst) (a b : Src)
  | iaddi (g : Guard) (d : Dst) (a : Src) (imm : BitVec 28)
  | imul (g : Guard) (d : Dst) (a b : Src)
  | imulhi (g : Guard) (d : Dst) (a b : Src)
  | imulhu (g : Guard) (d : Dst) (a b : Src)
  | imad (g : Guard) (d : Dst) (a b c : Src)
  | idiv (g : Guard) (d : Dst) (a b : Src)
  | idivu (g : Guard) (d : Dst) (a b : Src)
  | irem (g : Guard) (d : Dst) (a b : Src)
  | iremu (g : Guard) (d : Dst) (a b : Src)
  | imin (g : Guard) (d : Dst) (a b : Src)
  | imax (g : Guard) (d : Dst) (a b : Src)
  | iminu (g : Guard) (d : Dst) (a b : Src)
  | imaxu (g : Guard) (d : Dst) (a b : Src)
  | iabs (g : Guard) (d : Dst) (a : Src)
  | and (g : Guard) (d : Dst) (a b : Src)
  | or (g : Guard) (d : Dst) (a b : Src)
  | xor (g : Guard) (d : Dst) (a b : Src)
  | andn (g : Guard) (d : Dst) (a b : Src)
  | andi (g : Guard) (d : Dst) (a : Src) (imm : BitVec 28)
  | ori (g : Guard) (d : Dst) (a : Src) (imm : BitVec 28)
  | xori (g : Guard) (d : Dst) (a : Src) (imm : BitVec 28)
  | shl (g : Guard) (d : Dst) (a b : Src)
  | shr (g : Guard) (d : Dst) (a b : Src)
  | sar (g : Guard) (d : Dst) (a b : Src)
  | rotl (g : Guard) (d : Dst) (a b : Src)
  | shli (g : Guard) (d : Dst) (a : Src) (n : Fin 32)
  | shri (g : Guard) (d : Dst) (a : Src) (n : Fin 32)
  | sari (g : Guard) (d : Dst) (a : Src) (n : Fin 32)
  | bfe (g : Guard) (d : Dst) (a c : Src)
  | bfeu (g : Guard) (d : Dst) (a c : Src)
  | bfi (g : Guard) (d : Dst) (a b c : Src)
  | popc (g : Guard) (d : Dst) (a : Src)
  | clz (g : Guard) (d : Dst) (a : Src)
  | ctz (g : Guard) (d : Dst) (a : Src)
  | brev (g : Guard) (d : Dst) (a : Src)
  | add64 (g : Guard) (d : Dst) (a b : Src)
  | sub64 (g : Guard) (d : Dst) (a b : Src)
  | shl64 (g : Guard) (d : Dst) (a b : Src)
  | shr64 (g : Guard) (d : Dst) (a b : Src) (sx : Bool)
  | lea (g : Guard) (d : Dst) (a b : Src) (sh : Fin 8) (zx : Bool)
  | mov (g : Guard) (d : Dst) (a : Src) (w : MovW)
  | movi (g : Guard) (d : Dst) (imm : BitVec 28)
  | movhi (g : Guard) (d : Dst) (a : Src) (imm : BitVec 16)
  | sel (g : Guard) (d : Dst) (a b : Src) (p : Fin 8) (inv : Bool)
  | isetp (g : Guard) (p : Fin 8) (a b : Src) (c : Cmp)
  | psetp (g : Guard) (p : Fin 8) (a b : PSrc) (o : PredOp)
  | p2v (g : Guard) (d : Dst)
  | v2p (g : Guard) (a b : Src)
  | shuf (g : Guard) (d : Dst) (a b : Src) (m : ShufMode)
  | vote (g : Guard) (d : VoteDst) (a : PSrc)
  | redoct (g : Guard) (d : Dst) (a : Src) (o : RedOp) (rm : Rm)
  | matchL (g : Guard) (d : Dst) (a : Src) (w64 : Bool)
  | idot4 (g : Guard) (d : Dst) (a b c : Src)
  -- floating-point and conversion instructions (07)
  | fadd (g : Guard) (d : Dst) (a b : FSrc) (rm : Rm)
  | fsub (g : Guard) (d : Dst) (a b : FSrc) (rm : Rm)
  | fmul (g : Guard) (d : Dst) (a b : FSrc) (rm : Rm)
  | ffma (g : Guard) (d : Dst) (a b c : Src)
  | fmin (g : Guard) (d : Dst) (a b : FSrc)
  | fmax (g : Guard) (d : Dst) (a b : FSrc)
  | fsetp (g : Guard) (p : Fin 8) (a b : FSrc) (c : FCmp)
  | frcp (g : Guard) (d : Dst) (a : FSrc)
  | frsq (g : Guard) (d : Dst) (a : FSrc)
  | fsqrt (g : Guard) (d : Dst) (a : FSrc) (rm : Rm)
  | fdiv (g : Guard) (d : Dst) (a b : FSrc) (rm : Rm)
  | fexp2 (g : Guard) (d : Dst) (a : FSrc)
  | flog2 (g : Guard) (d : Dst) (a : FSrc)
  | fsin (g : Guard) (d : Dst) (a : FSrc)
  | fcos (g : Guard) (d : Dst) (a : FSrc)
  | ftanh (g : Guard) (d : Dst) (a : FSrc)
  | frnd (g : Guard) (d : Dst) (a : FSrc) (rm : Rm)
  | fclass (g : Guard) (d : Dst) (a : FSrc)
  | fscale (g : Guard) (d : Dst) (a : FSrc) (b : Src) (rm : Rm)
  | hadd2 (g : Guard) (d : Dst) (a b : FSrc) (bf : Bool)
  | hsub2 (g : Guard) (d : Dst) (a b : FSrc) (bf : Bool)
  | hmul2 (g : Guard) (d : Dst) (a b : FSrc) (bf : Bool)
  | hfma2 (g : Guard) (d : Dst) (a b c : Src)
  | hmin2 (g : Guard) (d : Dst) (a b : FSrc) (bf : Bool)
  | hmax2 (g : Guard) (d : Dst) (a b : FSrc) (bf : Bool)
  | cvt (g : Guard) (d : Dst) (a : Src) (b : Option Src) (src dst : Ty) (rm : Rm)
  | pack8 (g : Guard) (d : Dst) (a b : Src) (ovf head : Bool) (rm : Rm)
  | unpack8 (g : Guard) (d : Dst) (a : Src) (b : Option Src) (rm : Rm)
  | bscale (g : Guard) (d : Dst) (a b : Src)
  -- load, store, atomic, fence and persist instructions (10)
  | ld (g : Guard) (d : Dst) (m : MemF)
  | st (g : Guard) (x : StData) (m : MemF)
  | ldro (g : Guard) (d : Dst) (m : MemF)
  | lds (g : Guard) (d : Dst) (m : MemF)
  | sts (g : Guard) (x : StData) (m : MemF)
  | atomAdd (g : Guard) (d : Dst) (m : AtomF)
  | atomMin (g : Guard) (d : Dst) (m : AtomF)
  | atomMax (g : Guard) (d : Dst) (m : AtomF)
  | atomMinu (g : Guard) (d : Dst) (m : AtomF)
  | atomMaxu (g : Guard) (d : Dst) (m : AtomF)
  | atomAnd (g : Guard) (d : Dst) (m : AtomF)
  | atomOr (g : Guard) (d : Dst) (m : AtomF)
  | atomXor (g : Guard) (d : Dst) (m : AtomF)
  | atomExch (g : Guard) (d : Dst) (m : AtomF)
  | atomCas (g : Guard) (d : Dst) (m : AtomF)
  | atomFadd (g : Guard) (d : Dst) (m : AtomF)
  | atomFmin (g : Guard) (d : Dst) (m : AtomF)
  | atomFmax (g : Guard) (d : Dst) (m : AtomF)
  | fence (g : Guard) (o : Order) (sc : Scope)
  | pref (g : Guard) (addr : Fin 1536) (off : BitVec 14) (ro : Bool) (size : Size) (evict : Fin 8)
  | cctlRoinv (g : Guard)
  | cctlL1inv (g : Guard)
  | cctlL1line (g : Guard) (addr : Fin 1536) (off : BitVec 14) (size : Size)
  | cctlL2wb (g : Guard) (addr : Fin 1536) (off : BitVec 14) (size : Size)
  | cctlL2inv (g : Guard) (addr : Fin 1536) (off : BitVec 14) (size : Size)
  | pwb (g : Guard) (addr : Fin 1536) (off : BitVec 14) (size : Size) (inv : Bool)
  | pbar (g : Guard) (pod : Bool)
  -- thread-side queue instructions (12)
  | qlen (g : Guard) (d : Dst) (q : Fin 16) (free : Bool)
  | qtryPop (g : Guard) (d : Dst) (q : Fin 16) (p : Fin 8)
  | qtryPush (g : Guard) (q : Fin 16) (a : Src) (p : Fin 8)
  | qclose (g : Guard) (q : Fin 16)
  | qeos (g : Guard) (p : Fin 8) (q : Fin 16)
  -- control instructions (08)
  | bra (g : Guard) (imm : BitVec 28)
  | brx (g : Guard) (a : Src)
  | call (g : Guard) (d : Dst) (imm : BitVec 28)
  | ret (g : Guard) (a : Src)
  | exit (g : Guard)
  | region (g : Guard)
  | yield (g : Guard)
  | trap (g : Guard) (n : BitVec 16)
  | bkpt (g : Guard) (n : BitVec 16)
  | utret (g : Guard) (m : UtretMode)
  | rdsr (g : Guard) (d : Dst) (n : BitVec 12)
  | wrsr (g : Guard) (n : BitVec 12) (a : Src)
  | grow (g : Guard) (n : BitVec 11)
  | shrink (g : Guard) (n : BitVec 11)
  | sleep (g : Guard) (n : BitVec 20)
  -- K instructions of the uniform sequencer (14)
  | kadd (g : Guard) (kd ka kb : Fin 128) (imm : BitVec 32)
  | ksub (g : Guard) (kd ka kb : Fin 128) (imm : BitVec 32)
  | kmul (g : Guard) (kd ka kb : Fin 128) (imm : BitVec 32)
  | kand (g : Guard) (kd ka kb : Fin 128) (imm : BitVec 32)
  | kor (g : Guard) (kd ka kb : Fin 128) (imm : BitVec 32)
  | kxor (g : Guard) (kd ka kb : Fin 128) (imm : BitVec 32)
  | kshl (g : Guard) (kd ka kb : Fin 128) (imm : BitVec 32)
  | kshr (g : Guard) (kd ka kb : Fin 128) (imm : BitVec 32)
  | kmin (g : Guard) (kd ka kb : Fin 128) (imm : BitVec 32)
  | kmax (g : Guard) (kd ka kb : Fin 128) (imm : BitVec 32)
  | kset (g : Guard) (kd ka kb : Fin 128) (c : Cmp)
  | kmovi (g : Guard) (kd : Fin 128) (imm : BitVec 32)
  | kmovhi (g : Guard) (kd ka : Fin 128) (imm : BitVec 32)
  | kld (g : Guard) (kd ka : Fin 128) (o : Order) (sc : Scope) (imm : BitVec 32)
  | kst (g : Guard) (ks ka : Fin 128) (o : Order) (sc : Scope) (imm : BitVec 32)
  | kbra (g : Guard) (imm : BitVec 32)
  | kloop (ka : Fin 128) (imm : BitVec 32)
  | kend
  | krdsr (g : Guard) (kd : Fin 128) (n : BitVec 12)
  -- tile, matrix and accumulator instructions (14)
  | talloc (g : Guard) (t : Fin 64) (ty : Ty) (koff : Fin 128)
  | tfree (g : Guard) (t : Fin 64)
  | tload (g : Guard) (t : Fin 64) (mcast : BitVec 4) (ksrc kpitch : Fin 128) (spad baren : Bool) (bar : Fin 16)
  | tstore (g : Guard) (t : Fin 64) (kdst kpitch : Fin 128) (spad baren : Bool) (bar : Fin 16)
  | tset (g : Guard) (t : Fin 64)
  | mma (g : Guard) (h : Fin 16) (a b : TileOp) (ty : Ty) (clr : Bool)
  | aalloc (g : Guard) (h : Fin 16)
  | afree (g : Guard) (h : Fin 16)
  | aclr (g : Guard) (h : Fin 16)
  | astore (g : Guard) (h : Fin 16) (d : AstDst) (ty : Ty) (fmt : Byte)
  | aload (g : Guard) (h : Fin 16) (int : Bool) (kaddr kpitch : Fin 128) (spad : Bool)
  -- copy commands, queue carving and streams (12)
  | cpy (g : Guard) (b8 : Bool) (bq : Fin 16) (kdst ksrc kdsc : Fin 128)
  | cpya (g : Guard) (b8 : Bool) (bq : Fin 16) (kdst ksrc kdsc : Fin 128)
  | cpyg (g : Guard) (bq : Fin 16) (kdst ksrc kdsc : Fin 128)
  | cpys (g : Guard) (bq : Fin 16) (kdst ksrc kdsc : Fin 128)
  | cpyq (g : Guard) (q : Fin 16) (ksrc kdsc : Fin 128)
  | cpyec (g : Guard) (bq : Fin 16) (kdst ksrc kdsc : Fin 128)
  | cpycan (g : Guard) (kd : Fin 128) (all : Bool) (bar : Fin 16)
  | qcfg (g : Guard) (q : Fin 16) (ka : Fin 128) (row : Bool) (width : Fin 3) (cap : BitVec 16)
  | qrel (g : Guard) (q : Fin 16)
  | strm (g : Guard) (t : Fin 64) (pidx : BitVec 16) (sh : Fin 16)
  | strmstop (g : Guard) (sh : Fin 16)
  -- child launches, collectives, steps (14)
  | launch (g : Guard) (ka : Fin 128) (imm : BitVec 32)
  | coll (g : Guard) (ka : Fin 128) (imm : BitVec 32)
  | step (g : Guard) (kd ka : Fin 128)
  -- synchronisation (16)
  | barArrive (g : Guard) (d : Dst) (b : Fin 16)
  | barWait (g : Guard) (b : Fin 16) (p : ParSel)
  | barSync (g : Guard) (b : Fin 16)
  | barExpect (g : Guard) (b : Fin 16) (k : ExpKind) (a : Option Src) (imm : BitVec 21)
  | cbar (g : Guard)
  | wait (g : Guard) (ld st cp tl : Fin 64)
  | signal (g : Guard) (a : SigAddr) (o : SigOp)
  -- events of threads and the Erg (01, 04, 08)
  | continuationEntry (b t : Nat)
  | bundleFormation (b t : Nat)
  | workingSetCopy (n : Nat)
  | regDeadlock (b : Nat)
  | threadEnd (b t : Nat)
  | returnLanding (n : Nat)
  | storeAck (n : Nat)
  | homeAccess (n : Nat)
  | tlbWalk (n : Nat)
  | sleepWake (b t : Nat)
  | syscallRecordWrite (b t : Nat)
  | srwake (idx : Word)
  | debugHalt (b : Nat)
  | debugResume (b : Nat)
  | blockAccounted (b : Nat)
  | queueDeadlock (b : Nat)
  -- events of engines (12, 14, 16)
  | streamElement (b : Nat) (h : Fin 16)
  | streamFinish (b : Nat) (h : Fin 16)
  | copyUnit (b n : Nat)
  | copyCompletion (b n : Nat)
  | tloadCompletion (b n : Nat)
  | tstoreCompletion (b n : Nat)
  | aloadCompletion (b n : Nat)
  | astoreCompletion (b n : Nat)
  | startGrantRequest (c : Nat)
  | barchanStep (die : Nat)
  | mmaRetire (c : Nat)
  | bankSwitch (c : Nat)
  | collCompletion (b n : Nat)
  | stepAdvance (b : Nat)
  | seifSweep
  | seifCaptureComplete
  | seifArm (v : Word)
  | seifDisarm (v : Word)
  -- events of persistence, errors and translation (09, 15)
  | caravanEntry (n : Nat)
  | caravanDrain (iod : Fin 2) (n : Nat)
  | powerLoss
  | eccError (k : EccKind) (addr : Nat) (corrected : Bool)
  | backgroundMaintenance
  | faqRecordWrite
  | faqbase (v : DWord)
  | tlbShootdown (ctx : Fin 16) (va len : Nat)
  | shootdownAck (n c : Nat)
  | migcmd (v : Word)
  | migrationLineCopy (n l : Nat)
  | migrationSwitchover (n : Nat)
  | migrationComplete (n : Nat)
  | resident (v : DWord)
  | bpcmdAdd (v : DWord)
  | bpcmdRemove (v : DWord)
  | bpcmdClear
  -- events of the command queues and of launches (13)
  | wake (q : Nat) (w : Word)
  | packetFetch (q : Nat)
  | seqRetry (q : Nat)
  | pad (q : Nat)
  | launchPacket (q : Nat)
  | waitPacket (q : Nat)
  | waitPoll (q : Nat)
  | writePacket (q : Nat)
  | fencePacket (q : Nat)
  | preemptPacket (q : Nat)
  | specialiserBuild (n : Nat)
  | ticketPull (c l : Nat)
  | blockRetire (b : Nat)
  | launchCompletion (l : Nat)
  | autoPreempt (l : Nat)
  | preemptSave (b : Nat)
  | blockResume (n c : Nat)
  | schedulerMessage (link : Nat) (toLeaf : Bool)
  | mergeWindowClose (n : Nat)
  | queueEnable (q : Nat) (v : BitVec 16)
  | queueReset (q : Nat)
  | queueResetComplete (q : Nat)
  -- events of the host registers (12, 15, 16, 17)
  | packageEnable (v : Word)
  | mirinv (objid : DWord)
  | routeWrite (p : Nat) (v : DWord)
  | rampWrite (die : Nat) (v : DWord)
  | counterClear (off : Nat)
  | registerWrite (off size : Nat) (v : DWord)
  | hostAccess (a : HostAcc)
  | msixUnmask (fn : Fin 9) (vec : Nat)
  | flrVirtualFunction (p : Nat)
  | flrPhysicalFunction
  | conventionalReset (images : Images)
  -- attestation (17 R482)
  | getVersion
  | getCapabilities
  | negotiateAlgorithms (req : List Byte)
  | getDigests
  | getCertificate (off len : Nat)
  | challenge (nonce : List Byte)
  | getMeasurements (index : Nat) (nonce : List Byte)
  -- Helor Link (17 R473–R474)
  | flitReceive (port : Fin 24) (f : Flit)
  | ackTimeout (port : Fin 24)
  | linkUp (v : Word)
  -- power and ageing (17 R475–R480)
  | powerControllerLoop (x : Sensors)
  | watchdog
  | currentLimit (die : Nat)
  | thermalThrottle (die : Nat)
  | thermalShutdown
  | firmwareUpdate
  | firmwareRestart
  | pwrstatClear (v : Word)
  | clusterSleep (cl : Nat)
  | clusterWake (cl : Nat)
  | clusterPoolChange (cl : Nat)
  | dcfg (v : DWord)
  -- rebuild (16 R458–R460)
  | rebuildStart (v : Word)
  | rebuildUnit
  | rebuildComplete
  | rebuildStop
  | dieCools (die : Nat)
  | saveDiscard (n : Nat)
  | clusterPartitionMove (cl : Nat)
  deriving DecidableEq, Repr

/-- The row is an instruction word of a clause, not an event of the device. -/
def Instr.isWord : Instr → Bool := fun i => decide (i.ctorIdx < 183)

end Sys2Proof
end

