-- ==== Sys2Proof/WellFormed.lean ====
section
/-! DEFINITION. Which instructions are well formed: the operand and field rules of spec/02_encoding.md R64–R83 and of each
family's encoding table. A word whose fields break one of them raises ILLEGAL_ENCODING (02 R87). -/

namespace Sys2Proof

/-- A source that may be read as a 64-bit pair (02 R66): an even V index, a whole K register, a queue. -/
def Src.wide64 : Src → Bool
  | .v n _ => n.val % 2 == 0
  | .k h => h.val % 2 == 0
  | .q _ => true

/-- A source that may be read as 128 bits (02 R66): a V index that is a multiple of 4, a queue. -/
def Src.wide128 : Src → Bool
  | .v n _ => n.val % 4 == 0
  | .k _ => false
  | .q _ => true

/-- A 64-bit destination (02 R66). -/
def Dst.wide64 : Dst → Bool
  | .v n => n.val % 2 == 0
  | .q _ => true
  | .vz => true

/-- A 128-bit destination (02 R66). -/
def Dst.wide128 : Dst → Bool
  | .v n => n.val % 4 == 0
  | .q _ => true
  | .vz => true

/-- The source carries the identity pattern (02 R68). -/
def Src.plain : Src → Bool
  | .v _ p => p == .ident
  | _ => true

/-- The source is not a queue. -/
def Src.notQ : Src → Bool
  | .q _ => false
  | _ => true

/-- The destination is not a queue. -/
def Dst.notQ : Dst → Bool
  | .q _ => false
  | _ => true

/-- Bits of an access size (02 R76). -/
def Size.bits : Size → Nat
  | .s8 => 8 | .s16 => 16 | .s32 => 32 | .s64 => 64 | .s128 => 128

/-- Bytes of an access size. -/
def Size.bytes (s : Size) : Nat := s.bits / 8

/-- Alignment of a destination for an access size (02 R66, R78). -/
def Dst.fits (d : Dst) : Size → Bool
  | .s64 => d.wide64
  | .s128 => d.wide128
  | _ => true

/-- Alignment of store data for an access size (02 R66, R78). -/
def StData.fits : StData → Size → Bool
  | .v n, .s64 => n.val % 2 == 0
  | .v n, .s128 => n.val % 4 == 0
  | _, _ => true

/-- Types held in one register (07 R194). -/
def Ty.oneReg : Ty → Bool
  | .fp32 | .int8 | .uint8 | .int16 | .uint16 | .int32 | .uint32 => true
  | _ => false
/-- The narrow float types (07 R194). -/
def Ty.narrow : Ty → Bool
  | .fp16 | .bf16 => true
  | _ => false
/-- The 64-bit integer types (07 R194). -/
def Ty.wide : Ty → Bool
  | .int64 | .uint64 => true
  | _ => false

/-- FMT codes that name a format (06 R170): KIND 0, and not P = 0 with I = 1. -/
def fmtOk (f : Byte) : Bool :=
  decide (f.toNat < 32) && !(f.toNat % 8 == 0 && f.toNat / 16 % 2 == 1)

/-- What R123 says of one system register. -/
structure SysregInfo where
  wide : Bool
  writable : Bool
  threadOwned : Bool
  deriving DecidableEq, Repr

/-- The assigned system registers (04 R123, R124). -/
def sysreg (n : Nat) : Option SysregInfo :=
  let ro := SysregInfo.mk false false
  match n with
  | 0x000 | 0x001 => some (ro true)
  | 0x002 => some (ro false)
  | 0x010 | 0x011 | 0x012 | 0x013 | 0x014 | 0x015 | 0x016 | 0x017 => some (ro false)
  | 0x018 | 0x019 | 0x01A | 0x01B | 0x01C | 0x01D | 0x01E | 0x01F => some (ro false)
  | 0x020 | 0x021 | 0x022 | 0x023 | 0x024 => some (ro false)
  | 0x030 => some ⟨false, true, true⟩
  | 0x031 => some ⟨true, true, true⟩
  | 0x032 => some ⟨true, true, true⟩
  | 0x033 => some ⟨true, false, true⟩
  | 0x034 | 0x035 | 0x036 | 0x037 => some (ro true)
  | 0x040 => some ⟨true, false, false⟩
  | 0x041 => some (ro false)
  | 0x050 | 0x051 => some (ro true)
  | 0x052 | 0x053 => some (ro false)
  | 0x060 => some (ro true)
  | 0x061 => some (ro false)
  | 0x062 => some (ro true)
  | _ => none

/-- 10 R270, R271: fields a load admits on the paths given. -/
def MemF.loadOk (m : MemF) (d : Dst) : Bool :=
  m.addr.val % 2 == 0 && (m.order == .rlx || m.order == .acq || m.order == .sc) && d.notQ && d.fits m.size

/-- 10 R270, R271: fields a store admits. -/
def MemF.storeOk (m : MemF) (x : StData) : Bool :=
  m.addr.val % 2 == 0 && (m.order == .rlx || m.order == .rel || m.order == .sc) && x.fits m.size

/-- 10 R282, R283: fields an atomic other than CAS admits. -/
def AtomF.ok (m : AtomF) (d : Dst) (wideToo : Bool) : Bool :=
  m.addr.val % 2 == 0 && d.notQ && m.opnd.plain &&
  (m.size == .s32 || (wideToo && m.size == .s64 && d.wide64 && m.opnd.wide64))

/-- 10 R283: CAS takes two V operands, the second not past V1535. -/
def AtomF.casOk (m : AtomF) (d : Dst) : Bool :=
  m.addr.val % 2 == 0 && d.notQ &&
  match m.opnd with
  | .v n p => p == .ident &&
      ((m.size == .s32 && decide (n.val + 1 < 1536)) ||
       (m.size == .s64 && d.wide64 && n.val % 2 == 0 && decide (n.val + 3 < 1536)))
  | _ => false

/-- 07 R194: the operand forms of CVT. -/
def cvtOk (src dst : Ty) (d : Dst) (a : Src) (b : Option Src) : Bool :=
  if src.oneReg && dst.oneReg then b.isNone
  else if (src.wide || dst.wide) && (src.wide || src.oneReg) && (dst.wide || dst.oneReg) then
    b.isNone && (!src.wide || a.wide64) && (!dst.wide || d.wide64)
  else if src.oneReg && dst.narrow then b.isSome
  else if src.narrow && dst.oneReg then b.isNone && d.wide64
  else if src.narrow && dst.narrow then b.isNone
  else false

/-- GROW and SHRINK counts (08 R203). -/
def growOk (n : BitVec 11) : Bool := n.toNat % 64 == 0 && decide (64 ≤ n.toNat) && decide (n.toNat ≤ 1536)

/-- A SYNC operand A: no queue, no pattern (16 R443). -/
def Src.syncOk (a : Src) : Bool := a.plain && a.notQ

/-- Well-formedness of an instruction. Events carry no encoding and are well formed. -/
def Instr.wf : Instr → Bool
  | .add64 _ d a b | .sub64 _ d a b => d.wide64 && a.wide64 && b.wide64
  | .shl64 _ d a _ | .shr64 _ d a _ _ | .lea _ d a _ _ _ => d.wide64 && a.wide64
  | .mov _ d a w => match w with
      | .w32 => true
      | .w64 => d.wide64 && a.wide64
      | .w128 => d.wide128 && a.wide128
  | .redoct _ _ _ o rm => o == .fadd || rm == .rne
  | .matchL _ _ a w => !w || a.wide64
  | .cvt _ d a b src dst _ => cvtOk src dst d a b
  | .pack8 _ _ a _ _ head _ => if head then a.wide64 else a.wide128
  | .unpack8 _ d _ b _ => match b with
      | some _ => d.wide128
      | none => d.wide64
  | .ld _ d m => m.loadOk d && (m.path == .gen || m.path == .pers || (m.path == .spad && m.evict == 0))
  | .st _ x m => m.storeOk x && (m.path == .gen || m.path == .pers || (m.path == .spad && m.evict == 0))
  | .ldro _ d m => m.loadOk d && m.order == .rlx && m.scope == .thread && m.path == .ro
  | .lds _ d m => m.loadOk d && m.path == .spad && m.evict == 0
  | .sts _ x m => m.storeOk x && m.path == .spad && m.evict == 0
  | .atomAdd _ d m | .atomMin _ d m | .atomMax _ d m | .atomMinu _ d m | .atomMaxu _ d m | .atomAnd _ d m
  | .atomOr _ d m | .atomXor _ d m | .atomExch _ d m => m.ok d true
  | .atomCas _ d m => m.casOk d
  | .atomFadd _ d m | .atomFmin _ d m | .atomFmax _ d m => m.ok d false
  | .fence _ o _ => o != .rlx
  | .pref _ a _ _ _ _ | .cctlL1line _ a _ _ | .cctlL2wb _ a _ _ | .cctlL2inv _ a _ _ | .pwb _ a _ _ _ => a.val % 2 == 0
  | .qlen _ d _ _ => d.notQ
  | .qtryPop _ d _ _ => d.notQ
  | .qtryPush _ _ a _ => a.notQ
  | .brx _ a | .ret _ a => a.wide64 && a.notQ
  | .call _ d _ => d.wide64 && d.notQ
  | .utret _ m => match m with
      | .substW64 a => a.wide64
      | _ => true
  | .rdsr _ d n => match sysreg n.toNat with
      | some i => !i.wide || d.wide64
      | none => false
  | .wrsr _ n a => match sysreg n.toNat with
      | some i => i.writable && (!i.wide || a.wide64)
      | none => false
  | .grow _ n | .shrink _ n => growOk n
  | .kld _ _ _ o _ _ => o != .rel
  | .kst _ _ _ o _ _ => o != .acq
  | .krdsr _ _ n => match sysreg n.toNat with
      | some i => !i.threadOwned
      | none => false
  | .talloc _ _ ty _ => ty == .fp16 || ty == .bf16 || ty == .b8 || ty == .int8 || ty == .uint8
  | .mma _ _ a b ty _ =>
      (ty == .fp16 || ty == .bf16 || ty == .b8 || ty == .int8) && (!a.own || a.core == 0) && (!b.own || b.core == 0)
  | .astore _ _ d ty fmt =>
      (match d with
        | .rows _ _ _ => ty == .fp32 || ty == .int32 || ty == .fp16 || ty == .bf16 || ty == .b8
        | .tile _ => ty == .fp16 || ty == .bf16 || ty == .b8) &&
      (if ty == .b8 then fmtOk fmt else fmt == 0)
  | .cpya _ _ _ _ _ k | .cpyg _ _ _ _ k | .cpys _ _ _ _ k => k.val != 127
  | .cpycan _ _ all bar => !all || bar == 0
  | .qcfg _ _ _ _ _ cap => cap != 0
  | .barArrive _ d _ => d.notQ
  | .barWait _ _ p => match p with
      | .imm _ => true
      | .reg a _ => a.syncOk
  | .barExpect _ _ k a imm => (match a with
      | some x => x.syncOk
      | none => true) && (k != .all || imm == 0)
  | .signal _ a _ => match a with
      | .v n => n.val % 2 == 0
      | .k m => m.val != 127
  | _ => true

end Sys2Proof
end

