-- ==== Sys2Proof/Decode.lean ====
section
/-! DEFINITION. The decoder of instruction words (spec/02_encoding.md R61–R86 and the encoding tables of each family),
total on any word and rejecting by name, and after it the encoder. -/

namespace Sys2Proof

/-- Why a word is no instruction (02 R87): an opcode R85 does not assign, or a field that breaks a rule. -/
inductive Reject where
  | opcode | encoding
  deriving DecidableEq, Repr

/-- Bits [lo+len-1:lo] of a word, as a number (00 R12). -/
def fld (w : DWord) (lo len : Nat) : Nat := w.toNat / 2 ^ lo % 2 ^ len

/-- A number as an index below a bound, if it is one. -/
def finOf (n v : Nat) : Option (Fin n) := if h : v < n then some ⟨v, h⟩ else none

/-- Keep a value when a condition holds. -/
def keep {α : Type} (c : Bool) (x : α) : Option α := if c then some x else none

/-- One bit as a truth value; `none` above 1. -/
def flagOf (v : Nat) : Bool := v != 0

/-! ### Codes -/

def Pat.code : Pat → Nat
  | .ident => 0 | .rot1 => 1 | .rotn1 => 2 | .b0 => 3 | .x1 => 4 | .x2 => 5 | .x4 => 6 | .mir => 7
def Pat.ofCode : Nat → Pat
  | 1 => .rot1 | 2 => .rotn1 | 3 => .b0 | 4 => .x1 | 5 => .x2 | 6 => .x4 | 7 => .mir | _ => .ident

def Rm.code : Rm → Nat
  | .rne => 0 | .rtz => 1 | .rdn => 2 | .rup => 3
def Rm.ofCode : Nat → Rm
  | 1 => .rtz | 2 => .rdn | 3 => .rup | _ => .rne

def Ty.code : Ty → Nat
  | .fp32 => 0 | .fp16 => 1 | .bf16 => 2 | .b8 => 3 | .int8 => 4 | .uint8 => 5 | .int16 => 6 | .uint16 => 7
  | .int32 => 8 | .uint32 => 9 | .int64 => 10 | .uint64 => 11
def Ty.ofCode : Nat → Option Ty
  | 0 => some .fp32 | 1 => some .fp16 | 2 => some .bf16 | 3 => some .b8 | 4 => some .int8 | 5 => some .uint8
  | 6 => some .int16 | 7 => some .uint16 | 8 => some .int32 | 9 => some .uint32 | 10 => some .int64 | 11 => some .uint64
  | _ => none

def Size.code : Size → Nat
  | .s8 => 0 | .s16 => 1 | .s32 => 2 | .s64 => 3 | .s128 => 4
def Size.ofCode : Nat → Option Size
  | 0 => some .s8 | 1 => some .s16 | 2 => some .s32 | 3 => some .s64 | 4 => some .s128 | _ => none

def Order.code : Order → Nat
  | .rlx => 0 | .acq => 1 | .rel => 2 | .sc => 3
def Order.ofCode : Nat → Order
  | 1 => .acq | 2 => .rel | 3 => .sc | _ => .rlx

def Scope.code : Scope → Nat
  | .thread => 0 | .block => 1 | .cluster => 2 | .die => 3 | .package => 4 | .pod => 5 | .system => 6
def Scope.ofCode : Nat → Option Scope
  | 0 => some .thread | 1 => some .block | 2 => some .cluster | 3 => some .die | 4 => some .package | 5 => some .pod
  | 6 => some .system | _ => none

def Path.code : Path → Nat
  | .gen => 0 | .spad => 1 | .ro => 2 | .pers => 3
def Path.ofCode : Nat → Option Path
  | 0 => some .gen | 1 => some .spad | 2 => some .ro | 3 => some .pers | _ => none

def Cmp.code : Cmp → Nat
  | .eq => 0 | .ne => 1 | .lt => 2 | .le => 3 | .gt => 4 | .ge => 5 | .ltu => 6 | .leu => 7 | .gtu => 8 | .geu => 9
def Cmp.ofCode : Nat → Option Cmp
  | 0 => some .eq | 1 => some .ne | 2 => some .lt | 3 => some .le | 4 => some .gt | 5 => some .ge | 6 => some .ltu
  | 7 => some .leu | 8 => some .gtu | 9 => some .geu | _ => none

def FCmp.code : FCmp → Nat
  | .eq => 0 | .ne => 1 | .lt => 2 | .le => 3 | .gt => 4 | .ge => 5 | .num => 6 | .nan => 7
def FCmp.ofCode : Nat → Option FCmp
  | 0 => some .eq | 1 => some .ne | 2 => some .lt | 3 => some .le | 4 => some .gt | 5 => some .ge | 6 => some .num
  | 7 => some .nan | _ => none

def PredOp.code : PredOp → Nat
  | .and => 0 | .or => 1 | .xor => 2 | .andn => 3 | .orn => 4 | .nor => 5 | .nand => 6 | .xnor => 7
def PredOp.ofCode : Nat → Option PredOp
  | 0 => some .and | 1 => some .or | 2 => some .xor | 3 => some .andn | 4 => some .orn | 5 => some .nor
  | 6 => some .nand | 7 => some .xnor | _ => none

def MovW.code : MovW → Nat
  | .w32 => 0 | .w64 => 1 | .w128 => 2
def MovW.ofCode : Nat → Option MovW
  | 0 => some .w32 | 1 => some .w64 | 2 => some .w128 | _ => none

def ShufMode.code : ShufMode → Nat
  | .idx => 0 | .up => 1 | .down => 2 | .xor => 3 | .rot => 4
def ShufMode.ofCode : Nat → Option ShufMode
  | 0 => some .idx | 1 => some .up | 2 => some .down | 3 => some .xor | 4 => some .rot | _ => none

def RedOp.code : RedOp → Nat
  | .add => 0 | .min => 1 | .max => 2 | .minu => 3 | .maxu => 4 | .and => 5 | .or => 6 | .xor => 7
  | .fadd => 8 | .fmin => 9 | .fmax => 10
def RedOp.ofCode : Nat → Option RedOp
  | 0 => some .add | 1 => some .min | 2 => some .max | 3 => some .minu | 4 => some .maxu | 5 => some .and
  | 6 => some .or | 7 => some .xor | 8 => some .fadd | 9 => some .fmin | 10 => some .fmax | _ => none

def ExpKind.code : ExpKind → Nat
  | .bytes => 0 | .arrivals => 1 | .all => 2
def ExpKind.ofCode : Nat → Option ExpKind
  | 0 => some .bytes | 1 => some .arrivals | 2 => some .all | _ => none

def SigOp.code : SigOp → Nat
  | .set => 0 | .add => 1 | .maxu => 2
def SigOp.ofCode : Nat → Option SigOp
  | 0 => some .set | 1 => some .add | 2 => some .maxu | _ => none

/-! ### Operand fields (02 R64, R67, R68, R71) -/

/-- A 14-bit source field. A pattern on a queue or a K half is an encoding fault (02 R68). -/
def srcOf (f : Nat) : Option Src :=
  let i := f % 2048
  let p := f / 2048 % 8
  if h : i < 1536 then some (.v ⟨i, h⟩ (Pat.ofCode p))
  else if p ≠ 0 then none
  else if h : i - 1536 < 16 then some (.q ⟨i - 1536, h⟩)
  else if h : i - 1552 < 256 then some (.k ⟨i - 1552, h⟩)
  else none

def srcField : Src → Nat
  | .v n p => n.val + 2048 * p.code
  | .q n => 1536 + n.val
  | .k h => 1552 + h.val

/-- An 11-bit destination field. A K index is an encoding fault (01 R33). -/
def dstOf (i : Nat) : Option Dst :=
  if h : i < 1536 then some (.v ⟨i, h⟩)
  else if h : i - 1536 < 16 then some (.q ⟨i - 1536, h⟩)
  else if i = 2047 then some .vz
  else none

def dstField : Dst → Nat
  | .v n => n.val
  | .q n => 1536 + n.val
  | .vz => 2047

/-- A predicate source field (02 R71). -/
def psrcOf (f : Nat) : Option PSrc := do
  let n ← finOf 8 (f % 2048)
  some ⟨n, Pat.ofCode (f / 2048 % 8)⟩

def psrcField (s : PSrc) : Nat := s.n.val + 2048 * s.p.code

def queueOf (f : Nat) : Option (Fin 16) := if 1536 ≤ f then finOf 16 (f - 1536) else none

def qField (q : Fin 16) : Nat := 1536 + q.val

/-! ### The decoder -/

def gOf (w : DWord) : Guard := ⟨fld w 8 3, Nat.mod_lt _ (by decide)⟩
def dF (w : DWord) : Nat := fld w 11 11
def aF (w : DWord) : Nat := fld w 22 14
def bF (w : DWord) : Nat := fld w 36 14
def cF (w : DWord) : Nat := fld w 50 14
def modF (w : DWord) : Nat := fld w 50 14
def immF (w : DWord) : Nat := fld w 36 28
def subF (w : DWord) : Nat := fld w 60 4
def rmOf (w : DWord) : Rm := Rm.ofCode (fld w 58 2)
def tyF (w : DWord) : Nat := fld w 50 4

/-- V2 with no modifier in use: D, A, B. -/
def v2 (w : DWord) (f : Guard → Dst → Src → Src → Instr) : Option Instr := do
  let d ← dstOf (dF w); let a ← srcOf (aF w); let b ← srcOf (bF w)
  keep (modF w == 0) (f (gOf w) d a b)

/-- V2 with only D and A in use. -/
def v2a (w : DWord) (f : Guard → Dst → Src → Instr) : Option Instr := do
  let d ← dstOf (dF w); let a ← srcOf (aF w)
  keep (modF w == 0 && bF w == 0) (f (gOf w) d a)

/-- V2 with only SUB of the modifier in use. -/
def v2s (w : DWord) (f : Guard → Dst → Src → Src → Nat → Option Instr) : Option Instr := do
  let d ← dstOf (dF w); let a ← srcOf (aF w); let b ← srcOf (bF w)
  if fld w 50 10 == 0 then f (gOf w) d a b (subF w) else none

def v3 (w : DWord) (f : Guard → Dst → Src → Src → Src → Instr) : Option Instr := do
  let d ← dstOf (dF w); let a ← srcOf (aF w); let b ← srcOf (bF w); let c ← srcOf (cF w)
  some (f (gOf w) d a b c)

/-- BFE and BFEU: V3 with B zero. -/
def v3ac (w : DWord) (f : Guard → Dst → Src → Src → Instr) : Option Instr := do
  let d ← dstOf (dF w); let a ← srcOf (aF w); let c ← srcOf (cF w)
  keep (bF w == 0) (f (gOf w) d a c)

def vi (w : DWord) (f : Guard → Dst → Src → BitVec 28 → Instr) : Option Instr := do
  let d ← dstOf (dF w); let a ← srcOf (aF w)
  some (f (gOf w) d a (BitVec.ofNat 28 (immF w)))

/-- SHLI, SHRI, SARI: the count in IMM28 [4:0] (05 R137). -/
def viShift (w : DWord) (f : Guard → Dst → Src → Fin 32 → Instr) : Option Instr := do
  let d ← dstOf (dF w); let a ← srcOf (aF w); let n ← finOf 32 (immF w)
  some (f (gOf w) d a n)

def fsrcOf (src abs neg : Nat) : Option FSrc := do
  let s ← srcOf src
  some ⟨s, flagOf abs, flagOf neg⟩

/-- FP V2 with A and B modified; RM and TYPE given to `f`. SUB is 0. -/
def fp2 (w : DWord) (f : Guard → Dst → FSrc → FSrc → Rm → Nat → Option Instr) : Option Instr := do
  let d ← dstOf (dF w)
  let a ← fsrcOf (aF w) (fld w 55 1) (fld w 54 1)
  let b ← fsrcOf (bF w) (fld w 57 1) (fld w 56 1)
  if subF w == 0 then f (gOf w) d a b (rmOf w) (tyF w) else none

def fp2rm (w : DWord) (f : Guard → Dst → FSrc → FSrc → Rm → Instr) : Option Instr :=
  fp2 w fun g d a b rm ty => keep (ty == 0) (f g d a b rm)

def fp2n (w : DWord) (f : Guard → Dst → FSrc → FSrc → Instr) : Option Instr :=
  fp2 w fun g d a b rm ty => keep (ty == 0 && rm == .rne) (f g d a b)

/-- The packed forms: TYPE 1 (FP16) or 2 (BF16). -/
def fp2h (w : DWord) (f : Guard → Dst → FSrc → FSrc → Bool → Instr) : Option Instr :=
  fp2 w fun g d a b rm ty => keep (rm == .rne && (ty == 1 || ty == 2)) (f g d a b (ty == 2))

/-- FP V2 with A only, B and its modifiers 0, SUB and TYPE 0. -/
def fp1rm (w : DWord) (f : Guard → Dst → FSrc → Rm → Instr) : Option Instr := do
  let d ← dstOf (dF w)
  let a ← fsrcOf (aF w) (fld w 55 1) (fld w 54 1)
  keep (subF w == 0 && bF w == 0 && fld w 56 2 == 0 && tyF w == 0) (f (gOf w) d a (rmOf w))

def fp1 (w : DWord) (f : Guard → Dst → FSrc → Instr) : Option Instr := do
  let d ← dstOf (dF w)
  let a ← fsrcOf (aF w) (fld w 55 1) (fld w 54 1)
  keep (subF w == 0 && bF w == 0 && fld w 56 4 == 0 && tyF w == 0) (f (gOf w) d a)

/-- Format M fields (02 R76); DATA is left to the caller. -/
def memOf (w : DWord) : Option MemF := do
  let addr ← finOf 1536 (aF w)
  let path ← Path.ofCode (fld w 47 3)
  let size ← Size.ofCode (fld w 44 3)
  let scope ← Scope.ofCode (fld w 38 3)
  some ⟨addr, BitVec.ofNat 14 (fld w 50 14), path, size, ⟨fld w 41 3, Nat.mod_lt _ (by decide)⟩, scope,
    Order.ofCode (fld w 36 2)⟩

def memLd (w : DWord) (f : Guard → Dst → MemF → Instr) : Option Instr := do
  let d ← dstOf (dF w); let m ← memOf w
  some (f (gOf w) d m)

def memSt (w : DWord) (f : Guard → StData → MemF → Instr) : Option Instr := do
  let m ← memOf w
  match ← dstOf (dF w) with
  | .v n => some (f (gOf w) (.v n) m)
  | .q n => some (f (gOf w) (.q n) m)
  | .vz => none

/-- Format MA fields (02 R79). -/
def atomOf (w : DWord) (f : Guard → Dst → AtomF → Instr) : Option Instr := do
  let d ← dstOf (dF w)
  let addr ← finOf 1536 (aF w)
  let size ← Size.ofCode (fld w 47 3)
  let scope ← Scope.ofCode (fld w 41 3)
  let o ← srcOf (cF w)
  keep (fld w 36 3 == 0)
    (f (gOf w) d ⟨addr, size, ⟨fld w 44 3, Nat.mod_lt _ (by decide)⟩, scope, Order.ofCode (fld w 39 2), o⟩)

/-- Address, offset and size of an instruction that uses no other format M field but those masked out by the caller. -/
def lineOf (w : DWord) (f : Fin 1536 → BitVec 14 → Size → Option Instr) : Option Instr := do
  let addr ← finOf 1536 (aF w)
  let size ← Size.ofCode (fld w 44 3)
  f addr (BitVec.ofNat 14 (fld w 50 14)) size

def kN (w : DWord) (lo : Nat) : Fin 128 := ⟨fld w lo 7, Nat.mod_lt _ (by decide)⟩
def kdN (w : DWord) : Fin 128 := kN w 11
def kaN (w : DWord) : Fin 128 := kN w 18
def kbN (w : DWord) : Fin 128 := kN w 25
def imm32 (w : DWord) : BitVec 32 := BitVec.ofNat 32 (fld w 32 32)
def q4 (w : DWord) (lo : Nat) : Fin 16 := ⟨fld w lo 4, Nat.mod_lt _ (by decide)⟩

def kop (w : DWord) (f : Guard → Fin 128 → Fin 128 → Fin 128 → BitVec 32 → Instr) : Option Instr :=
  some (f (gOf w) (kdN w) (kaN w) (kbN w) (imm32 w))

/-- KLD and KST: ORDER and SCOPE in KB (14 R393). -/
def kmem (w : DWord) (f : Guard → Fin 128 → Fin 128 → Order → Scope → BitVec 32 → Instr) : Option Instr := do
  let sc ← Scope.ofCode (fld w 27 3)
  keep (fld w 30 2 == 0) (f (gOf w) (kdN w) (kaN w) (Order.ofCode (fld w 25 2)) sc (imm32 w))

/-- A copy command (12 R345): TYPE is 0, or 3 where `b8` may be set. -/
def copyOf (w : DWord) (b8ok : Bool) (f : Guard → Bool → Fin 16 → Fin 128 → Fin 128 → Fin 128 → Instr) : Option Instr :=
  let ty := fld w 35 4
  keep (fld w 11 24 == 0 && (ty == 0 || (ty == 3 && b8ok)))
    (f (gOf w) (ty == 3) (q4 w 60) (kN w 53) (kN w 39) (kN w 46))

/-- Own tile index of format X: TA [7:6] is 0 (14 R398). -/
def ownTile (w : DWord) : Option (Fin 64) := finOf 64 (fld w 15 8)

def parseInt (op : Nat) (w : DWord) : Option Instr :=
  match op with
  | 0x00 => keep (fld w 11 53 == 0) (.nop (gOf w))
  | 0x01 => v2 w .iadd
  | 0x02 => v2 w .isub
  | 0x03 => vi w .iaddi
  | 0x04 => v2 w .imul
  | 0x05 => v2 w .imulhi
  | 0x06 => v2 w .imulhu
  | 0x07 => v3 w .imad
  | 0x08 => v2 w .idiv
  | 0x09 => v2 w .idivu
  | 0x0A => v2 w .irem
  | 0x0B => v2 w .iremu
  | 0x0C => v2 w .imin
  | 0x0D => v2 w .imax
  | 0x0E => v2 w .iminu
  | 0x0F => v2 w .imaxu
  | 0x10 => v2a w .iabs
  | 0x11 => v2 w .and
  | 0x12 => v2 w .or
  | 0x13 => v2 w .xor
  | 0x14 => v2 w .andn
  | 0x15 => vi w .andi
  | 0x16 => vi w .ori
  | 0x17 => vi w .xori
  | 0x18 => v2 w .shl
  | 0x19 => v2 w .shr
  | 0x1A => v2 w .sar
  | 0x1B => v2 w .rotl
  | 0x1C => viShift w .shli
  | 0x1D => viShift w .shri
  | 0x1E => viShift w .sari
  | 0x1F => v3ac w .bfe
  | 0x20 => v3ac w .bfeu
  | 0x21 => v3 w .bfi
  | 0x22 => v2a w .popc
  | 0x23 => v2a w .clz
  | 0x24 => v2a w .ctz
  | 0x25 => v2a w .brev
  | 0x26 => v2 w .add64
  | 0x27 => v2 w .sub64
  | 0x28 => v2 w .shl64
  | 0x29 => v2s w fun g d a b s => keep (s < 2) (.shr64 g d a b (s == 1))
  | 0x2A => v2s w fun g d a b s => (finOf 8 (s % 8)).map fun k => .lea g d a b k (s / 8 == 1)
  | 0x2B => v2s w fun g d a _ s => if bF w == 0 then (MovW.ofCode s).map (.mov g d a) else none
  | 0x2C => do
      let d ← dstOf (dF w)
      keep (aF w == 0) (.movi (gOf w) d (BitVec.ofNat 28 (immF w)))
  | 0x2D => do
      let d ← dstOf (dF w); let a ← srcOf (aF w)
      keep (fld w 52 12 == 0) (.movhi (gOf w) d a (BitVec.ofNat 16 (fld w 36 16)))
  | 0x2E => v2s w fun g d a b s => (finOf 8 (s % 8)).map fun p => .sel g d a b p (s / 8 == 1)
  | 0x2F => do
      let p ← finOf 8 (dF w); let a ← srcOf (aF w); let b ← srcOf (bF w); let c ← Cmp.ofCode (subF w)
      keep (fld w 50 10 == 0) (.isetp (gOf w) p a b c)
  | 0x30 => do
      let p ← finOf 8 (dF w); let a ← psrcOf (aF w); let b ← psrcOf (bF w); let o ← PredOp.ofCode (subF w)
      keep (fld w 50 10 == 0) (.psetp (gOf w) p a b o)
  | 0x31 => do
      let d ← dstOf (dF w)
      keep (aF w == 0 && bF w == 0 && modF w == 0) (.p2v (gOf w) d)
  | 0x32 => do
      let a ← srcOf (aF w); let b ← srcOf (bF w)
      keep (dF w == 0 && modF w == 0) (.v2p (gOf w) a b)
  | 0x33 => v2s w fun g d a b s => (ShufMode.ofCode s).map (.shuf g d a b)
  | 0x34 => do
      let a ← psrcOf (aF w)
      if bF w == 0 && fld w 50 10 == 0 then
        match subF w with
        | 0 => (finOf 8 (dF w)).map fun p => .vote (gOf w) (.all p) a
        | 1 => (finOf 8 (dF w)).map fun p => .vote (gOf w) (.any p) a
        | 2 => (finOf 8 (dF w)).map fun p => .vote (gOf w) (.uni p) a
        | 3 => (dstOf (dF w)).map fun d => .vote (gOf w) (.ballot d) a
        | _ => none
      else none
  | 0x35 => do
      let d ← dstOf (dF w); let a ← srcOf (aF w); let o ← RedOp.ofCode (subF w)
      keep (bF w == 0 && fld w 50 8 == 0) (.redoct (gOf w) d a o (rmOf w))
  | 0x36 => v2s w fun g d a _ s => keep (bF w == 0 && s < 2) (.matchL g d a (s == 1))
  | 0x37 => v3 w .idot4
  | _ => none

def parseFp (op : Nat) (w : DWord) : Option Instr :=
  match op with
  | 0x40 => fp2rm w .fadd
  | 0x41 => fp2rm w .fsub
  | 0x42 => fp2rm w .fmul
  | 0x43 => v3 w .ffma
  | 0x44 => fp2n w .fmin
  | 0x45 => fp2n w .fmax
  | 0x46 => do
      let p ← finOf 8 (dF w)
      let a ← fsrcOf (aF w) (fld w 55 1) (fld w 54 1)
      let b ← fsrcOf (bF w) (fld w 57 1) (fld w 56 1)
      let c ← FCmp.ofCode (subF w)
      keep (fld w 58 2 == 0 && tyF w == 0) (.fsetp (gOf w) p a b c)
  | 0x47 => fp1 w .frcp
  | 0x48 => fp1 w .frsq
  | 0x49 => fp1rm w .fsqrt
  | 0x4A => fp2rm w .fdiv
  | 0x4B => fp1 w .fexp2
  | 0x4C => fp1 w .flog2
  | 0x4D => fp1 w .fsin
  | 0x4E => fp1 w .fcos
  | 0x4F => fp1 w .ftanh
  | 0x50 => fp1rm w .frnd
  | 0x51 => fp1 w .fclass
  | 0x52 => do
      let d ← dstOf (dF w)
      let a ← fsrcOf (aF w) (fld w 55 1) (fld w 54 1)
      let b ← srcOf (bF w)
      keep (subF w == 0 && fld w 56 2 == 0 && tyF w == 0) (.fscale (gOf w) d a b (rmOf w))
  | 0x53 => fp2h w .hadd2
  | 0x54 => fp2h w .hsub2
  | 0x55 => fp2h w .hmul2
  | 0x56 => v3 w .hfma2
  | 0x57 => fp2h w .hmin2
  | 0x58 => fp2h w .hmax2
  | 0x59 => do
      let d ← dstOf (dF w); let a ← srcOf (aF w); let src ← Ty.ofCode (subF w); let dst ← Ty.ofCode (tyF w)
      if fld w 54 4 == 0 then
        if src.oneReg && dst.narrow then (srcOf (bF w)).map fun b => .cvt (gOf w) d a (some b) src dst (rmOf w)
        else keep (bF w == 0) (.cvt (gOf w) d a none src dst (rmOf w))
      else none
  | 0x5A => do
      let d ← dstOf (dF w); let a ← srcOf (aF w); let b ← srcOf (bF w)
      keep (fld w 50 8 == 0 && fld w 62 2 == 0) (.pack8 (gOf w) d a b (flagOf (fld w 60 1)) (flagOf (fld w 61 1)) (rmOf w))
  | 0x5B => do
      let d ← dstOf (dF w); let a ← srcOf (aF w)
      if fld w 50 8 == 0 && fld w 62 2 == 0 && fld w 60 1 == 0 then
        if fld w 61 1 == 1 then keep (bF w == 0) (.unpack8 (gOf w) d a none (rmOf w))
        else (srcOf (bF w)).map fun b => .unpack8 (gOf w) d a (some b) (rmOf w)
      else none
  | 0x5C => v2 w .bscale
  | _ => none

def parseMem (op : Nat) (w : DWord) : Option Instr :=
  match op with
  | 0x80 => memLd w .ld
  | 0x81 => memSt w .st
  | 0x82 => memLd w .ldro
  | 0x83 => memLd w .lds
  | 0x84 => memSt w .sts
  | 0x85 => atomOf w .atomAdd
  | 0x86 => atomOf w .atomMin
  | 0x87 => atomOf w .atomMax
  | 0x88 => atomOf w .atomMinu
  | 0x89 => atomOf w .atomMaxu
  | 0x8A => atomOf w .atomAnd
  | 0x8B => atomOf w .atomOr
  | 0x8C => atomOf w .atomXor
  | 0x8D => atomOf w .atomExch
  | 0x8E => atomOf w .atomCas
  | 0x8F => atomOf w .atomFadd
  | 0x90 => atomOf w .atomFmin
  | 0x91 => atomOf w .atomFmax
  | 0x92 => do
      let sc ← Scope.ofCode (fld w 38 3)
      keep (fld w 11 25 == 0 && fld w 41 23 == 0) (.fence (gOf w) (Order.ofCode (fld w 36 2)) sc)
  | 0x93 => lineOf w fun a o s =>
      let p := fld w 47 3
      keep (fld w 11 11 == 0 && fld w 36 5 == 0 && (p == 0 || p == 2))
        (.pref (gOf w) a o (p == 2) s ⟨fld w 41 3, Nat.mod_lt _ (by decide)⟩)
  | 0x94 =>
      if fld w 15 7 == 0 && fld w 36 8 == 0 && fld w 47 3 == 0 then
        match fld w 11 4 with
        | 0 => keep (fld w 22 42 == 0) (.cctlRoinv (gOf w))
        | 1 => keep (fld w 22 42 == 0) (.cctlL1inv (gOf w))
        | 2 => lineOf w fun a o s => some (.cctlL1line (gOf w) a o s)
        | 3 => lineOf w fun a o s => some (.cctlL2wb (gOf w) a o s)
        | 4 => lineOf w fun a o s => some (.cctlL2inv (gOf w) a o s)
        | _ => none
      else none
  | 0x95 => lineOf w fun a o s =>
      let e := fld w 41 3
      keep (fld w 11 11 == 0 && fld w 36 5 == 0 && fld w 47 3 == 0 && (e == 0 || e == 7)) (.pwb (gOf w) a o s (e == 7))
  | 0x96 =>
      let sc := fld w 38 3
      keep (fld w 11 27 == 0 && fld w 41 23 == 0 && (sc == 4 || sc == 5)) (.pbar (gOf w) (sc == 5))
  | _ => none

def parseQueue (op : Nat) (w : DWord) : Option Instr :=
  match op with
  | 0xA0 => do
      let d ← dstOf (dF w); let q ← queueOf (aF w)
      keep (bF w == 0 && fld w 50 10 == 0 && subF w < 2) (.qlen (gOf w) d q (subF w == 1))
  | 0xA1 =>
      if bF w == 0 && fld w 50 10 == 0 then
        match finOf 8 (subF w), queueOf (aF w), queueOf (dF w) with
        | some p, some q, none => (dstOf (dF w)).map fun d => .qtryPop (gOf w) d q p
        | some p, none, some q => (srcOf (aF w)).map fun a => .qtryPush (gOf w) q a p
        | _, _, _ => none
      else none
  | 0xA2 => do
      let q ← queueOf (aF w)
      keep (dF w == 0 && bF w == 0 && modF w == 0) (.qclose (gOf w) q)
  | 0xA3 => do
      let p ← finOf 8 (dF w); let q ← queueOf (aF w)
      keep (bF w == 0 && modF w == 0) (.qeos (gOf w) p q)
  | _ => none

def parseCtl (op : Nat) (w : DWord) : Option Instr :=
  match op with
  | 0xB0 => keep (fld w 11 25 == 0) (.bra (gOf w) (BitVec.ofNat 28 (immF w)))
  | 0xB1 => do
      let a ← srcOf (aF w)
      keep (dF w == 0 && fld w 36 28 == 0) (.brx (gOf w) a)
  | 0xB2 => do
      let d ← dstOf (dF w)
      keep (aF w == 0) (.call (gOf w) d (BitVec.ofNat 28 (immF w)))
  | 0xB3 => do
      let a ← srcOf (aF w)
      keep (dF w == 0 && fld w 36 28 == 0) (.ret (gOf w) a)
  | 0xB4 => keep (fld w 11 53 == 0) (.exit (gOf w))
  | 0xB5 => keep (fld w 11 53 == 0) (.region (gOf w))
  | 0xB6 => keep (fld w 11 53 == 0) (.yield (gOf w))
  | 0xB7 => keep (fld w 11 25 == 0 && fld w 52 12 == 0) (.trap (gOf w) (BitVec.ofNat 16 (fld w 36 16)))
  | 0xB8 => keep (fld w 11 25 == 0 && fld w 52 12 == 0) (.bkpt (gOf w) (BitVec.ofNat 16 (fld w 36 16)))
  | 0xB9 =>
      if dF w == 0 && fld w 36 24 == 0 then
        match subF w with
        | 0 => keep (aF w == 0) (.utret (gOf w) .plain)
        | 1 => keep (aF w == 0) (.utret (gOf w) .retry)
        | 2 => (srcOf (aF w)).map fun a => .utret (gOf w) (.subst a)
        | 3 => (srcOf (aF w)).map fun a => .utret (gOf w) (.substW64 a)
        | _ => none
      else none
  | 0xBA => do
      let d ← dstOf (dF w)
      keep (aF w == 0 && fld w 48 16 == 0) (.rdsr (gOf w) d (BitVec.ofNat 12 (fld w 36 12)))
  | 0xBB => do
      let a ← srcOf (aF w)
      keep (dF w == 0 && fld w 48 16 == 0) (.wrsr (gOf w) (BitVec.ofNat 12 (fld w 36 12)) a)
  | 0xBC => keep (fld w 11 25 == 0 && fld w 47 17 == 0) (.grow (gOf w) (BitVec.ofNat 11 (fld w 36 11)))
  | 0xBD => keep (fld w 11 25 == 0 && fld w 47 17 == 0) (.shrink (gOf w) (BitVec.ofNat 11 (fld w 36 11)))
  | 0xBE => keep (fld w 11 25 == 0 && fld w 56 8 == 0) (.sleep (gOf w) (BitVec.ofNat 20 (fld w 36 20)))
  | _ => none

def parseK (op : Nat) (w : DWord) : Option Instr :=
  match op with
  | 0xC0 => kop w .kadd
  | 0xC1 => kop w .ksub
  | 0xC2 => kop w .kmul
  | 0xC3 => kop w .kand
  | 0xC4 => kop w .kor
  | 0xC5 => kop w .kxor
  | 0xC6 => kop w .kshl
  | 0xC7 => kop w .kshr
  | 0xC8 => kop w .kmin
  | 0xC9 => kop w .kmax
  | 0xCA => do
      let c ← Cmp.ofCode (fld w 32 32)
      some (.kset (gOf w) (kdN w) (kaN w) (kbN w) c)
  | 0xCB => keep (fld w 18 14 == 0) (.kmovi (gOf w) (kdN w) (imm32 w))
  | 0xCC => keep (fld w 25 7 == 0) (.kmovhi (gOf w) (kdN w) (kaN w) (imm32 w))
  | 0xCD => kmem w .kld
  | 0xCE => kmem w .kst
  | 0xCF => keep (fld w 11 21 == 0) (.kbra (gOf w) (imm32 w))
  | 0xD0 => keep (fld w 8 10 == 0 && fld w 25 7 == 0) (.kloop (kaN w) (imm32 w))
  | 0xD1 => keep (fld w 8 56 == 0) .kend
  | 0xD2 => keep (fld w 18 14 == 0 && fld w 44 20 == 0) (.krdsr (gOf w) (kdN w) (BitVec.ofNat 12 (fld w 32 12)))
  | _ => none

def parseTile (op : Nat) (w : DWord) : Option Instr :=
  match op with
  | 0xD3 => do
      let t ← ownTile w; let ty ← Ty.ofCode (fld w 35 4)
      keep (fld w 11 4 == 0 && fld w 23 12 == 0 && fld w 46 18 == 0) (.talloc (gOf w) t ty (kN w 39))
  | 0xD4 => do
      let t ← ownTile w
      keep (fld w 11 4 == 0 && fld w 23 41 == 0) (.tfree (gOf w) t)
  | 0xD5 => do
      let t ← ownTile w
      keep (fld w 11 4 == 0 && fld w 23 8 == 0 && fld w 35 4 == 0 && fld w 59 5 == 0)
        (.tload (gOf w) t (BitVec.ofNat 4 (fld w 31 4)) (kN w 39) (kN w 46) (flagOf (fld w 53 1)) (flagOf (fld w 54 1)) (q4 w 55))
  | 0xD6 => do
      let t ← ownTile w
      keep (fld w 11 4 == 0 && fld w 23 16 == 0 && fld w 59 5 == 0)
        (.tstore (gOf w) t (kN w 39) (kN w 46) (flagOf (fld w 53 1)) (flagOf (fld w 54 1)) (q4 w 55))
  | 0xD7 => do
      let t ← ownTile w
      keep (fld w 11 4 == 0 && fld w 23 41 == 0) (.tset (gOf w) t)
  | 0xD8 => do
      let ty ← Ty.ofCode (fld w 35 4); let ta ← finOf 64 (fld w 15 6); let tb ← finOf 64 (fld w 23 6)
      keep (fld w 31 4 == 0 && fld w 42 22 == 0)
        (.mma (gOf w) (q4 w 11) ⟨ta, ⟨fld w 21 2, Nat.mod_lt _ (by decide)⟩, flagOf (fld w 39 1)⟩
          ⟨tb, ⟨fld w 29 2, Nat.mod_lt _ (by decide)⟩, flagOf (fld w 40 1)⟩ ty (flagOf (fld w 41 1)))
  | 0xD9 => keep (fld w 15 49 == 0) (.aalloc (gOf w) (q4 w 11))
  | 0xDA => keep (fld w 15 49 == 0) (.afree (gOf w) (q4 w 11))
  | 0xDB => keep (fld w 15 49 == 0) (.aclr (gOf w) (q4 w 11))
  | 0xDC => do
      let ty ← Ty.ofCode (fld w 35 4)
      let fmt := BitVec.ofNat 8 (fld w 55 8)
      if fld w 23 12 == 0 && fld w 63 1 == 0 then
        if fld w 54 1 == 1 then
          (ownTile w).bind fun t => keep (fld w 39 15 == 0) (.astore (gOf w) (q4 w 11) (.tile t) ty fmt)
        else keep (fld w 15 8 == 0) (.astore (gOf w) (q4 w 11) (.rows (kN w 39) (kN w 46) (flagOf (fld w 53 1))) ty fmt)
      else none
  | 0xDD =>
      let ty := fld w 35 4
      keep (fld w 15 20 == 0 && (ty == 0 || ty == 8) && fld w 54 10 == 0)
        (.aload (gOf w) (q4 w 11) (ty == 8) (kN w 39) (kN w 46) (flagOf (fld w 53 1)))
  | _ => none

def parseEng (op : Nat) (w : DWord) : Option Instr :=
  match op with
  | 0xDE => copyOf w true .cpy
  | 0xDF => copyOf w true .cpya
  | 0xE0 => copyOf w false fun g _ => .cpyg g
  | 0xE1 => copyOf w false fun g _ => .cpys g
  | 0xE2 => if fld w 53 7 == 0 then copyOf w false fun g _ q _ s d => .cpyq g q s d else none
  | 0xE3 => copyOf w false fun g _ => .cpyec g
  | 0xE4 => keep (fld w 11 28 == 0 && fld w 47 13 == 0) (.cpycan (gOf w) (kN w 39) (flagOf (fld w 46 1)) (q4 w 60))
  | 0xE5 => do
      let wd ← finOf 3 (fld w 37 2)
      keep (fld w 11 7 == 0 && fld w 25 7 == 0 && fld w 39 1 == 0 && fld w 56 8 == 0)
        (.qcfg (gOf w) (q4 w 32) (kaN w) (flagOf (fld w 36 1)) wd (BitVec.ofNat 16 (fld w 40 16)))
  | 0xE6 => keep (fld w 11 21 == 0 && fld w 36 28 == 0) (.qrel (gOf w) (q4 w 32))
  | 0xE7 => do
      let t ← ownTile w
      keep (fld w 11 4 == 0 && fld w 23 16 == 0 && fld w 59 5 == 0)
        (.strm (gOf w) t (BitVec.ofNat 16 (fld w 39 16)) (q4 w 55))
  | 0xE8 => keep (fld w 11 44 == 0 && fld w 59 5 == 0) (.strmstop (gOf w) (q4 w 55))
  | 0xE9 => keep (fld w 11 7 == 0 && fld w 25 7 == 0) (.launch (gOf w) (kaN w) (imm32 w))
  | 0xEA => keep (fld w 11 7 == 0 && fld w 25 7 == 0) (.coll (gOf w) (kaN w) (imm32 w))
  | 0xEB => keep (fld w 25 39 == 0) (.step (gOf w) (kdN w) (kaN w))
  | _ => none

/-- Operand A of a SYNC instruction, used or not by its USEA bit. -/
def useA (w : DWord) (use : Nat) : Option (Option Src) :=
  if use == 1 then (srcOf (aF w)).map some else keep (aF w == 0) none

def parseSync (op : Nat) (w : DWord) : Option Instr :=
  match op with
  | 0xF0 => do
      let d ← dstOf (dF w)
      keep (aF w == 0 && fld w 40 24 == 0) (.barArrive (gOf w) d (q4 w 36))
  | 0xF1 => do
      let a ← useA w (fld w 41 1)
      if dF w == 0 && fld w 42 22 == 0 then
        match a with
        | some x => some (.barWait (gOf w) (q4 w 36) (.reg x (flagOf (fld w 40 1))))
        | none => some (.barWait (gOf w) (q4 w 36) (.imm (flagOf (fld w 40 1))))
      else none
  | 0xF2 => keep (fld w 11 25 == 0 && fld w 40 24 == 0) (.barSync (gOf w) (q4 w 36))
  | 0xF3 => do
      let k ← ExpKind.ofCode (fld w 40 2); let a ← useA w (fld w 42 1)
      keep (dF w == 0) (.barExpect (gOf w) (q4 w 36) k a (BitVec.ofNat 21 (fld w 43 21)))
  | 0xF4 => keep (fld w 11 53 == 0) (.cbar (gOf w))
  | 0xF5 =>
      keep (fld w 11 25 == 0 && fld w 60 4 == 0)
        (.wait (gOf w) ⟨fld w 36 6, Nat.mod_lt _ (by decide)⟩ ⟨fld w 42 6, Nat.mod_lt _ (by decide)⟩
          ⟨fld w 48 6, Nat.mod_lt _ (by decide)⟩ ⟨fld w 54 6, Nat.mod_lt _ (by decide)⟩)
  | 0xF6 => do
      let o ← SigOp.ofCode (fld w 36 2)
      if dF w == 0 && fld w 38 26 == 0 then
        match srcOf (aF w) with
        | some (.v n .ident) => some (.signal (gOf w) (.v n) o)
        | some (.k h) => if h.val % 2 == 0 then (finOf 128 (h.val / 2)).map fun m => .signal (gOf w) (.k m) o else none
        | _ => none
      else none
  | _ => none

/-- The opcodes that R85 assigns. -/
def opAssigned (op : Nat) : Bool :=
  decide (op ≤ 0x37) || (decide (0x40 ≤ op) && decide (op ≤ 0x5C)) || (decide (0x80 ≤ op) && decide (op ≤ 0x96)) ||
  (decide (0xA0 ≤ op) && decide (op ≤ 0xA3)) || (decide (0xB0 ≤ op) && decide (op ≤ 0xBE)) ||
  (decide (0xC0 ≤ op) && decide (op ≤ 0xEB)) || (decide (0xF0 ≤ op) && decide (op ≤ 0xF6))

/-- The instruction whose fields a word holds, before the well-formedness rules. -/
def parse (w : DWord) : Option Instr :=
  let op := fld w 0 8
  if op < 0x40 then parseInt op w
  else if op < 0x80 then parseFp op w
  else if op < 0xA0 then parseMem op w
  else if op < 0xB0 then parseQueue op w
  else if op < 0xC0 then parseCtl op w
  else if op < 0xD3 then parseK op w
  else if op < 0xDE then parseTile op w
  else if op < 0xF0 then parseEng op w
  else parseSync op w

/-- The decoder (02 R85, R87): the well-formed instruction a word holds, or the name of its fault. -/
def decode (w : DWord) : Except Reject Instr :=
  if opAssigned (fld w 0 8) then
    match parse w with
    | some i => if i.wf then .ok i else .error .encoding
    | none => .error .encoding
  else .error .opcode

/-- The host's question: the instruction the decoder reads from a word whose bits are `w` (every instruction is one
64-bit word; bits above `nbits` are zero). -/
def decodeTableWord (nbits w : Nat) : Option Instr :=
  match decode (BitVec.ofNat 64 (w % 2 ^ nbits)) with
  | .ok i => some i
  | .error _ => none

/-! ### The encoder -/

/-- Opcode and guard. -/
def wOp (op : Nat) (g : Guard) : Nat := op + 2 ^ 8 * g.val

def wV3 (op : Nat) (g : Guard) (d a b c : Nat) : DWord :=
  BitVec.ofNat 64 (wOp op g + 2 ^ 11 * d + 2 ^ 22 * a + 2 ^ 36 * b + 2 ^ 50 * c)

def wVI (op : Nat) (g : Guard) (d a imm : Nat) : DWord :=
  BitVec.ofNat 64 (wOp op g + 2 ^ 11 * d + 2 ^ 22 * a + 2 ^ 36 * imm)

def bit (b : Bool) : Nat := if b then 1 else 0

/-- MOD of format V2 (02 R73), relative to bit 50. -/
def wMod (sub rm absb negb absa nega ty : Nat) : Nat :=
  ty + 2 ^ 4 * nega + 2 ^ 5 * absa + 2 ^ 6 * negb + 2 ^ 7 * absb + 2 ^ 8 * rm + 2 ^ 10 * sub

def wV2 (op : Nat) (g : Guard) (d : Dst) (a b : Src) : DWord := wV3 op g (dstField d) (srcField a) (srcField b) 0
def wV2a (op : Nat) (g : Guard) (d : Dst) (a : Src) : DWord := wV3 op g (dstField d) (srcField a) 0 0
def wV2s (op : Nat) (g : Guard) (d : Dst) (a b : Src) (sub : Nat) : DWord :=
  wV3 op g (dstField d) (srcField a) (srcField b) (wMod sub 0 0 0 0 0 0)
def wF2 (op : Nat) (g : Guard) (d : Nat) (a b : FSrc) (sub rm ty : Nat) : DWord :=
  wV3 op g d (srcField a.src) (srcField b.src) (wMod sub rm (bit b.abs) (bit b.neg) (bit a.abs) (bit a.neg) ty)
def wF1 (op : Nat) (g : Guard) (d : Dst) (a : FSrc) (rm : Nat) : DWord :=
  wV3 op g (dstField d) (srcField a.src) 0 (wMod 0 rm 0 0 (bit a.abs) (bit a.neg) 0)

def stField : StData → Nat
  | .v n => n.val
  | .q n => 1536 + n.val

def wM (op : Nat) (g : Guard) (data : Nat) (m : MemF) : DWord :=
  BitVec.ofNat 64 (wOp op g + 2 ^ 11 * data + 2 ^ 22 * m.addr.val + 2 ^ 36 * m.order.code + 2 ^ 38 * m.scope.code +
    2 ^ 41 * m.evict.val + 2 ^ 44 * m.size.code + 2 ^ 47 * m.path.code + 2 ^ 50 * m.off.toNat)

def wMA (op : Nat) (g : Guard) (d : Dst) (m : AtomF) : DWord :=
  BitVec.ofNat 64 (wOp op g + 2 ^ 11 * dstField d + 2 ^ 22 * m.addr.val + 2 ^ 39 * m.order.code + 2 ^ 41 * m.scope.code +
    2 ^ 44 * m.evict.val + 2 ^ 47 * m.size.code + 2 ^ 50 * srcField m.opnd)

def wLine (op : Nat) (g : Guard) (data : Nat) (addr : Fin 1536) (off : BitVec 14) (size : Size) (evict path : Nat) : DWord :=
  BitVec.ofNat 64 (wOp op g + 2 ^ 11 * data + 2 ^ 22 * addr.val + 2 ^ 41 * evict + 2 ^ 44 * size.code + 2 ^ 47 * path +
    2 ^ 50 * off.toNat)

def wU (op : Nat) (g : Guard) (kd ka kb imm : Nat) : DWord :=
  BitVec.ofNat 64 (wOp op g + 2 ^ 11 * kd + 2 ^ 18 * ka + 2 ^ 25 * kb + 2 ^ 32 * imm)

def wX (op : Nat) (g : Guard) (acc ta tb mcast ty opf : Nat) : DWord :=
  BitVec.ofNat 64 (wOp op g + 2 ^ 11 * acc + 2 ^ 15 * ta + 2 ^ 23 * tb + 2 ^ 31 * mcast + 2 ^ 35 * ty + 2 ^ 39 * opf)

def wCopy (op : Nat) (g : Guard) (b8 : Bool) (bq : Fin 16) (kdst : Nat) (ksrc kdsc : Fin 128) : DWord :=
  wX op g 0 0 0 0 (if b8 then 3 else 0) (ksrc.val + 2 ^ 7 * kdsc.val + 2 ^ 14 * kdst + 2 ^ 21 * bq.val)

def useBits : Option Src → Nat × Nat
  | some a => (srcField a, 1)
  | none => (0, 0)

/-- The word of an instruction (02 R72); an event has none. -/
def encode : Instr → Option DWord
  | .nop g => some (wV3 0x00 g 0 0 0 0)
  | .iadd g d a b => some (wV2 0x01 g d a b)
  | .isub g d a b => some (wV2 0x02 g d a b)
  | .iaddi g d a i => some (wVI 0x03 g (dstField d) (srcField a) i.toNat)
  | .imul g d a b => some (wV2 0x04 g d a b)
  | .imulhi g d a b => some (wV2 0x05 g d a b)
  | .imulhu g d a b => some (wV2 0x06 g d a b)
  | .imad g d a b c => some (wV3 0x07 g (dstField d) (srcField a) (srcField b) (srcField c))
  | .idiv g d a b => some (wV2 0x08 g d a b)
  | .idivu g d a b => some (wV2 0x09 g d a b)
  | .irem g d a b => some (wV2 0x0A g d a b)
  | .iremu g d a b => some (wV2 0x0B g d a b)
  | .imin g d a b => some (wV2 0x0C g d a b)
  | .imax g d a b => some (wV2 0x0D g d a b)
  | .iminu g d a b => some (wV2 0x0E g d a b)
  | .imaxu g d a b => some (wV2 0x0F g d a b)
  | .iabs g d a => some (wV2a 0x10 g d a)
  | .and g d a b => some (wV2 0x11 g d a b)
  | .or g d a b => some (wV2 0x12 g d a b)
  | .xor g d a b => some (wV2 0x13 g d a b)
  | .andn g d a b => some (wV2 0x14 g d a b)
  | .andi g d a i => some (wVI 0x15 g (dstField d) (srcField a) i.toNat)
  | .ori g d a i => some (wVI 0x16 g (dstField d) (srcField a) i.toNat)
  | .xori g d a i => some (wVI 0x17 g (dstField d) (srcField a) i.toNat)
  | .shl g d a b => some (wV2 0x18 g d a b)
  | .shr g d a b => some (wV2 0x19 g d a b)
  | .sar g d a b => some (wV2 0x1A g d a b)
  | .rotl g d a b => some (wV2 0x1B g d a b)
  | .shli g d a n => some (wVI 0x1C g (dstField d) (srcField a) n.val)
  | .shri g d a n => some (wVI 0x1D g (dstField d) (srcField a) n.val)
  | .sari g d a n => some (wVI 0x1E g (dstField d) (srcField a) n.val)
  | .bfe g d a c => some (wV3 0x1F g (dstField d) (srcField a) 0 (srcField c))
  | .bfeu g d a c => some (wV3 0x20 g (dstField d) (srcField a) 0 (srcField c))
  | .bfi g d a b c => some (wV3 0x21 g (dstField d) (srcField a) (srcField b) (srcField c))
  | .popc g d a => some (wV2a 0x22 g d a)
  | .clz g d a => some (wV2a 0x23 g d a)
  | .ctz g d a => some (wV2a 0x24 g d a)
  | .brev g d a => some (wV2a 0x25 g d a)
  | .add64 g d a b => some (wV2 0x26 g d a b)
  | .sub64 g d a b => some (wV2 0x27 g d a b)
  | .shl64 g d a b => some (wV2 0x28 g d a b)
  | .shr64 g d a b s => some (wV2s 0x29 g d a b (bit s))
  | .lea g d a b k z => some (wV2s 0x2A g d a b (k.val + 8 * bit z))
  | .mov g d a w => some (wV3 0x2B g (dstField d) (srcField a) 0 (wMod w.code 0 0 0 0 0 0))
  | .movi g d i => some (wVI 0x2C g (dstField d) 0 i.toNat)
  | .movhi g d a i => some (wVI 0x2D g (dstField d) (srcField a) i.toNat)
  | .sel g d a b p i => some (wV2s 0x2E g d a b (p.val + 8 * bit i))
  | .isetp g p a b c => some (wV3 0x2F g p.val (srcField a) (srcField b) (wMod c.code 0 0 0 0 0 0))
  | .psetp g p a b o => some (wV3 0x30 g p.val (psrcField a) (psrcField b) (wMod o.code 0 0 0 0 0 0))
  | .p2v g d => some (wV3 0x31 g (dstField d) 0 0 0)
  | .v2p g a b => some (wV3 0x32 g 0 (srcField a) (srcField b) 0)
  | .shuf g d a b m => some (wV2s 0x33 g d a b m.code)
  | .vote g v a => match v with
      | .all p => some (wV3 0x34 g p.val (psrcField a) 0 (wMod 0 0 0 0 0 0 0))
      | .any p => some (wV3 0x34 g p.val (psrcField a) 0 (wMod 1 0 0 0 0 0 0))
      | .uni p => some (wV3 0x34 g p.val (psrcField a) 0 (wMod 2 0 0 0 0 0 0))
      | .ballot d => some (wV3 0x34 g (dstField d) (psrcField a) 0 (wMod 3 0 0 0 0 0 0))
  | .redoct g d a o rm => some (wV3 0x35 g (dstField d) (srcField a) 0 (wMod o.code rm.code 0 0 0 0 0))
  | .matchL g d a w => some (wV3 0x36 g (dstField d) (srcField a) 0 (wMod (bit w) 0 0 0 0 0 0))
  | .idot4 g d a b c => some (wV3 0x37 g (dstField d) (srcField a) (srcField b) (srcField c))
  | .fadd g d a b rm => some (wF2 0x40 g (dstField d) a b 0 rm.code 0)
  | .fsub g d a b rm => some (wF2 0x41 g (dstField d) a b 0 rm.code 0)
  | .fmul g d a b rm => some (wF2 0x42 g (dstField d) a b 0 rm.code 0)
  | .ffma g d a b c => some (wV3 0x43 g (dstField d) (srcField a) (srcField b) (srcField c))
  | .fmin g d a b => some (wF2 0x44 g (dstField d) a b 0 0 0)
  | .fmax g d a b => some (wF2 0x45 g (dstField d) a b 0 0 0)
  | .fsetp g p a b c => some (wF2 0x46 g p.val a b c.code 0 0)
  | .frcp g d a => some (wF1 0x47 g d a 0)
  | .frsq g d a => some (wF1 0x48 g d a 0)
  | .fsqrt g d a rm => some (wF1 0x49 g d a rm.code)
  | .fdiv g d a b rm => some (wF2 0x4A g (dstField d) a b 0 rm.code 0)
  | .fexp2 g d a => some (wF1 0x4B g d a 0)
  | .flog2 g d a => some (wF1 0x4C g d a 0)
  | .fsin g d a => some (wF1 0x4D g d a 0)
  | .fcos g d a => some (wF1 0x4E g d a 0)
  | .ftanh g d a => some (wF1 0x4F g d a 0)
  | .frnd g d a rm => some (wF1 0x50 g d a rm.code)
  | .fclass g d a => some (wF1 0x51 g d a 0)
  | .fscale g d a b rm =>
      some (wV3 0x52 g (dstField d) (srcField a.src) (srcField b) (wMod 0 rm.code 0 0 (bit a.abs) (bit a.neg) 0))
  | .hadd2 g d a b bf => some (wF2 0x53 g (dstField d) a b 0 0 (1 + bit bf))
  | .hsub2 g d a b bf => some (wF2 0x54 g (dstField d) a b 0 0 (1 + bit bf))
  | .hmul2 g d a b bf => some (wF2 0x55 g (dstField d) a b 0 0 (1 + bit bf))
  | .hfma2 g d a b c => some (wV3 0x56 g (dstField d) (srcField a) (srcField b) (srcField c))
  | .hmin2 g d a b bf => some (wF2 0x57 g (dstField d) a b 0 0 (1 + bit bf))
  | .hmax2 g d a b bf => some (wF2 0x58 g (dstField d) a b 0 0 (1 + bit bf))
  | .cvt g d a b s t rm => some (wV3 0x59 g (dstField d) (srcField a) (useBits b).1 (wMod s.code rm.code 0 0 0 0 t.code))
  | .pack8 g d a b o h rm =>
      some (wV3 0x5A g (dstField d) (srcField a) (srcField b) (wMod (bit o + 2 * bit h) rm.code 0 0 0 0 0))
  | .unpack8 g d a b rm => match b with
      | some b => some (wV3 0x5B g (dstField d) (srcField a) (srcField b) (wMod 0 rm.code 0 0 0 0 0))
      | none => some (wV3 0x5B g (dstField d) (srcField a) 0 (wMod 2 rm.code 0 0 0 0 0))
  | .bscale g d a b => some (wV2 0x5C g d a b)
  | .ld g d m => some (wM 0x80 g (dstField d) m)
  | .st g x m => some (wM 0x81 g (stField x) m)
  | .ldro g d m => some (wM 0x82 g (dstField d) m)
  | .lds g d m => some (wM 0x83 g (dstField d) m)
  | .sts g x m => some (wM 0x84 g (stField x) m)
  | .atomAdd g d m => some (wMA 0x85 g d m)
  | .atomMin g d m => some (wMA 0x86 g d m)
  | .atomMax g d m => some (wMA 0x87 g d m)
  | .atomMinu g d m => some (wMA 0x88 g d m)
  | .atomMaxu g d m => some (wMA 0x89 g d m)
  | .atomAnd g d m => some (wMA 0x8A g d m)
  | .atomOr g d m => some (wMA 0x8B g d m)
  | .atomXor g d m => some (wMA 0x8C g d m)
  | .atomExch g d m => some (wMA 0x8D g d m)
  | .atomCas g d m => some (wMA 0x8E g d m)
  | .atomFadd g d m => some (wMA 0x8F g d m)
  | .atomFmin g d m => some (wMA 0x90 g d m)
  | .atomFmax g d m => some (wMA 0x91 g d m)
  | .fence g o sc => some (BitVec.ofNat 64 (wOp 0x92 g + 2 ^ 36 * o.code + 2 ^ 38 * sc.code))
  | .pref g a o ro s e => some (wLine 0x93 g 0 a o s e.val (2 * bit ro))
  | .cctlRoinv g => some (BitVec.ofNat 64 (wOp 0x94 g))
  | .cctlL1inv g => some (BitVec.ofNat 64 (wOp 0x94 g + 2 ^ 11))
  | .cctlL1line g a o s => some (wLine 0x94 g 2 a o s 0 0)
  | .cctlL2wb g a o s => some (wLine 0x94 g 3 a o s 0 0)
  | .cctlL2inv g a o s => some (wLine 0x94 g 4 a o s 0 0)
  | .pwb g a o s i => some (wLine 0x95 g 0 a o s (7 * bit i) 0)
  | .pbar g p => some (BitVec.ofNat 64 (wOp 0x96 g + 2 ^ 38 * (4 + bit p)))
  | .qlen g d q f => some (wV3 0xA0 g (dstField d) (qField q) 0 (wMod (bit f) 0 0 0 0 0 0))
  | .qtryPop g d q p => some (wV3 0xA1 g (dstField d) (qField q) 0 (wMod p.val 0 0 0 0 0 0))
  | .qtryPush g q a p => some (wV3 0xA1 g (qField q) (srcField a) 0 (wMod p.val 0 0 0 0 0 0))
  | .qclose g q => some (wV3 0xA2 g 0 (qField q) 0 0)
  | .qeos g p q => some (wV3 0xA3 g p.val (qField q) 0 0)
  | .bra g i => some (wVI 0xB0 g 0 0 i.toNat)
  | .brx g a => some (wV3 0xB1 g 0 (srcField a) 0 0)
  | .call g d i => some (wVI 0xB2 g (dstField d) 0 i.toNat)
  | .ret g a => some (wV3 0xB3 g 0 (srcField a) 0 0)
  | .exit g => some (wVI 0xB4 g 0 0 0)
  | .region g => some (wVI 0xB5 g 0 0 0)
  | .yield g => some (wVI 0xB6 g 0 0 0)
  | .trap g n => some (wVI 0xB7 g 0 0 n.toNat)
  | .bkpt g n => some (wVI 0xB8 g 0 0 n.toNat)
  | .utret g m => match m with
      | .plain => some (wV3 0xB9 g 0 0 0 (wMod 0 0 0 0 0 0 0))
      | .retry => some (wV3 0xB9 g 0 0 0 (wMod 1 0 0 0 0 0 0))
      | .subst a => some (wV3 0xB9 g 0 (srcField a) 0 (wMod 2 0 0 0 0 0 0))
      | .substW64 a => some (wV3 0xB9 g 0 (srcField a) 0 (wMod 3 0 0 0 0 0 0))
  | .rdsr g d n => some (wVI 0xBA g (dstField d) 0 n.toNat)
  | .wrsr g n a => some (wVI 0xBB g 0 (srcField a) n.toNat)
  | .grow g n => some (wVI 0xBC g 0 0 n.toNat)
  | .shrink g n => some (wVI 0xBD g 0 0 n.toNat)
  | .sleep g n => some (wVI 0xBE g 0 0 n.toNat)
  | .kadd g d a b i => some (wU 0xC0 g d a b i.toNat)
  | .ksub g d a b i => some (wU 0xC1 g d a b i.toNat)
  | .kmul g d a b i => some (wU 0xC2 g d a b i.toNat)
  | .kand g d a b i => some (wU 0xC3 g d a b i.toNat)
  | .kor g d a b i => some (wU 0xC4 g d a b i.toNat)
  | .kxor g d a b i => some (wU 0xC5 g d a b i.toNat)
  | .kshl g d a b i => some (wU 0xC6 g d a b i.toNat)
  | .kshr g d a b i => some (wU 0xC7 g d a b i.toNat)
  | .kmin g d a b i => some (wU 0xC8 g d a b i.toNat)
  | .kmax g d a b i => some (wU 0xC9 g d a b i.toNat)
  | .kset g d a b c => some (wU 0xCA g d a b c.code)
  | .kmovi g d i => some (wU 0xCB g d 0 0 i.toNat)
  | .kmovhi g d a i => some (wU 0xCC g d a 0 i.toNat)
  | .kld g d a o sc i => some (wU 0xCD g d a (o.code + 4 * sc.code) i.toNat)
  | .kst g d a o sc i => some (wU 0xCE g d a (o.code + 4 * sc.code) i.toNat)
  | .kbra g i => some (wU 0xCF g 0 0 0 i.toNat)
  | .kloop a i => some (wU 0xD0 0 0 a 0 i.toNat)
  | .kend => some (wU 0xD1 0 0 0 0 0)
  | .krdsr g d n => some (wU 0xD2 g d 0 0 n.toNat)
  | .talloc g t ty k => some (wX 0xD3 g 0 t.val 0 0 ty.code k.val)
  | .tfree g t => some (wX 0xD4 g 0 t.val 0 0 0 0)
  | .tload g t m s p sp be b =>
      some (wX 0xD5 g 0 t.val 0 m.toNat 0 (s.val + 2 ^ 7 * p.val + 2 ^ 14 * bit sp + 2 ^ 15 * bit be + 2 ^ 16 * b.val))
  | .tstore g t s p sp be b =>
      some (wX 0xD6 g 0 t.val 0 0 0 (s.val + 2 ^ 7 * p.val + 2 ^ 14 * bit sp + 2 ^ 15 * bit be + 2 ^ 16 * b.val))
  | .tset g t => some (wX 0xD7 g 0 t.val 0 0 0 0)
  | .mma g h a b ty c =>
      some (wX 0xD8 g h.val (a.tile.val + 64 * a.core.val) (b.tile.val + 64 * b.core.val) 0 ty.code
        (bit a.own + 2 * bit b.own + 4 * bit c))
  | .aalloc g h => some (wX 0xD9 g h.val 0 0 0 0 0)
  | .afree g h => some (wX 0xDA g h.val 0 0 0 0 0)
  | .aclr g h => some (wX 0xDB g h.val 0 0 0 0 0)
  | .astore g h d ty f => match d with
      | .rows ka kp sp => some (wX 0xDC g h.val 0 0 0 ty.code (ka.val + 2 ^ 7 * kp.val + 2 ^ 14 * bit sp + 2 ^ 16 * f.toNat))
      | .tile t => some (wX 0xDC g h.val t.val 0 0 ty.code (2 ^ 15 + 2 ^ 16 * f.toNat))
  | .aload g h i ka kp sp => some (wX 0xDD g h.val 0 0 0 (8 * bit i) (ka.val + 2 ^ 7 * kp.val + 2 ^ 14 * bit sp))
  | .cpy g b8 q d s k => some (wCopy 0xDE g b8 q d.val s k)
  | .cpya g b8 q d s k => some (wCopy 0xDF g b8 q d.val s k)
  | .cpyg g q d s k => some (wCopy 0xE0 g false q d.val s k)
  | .cpys g q d s k => some (wCopy 0xE1 g false q d.val s k)
  | .cpyq g q s k => some (wCopy 0xE2 g false q 0 s k)
  | .cpyec g q d s k => some (wCopy 0xE3 g false q d.val s k)
  | .cpycan g k all b => some (wX 0xE4 g 0 0 0 0 0 (k.val + 2 ^ 7 * bit all + 2 ^ 21 * b.val))
  | .qcfg g q ka r wd cap => some (wU 0xE5 g 0 ka 0 (q.val + 2 ^ 4 * bit r + 2 ^ 5 * wd.val + 2 ^ 8 * cap.toNat))
  | .qrel g q => some (wU 0xE6 g 0 0 0 q.val)
  | .strm g t p sh => some (wX 0xE7 g 0 t.val 0 0 0 (p.toNat + 2 ^ 16 * sh.val))
  | .strmstop g sh => some (wX 0xE8 g 0 0 0 0 0 (2 ^ 16 * sh.val))
  | .launch g ka i => some (wU 0xE9 g 0 ka 0 i.toNat)
  | .coll g ka i => some (wU 0xEA g 0 ka 0 i.toNat)
  | .step g kd ka => some (wU 0xEB g kd ka 0 0)
  | .barArrive g d b => some (wVI 0xF0 g (dstField d) 0 b.val)
  | .barWait g b p => match p with
      | .imm x => some (wVI 0xF1 g 0 0 (b.val + 2 ^ 4 * bit x))
      | .reg a x => some (wVI 0xF1 g 0 (srcField a) (b.val + 2 ^ 4 * bit x + 2 ^ 5))
  | .barSync g b => some (wVI 0xF2 g 0 0 b.val)
  | .barExpect g b k a i =>
      some (wVI 0xF3 g 0 (useBits a).1 (b.val + 2 ^ 4 * k.code + 2 ^ 6 * (useBits a).2 + 2 ^ 7 * i.toNat))
  | .cbar g => some (wVI 0xF4 g 0 0 0)
  | .wait g ld st cp tl => some (wVI 0xF5 g 0 0 (ld.val + 2 ^ 6 * st.val + 2 ^ 12 * cp.val + 2 ^ 18 * tl.val))
  | .signal g a o => match a with
      | .v n => some (wVI 0xF6 g 0 n.val o.code)
      | .k m => some (wVI 0xF6 g 0 (1552 + 2 * m.val) o.code)
  | _ => none

end Sys2Proof
end

