-- ==== Sys2Proof/Config.lean ====
section
/-! DEFINITION. What an implementation fixes and the spec leaves open, as constants without a body: no proof can see a value
of one. -/

namespace Sys2Proof.Config

/-- The approximated functions' results (07 R190, R191), by function code and operand: any value, which the meaning keeps
only where it lies within the spec's bound. The same operand always gives the same result (00 R8). -/
opaque approx : Nat → Word → Word
/-- A value the spec leaves open, by the step's counter (`State.fresh`). -/
opaque freeValue : Nat → QWord
/-- The L2 slice of a line of a die's stack (09 R248): the hash is not architectural. -/
opaque l2Slice : Nat → Nat
/-- The set of a superblock in a cache of so many sets (09 R245). -/
opaque cacheSet : Nat → Nat → Nat
/-- Where the sample sets of a slice begin (09 R251): 32 sets from there insert at MRU, the next 32 bimodally. -/
opaque duelSet : Nat → Nat
/-- The bytes of an answer of the security processor beside its measurements and its signature (17 R482), by request code and the
request's bytes. -/
opaque spdmAnswer : Nat → List Byte → List Byte
/-- ML-DSA-65 of FIPS 204 with SHAKE256 (17 R481): whether a public key takes a signature of a message. -/
opaque mldsaVerify : List Byte → List Byte → List Byte → Bool
/-- ML-DSA-65 of FIPS 204 (17 R482): the signature that the key pair of a seed gives a message. -/
opaque mldsaSign : List Byte → List Byte → List Byte
/-- The bytes of packets in a flit (17 R473), whose layout the spec does not give (log 98). -/
opaque linkPayload : List LinkPacket → List Byte
end Sys2Proof.Config
end

