-- ==== Sys2Proof/Machine/State.lean ====
section
/-! DEFINITION. The state of the package: every piece of state the spec gives the machine (INVENTORY.md lists them with
their rules), as plain data, the reasons a step can stop, and `State.reset`. -/

namespace Sys2Proof.Machine

/-- Why the machine stops with a fault. Every fault of the spec (08 R217) is a NEXT state (the block halts, the thread traps
or parks), so no rule of the spec raises one of these. -/
inductive Fault where
  /-- Raised by no meaning of this model. -/
  | none
  deriving DecidableEq, Repr

/-- Why an instruction has no meaning. -/
inductive Refusal where
  /-- An instruction without a meaning, by its mnemonic (safe: the machine stops). -/
  | notModelled (mnemonic : String)
  deriving DecidableEq, Repr

/-- A byte memory in canonical form: addresses strictly rising, no zero byte; an unlisted address reads 0 (09 R241, log 1). -/
abbrev Mem := List Host.Cell
/-- A table of rows by number, in rising order; a missing row reads as a default. -/
abbrev Tbl (α : Type) := List (Nat × α)

/-- Who executes the instruction word given to `exec`. -/
inductive Agent where
  | none | bundle (n : Nat) | sequencer (b : Nat)
  deriving DecidableEq, Repr

/-- One turn of the agenda: which agent moves next (the model's own, log 8). -/
inductive Turn where
  | bundle (n : Nat) | sequencer (b : Nat) | event (i : Instr) | time (cycles counts : Nat)
  deriving DecidableEq, Repr

/-- Why a thread is parked (01 R44, 08 R238), with what wakes it; a syscall also holds TRAP's immediate and V0–V7 at the TRAP. -/
inductive Park where
  | queue (q : Nat)
  | barrier (b : Nat) (p : Bool)
  | cbar (p : Bool)
  | wait (ld st cp tl : Nat)
  | limit (ld st : Bool) | pbar (pod : Bool)
  | sleep (deadline : Nat)
  | syscall (idx : Option Nat) (code : Nat) (v : List Word)
  | replay (va : Nat)
  | grow (n : Nat)
  | meet
  deriving DecidableEq, Repr

/-- Status of a continuation (01 R35): ready (in a bin or not), in a bundle, parked, waiting at EXIT (08 R205), exited. -/
inductive TStatus where
  | ready (binned : Bool) | issued | parked (p : Park) | exiting | exited
  deriving DecidableEq, Repr

/-- One entry of the region store buffer (08 R212, R238). `sts` is KIND 1. -/
structure BufStore where
  addr : Nat
  size : Size
  path : Path
  sts  : Bool
  data : QWord
  evict : Nat
  deriving DecidableEq, Repr

/-- A thread (01 R19, 04 R105, R123, 08 R238). `grants` are its extended grants (first register, end, tag) in ascending order, and
`grant` the tag that the next one takes (04 R119). `region` numbers its regions, and `opening`
says that a new one begins at its next instruction;
`blocked` counts acquires and seq_cst operations that hold back its later memory instructions (10 R276, R277). `late` marks
an entry with YIELD (01 R43), `held` a lane that trapped in its meet clause (07 R201), `acted` one that has completed the instruction
at which its octet parked (01 R42, 12 R324), `octet` one that is parked with its octet (01 R42), `alone` one that UTRET sent into its
clause, `ralone` one whose region began so, `unchecked` one whose clause was not checked since (08 R224, 02 R88). -/
structure Thread where
  v       : List Word
  pred    : BitVec 8
  flags   : Word
  utvec   : DWord
  uepc    : DWord
  uepco   : DWord
  uspecit : Word
  ucause  : Word
  ulanes  : BitVec 8
  udst    : Word
  intrap  : Bool
  pc      : DWord
  status  : TStatus
  arrival : Nat
  late    : Bool
  held    : Bool
  acted   : Bool
  octet   : Bool
  alone   : Bool
  ralone  : Bool
  unchecked : Bool
  cntLd   : Nat
  cntSt   : Nat
  rpc     : DWord
  opening : Bool
  region  : Nat
  stores  : List BufStore
  pend    : BitVec 5
  epoch   : Word
  arrb    : BitVec 16
  slotTag : BitVec 4
  grants  : List (Nat × Nat × BitVec 4)
  grant   : BitVec 4
  grown   : Bool
  skid    : Nat
  blocked : Nat
  deriving DecidableEq, Repr

/-- A queue's carve record (12 R335). -/
structure Carve where
  carved : Bool
  offset : Nat
  cap    : Nat
  head   : Nat
  count  : Nat
  row    : Bool
  width  : Nat
  closed : Bool
  pushes : DWord
  pops   : DWord
  tag    : BitVec 4
  deriving DecidableEq, Repr

/-- A numbered barrier (16 R441); `expected = none` is ALL. -/
structure Barrier where
  expected : Option Nat
  arrived  : Nat
  phase    : Bool
  pending  : DWord
  deriving DecidableEq, Repr

/-- What holds the uniform sequencer at its instruction between turns (14 R396, 16 R446). -/
inductive SeqWait where
  | none
  | barrier (b : Nat) (p : Bool)
  | cbar (p : Bool)
  | fault (va : Nat)
  deriving DecidableEq, Repr

/-- The uniform sequencer (14 R391): the header of its clause, the word it stands at (0: at the header) and the clause's
last word, the loop stack from the outermost, its wait, and the cycle of its last turn (01 R30). -/
structure Seq where
  hdr   : DWord
  idx   : Nat
  last  : Nat
  ended : Bool
  loops : List (DWord × DWord)
  wait  : SeqWait
  issued : Option Nat
  deriving DecidableEq, Repr

/-- Tile states (14 R399). -/
inductive TileState where
  | unbound | empty | filling | ready | draining
  deriving DecidableEq, Repr

/-- A tile name with the table entry it is bound to (14 R399). -/
structure Tile where
  state  : TileState
  offset : Nat
  ty     : Ty
  holds  : Nat
  deriving DecidableEq, Repr

/-- A stream context bound to a handle, with its progress record (12 R344). `prog` are the words of the program. -/
structure Stream where
  pidx    : Nat
  state   : Nat
  tile    : Nat
  base    : DWord
  done    : Nat
  faultVa : DWord
  prog    : List DWord
  buf     : List QWord
  qtag    : BitVec 4
  gen     : BitVec 4
  deriving DecidableEq, Repr

/-- An outstanding copy command with its progress record (12 R353); `table` is what CPYEC captured (12 R351), `hold` the bytes of a
unit that have been read and not yet all written. -/
structure Copy where
  id      : Nat
  op      : Nat
  state   : Nat
  bq      : Nat
  baren   : Bool
  b8      : Bool
  seq     : Nat
  src     : DWord
  dst     : DWord
  desc    : DWord
  aux     : DWord
  done    : Nat
  faultVa : DWord
  table   : List (DWord × Byte)
  qtag    : BitVec 4
  hold    : Option (List Byte)
  deriving DecidableEq, Repr

/-- Kinds of tile and accumulator transfers (14 R402, R403, R409, R410). -/
inductive XferKind where
  | tload | tstore | aload | astore
  deriving DecidableEq, Repr

/-- A tile or accumulator transfer in progress. `targets` are (block, tile, generation); `faultVa` is set while stalled. -/
structure Xfer where
  id      : Nat
  kind    : XferKind
  targets : List (Nat × Nat × BitVec 4)
  handle  : Nat
  dtile   : Bool
  spad    : Bool
  addr    : DWord
  pitch   : DWord
  row     : Nat
  bar     : Option Nat
  ty      : Ty
  fmt     : Byte
  tag     : BitVec 4
  faultVa : Option Nat
  deriving DecidableEq, Repr

/-- A joined collective (14 R418). -/
structure Coll where
  id    : Nat
  op    : Nat
  red   : Nat
  ty    : Nat
  bar   : Option Nat
  rank  : Nat
  npart : Nat
  root  : Nat
  group : DWord
  send  : DWord
  recv  : DWord
  count : Nat
  ordinal : Nat
  faultVa : Option Nat
  deriving DecidableEq, Repr

/-- One rank's descriptor at the collective engine, with its send buffer as read at issue (14 R418, 16 R449): the `ordinal`-th COLL
of its rank. `owner` is the block and collective of this package; `fin` says that it has completed. -/
structure Join where
  group : Nat
  rank  : Nat
  ordinal : Nat
  npart : Nat
  op    : Nat
  red   : Nat
  ty    : Nat
  root  : Nat
  count : Nat
  send  : List Byte
  owner : Option (Nat × Nat)
  fin   : Bool
  deriving DecidableEq, Repr

/-- The collective engine: the joins it holds, and how many COLLs each rank of a group has issued. -/
structure CollEngine where
  joins  : List Join
  counts : List (Nat × Nat × Nat)
  deriving DecidableEq, Repr

/-- A halt of a block (08 R229–R233). `still` says that its bundles had stopped before, in a debug stop. -/
structure Halt where
  code  : Nat
  debug : Bool
  word  : Nat
  ftid  : Option Nat
  pc    : DWord
  addr  : DWord
  imm   : Nat
  clock : DWord
  cycle : Nat
  recorded : Bool
  still : Bool
  deriving DecidableEq, Repr

/-- Where a block stands: on its core, saved, retired, accounted after a halt, or discarded by a reset. -/
inductive Place where
  | live | saved | retired | accounted | discarded
  deriving DecidableEq, Repr

/-- A block (01 R22). Its handle is its index in `State.blocks`. `slots` are the core's thread slots of its threads, `rslot` its
slot of the counter block (16 R464). -/
structure Block where
  launch  : Nat
  core    : Nat
  place   : Place
  ticket  : Nat
  bid     : Word
  lvidx   : List Word
  ext     : List Word
  threads : List Thread
  gen     : BitVec 4
  k       : List DWord
  queues  : List Carve
  bars    : List Barrier
  seqArr  : BitVec 16
  cntCp   : Nat
  cntTl   : Nat
  seq     : Seq
  tiles   : List Tile
  accs    : List (Option (Nat × BitVec 4))
  bank    : Nat
  spad    : Mem
  spadBytes : Nat
  units   : List Nat
  slots   : List Nat
  rslot   : Nat
  spadPoison : List Nat
  reserve : Nat
  reserveWhole : Nat
  mxnan   : Word
  mxinf   : Word
  mxovf   : Word
  halt    : Option Halt
  streams : List (Option Stream)
  copies  : List Copy
  copySeq : Nat
  xfers   : List Xfer
  colls   : List Coll
  entry   : Option Nat
  unit    : Nat
  startCycle : Nat
  queueDeadSince : Option Nat
  stepWait : Option (Word × Nat)
  saveAddr : Nat
  saveLen : Nat
  kept    : Bool
  epri    : Nat
  deriving DecidableEq, Repr

/-- A TLB entry (09 R259): context, page base, log2 of the page size, frame, W and CODE. -/
structure TlbEntry where
  ctx   : Nat
  page  : Nat
  lg    : Nat
  frame : Nat
  w     : Bool
  code  : Bool
  deriving DecidableEq, Repr

/-- A line of an L1 (09 R245, R247): its 52-bit line address, its set among the 256 of the array, 16 to a unit, its bytes,
read-only mark and the launch that filled it. `stale` says that a read must find a newer value at the home (11 R298, R304; log 24). -/
structure L1Line where
  line   : Nat
  set    : Nat
  data   : List Byte
  ro     : Bool
  launch : Nat
  stale  : Bool
  deriving DecidableEq, Repr

/-- A bundle in flight (01 R21): `hdr` and `idx` give its clause and the word it stands at, `arrival` and `bin` the oldest arrival
and the number of the bin that formed it, `issued` the cycle of its last turn (01 R38). -/
structure Bundle where
  id    : Nat
  blk   : Nat
  lanes : List Nat
  hdr   : DWord
  idx   : Nat
  last  : Nat
  meet  : Bool
  single : Bool
  ready : Bool
  yield : Bool
  ws    : Nat
  arrival : Nat
  bin   : Nat
  issued : Option Nat
  deriving DecidableEq, Repr

/-- One accumulator tile: its owner (block, handle) and its 4,096 words; no words while free (14 R391). -/
structure AccTile where
  owner : Option (Nat × Nat)
  tag   : BitVec 4
  words : List Word
  deriving DecidableEq, Repr

/-- An accumulator bank: the context (partition, context number) it is bound to, and its 16 tiles (08 R240). -/
structure Bank where
  ctx   : Option (Nat × Nat)
  tiles : List AccTile
  deriving DecidableEq, Repr

/-- An MMA in a matrix unit's queue (14 R412). -/
structure Mma where
  id     : Nat
  blk    : Nat
  handle : Nat
  aBlk   : Nat
  aTile  : Nat
  bBlk   : Nat
  bTile  : Nat
  ty     : Ty
  clr    : Bool
  deriving DecidableEq, Repr

/-- The matrix unit (14 R391, R415): `work` counts the part of 32 cycles' MACs done; `step` counts steps since the grant. -/
inductive MxUnit where
  | idle | requesting (cycle : Nat) | active (step work : Nat) | filler (step : Nat)
  deriving DecidableEq, Repr

/-- A queued GROW request (04 R110, R113): the cycle of the GROW, the block with its ticket, the count asked, the threads. -/
structure GrowReq where
  cycle  : Nat
  blk    : Nat
  ticket : Nat
  n      : Nat
  tids   : List Nat
  deriving DecidableEq, Repr

/-- A freed register chunk that a return in flight still names by its tag (04 R122). -/
structure HeldChunk where
  blk   : Nat
  tid   : Nat
  chunk : Nat
  tag   : Option (BitVec 4)
  deriving DecidableEq, Repr

/-- A physical core. `held` are the chunks kept out of the pool (04 R122), `carveTags` the tags of queue carves by counter slot
and queue (04 R119), `bins` the keys of the Erg's bins by number (01 R35); `formed` and `issued` hold, with a cycle, the bins that
formed a bundle and the number of bundles that issued in it (01 R36, R38). -/
structure Core where
  free     : Nat
  grew     : Nat
  growq    : List GrowReq
  held     : List HeldChunk
  slotTags : Tbl (BitVec 4)
  carveTags : Tbl (BitVec 4)
  bins     : Tbl (Nat × DWord)
  formed   : Nat × List Nat
  issued   : Nat × Nat
  dropcnt  : Word
  clk      : DWord
  spadClk  : DWord
  tlb      : List TlbEntry
  l1       : List L1Line
  fast     : Nat
  banks    : List Bank
  active   : Nat
  switching : Option Nat
  mmas     : List Mma
  unit     : MxUnit
  ramp     : DWord
  vacating : Bool
  deriving DecidableEq, Repr

/-- What a request asks of its home (10 R276–R290, 16 R448). `atomic` carries the opcode of 02 R85. -/
inductive ReqOp where
  | load | ldro | store | atomic (op : Nat) | pref (ro : Bool) | pwb (inv : Bool) | l2wb | l2inv
  deriving DecidableEq, Repr

/-- One lane's part of a request, with the thread's tags, region, issue order and PC. `fmask` and `fdata` are the bytes forwarded
from the region store buffer; on an acknowledgement `fmask` says which of the store's bytes the L1 line takes. -/
structure Part where
  tid   : Nat
  slot  : BitVec 4
  grant : Option (BitVec 4)
  region : Nat
  ord   : Nat
  pc    : DWord
  ea    : Nat
  off   : Nat
  bytes : Nat
  dst   : Option Nat
  data  : QWord
  data2 : QWord
  fmask : BitVec 16
  fdata : QWord
  epoch : Word
  deriving DecidableEq, Repr

/-- A request in flight to the home of one line, issued in cycle `batch`. `spadBlk` names the block whose window it targets;
`fills` says that its line may still fill the L1. -/
structure Req where
  id     : Nat
  blk    : Nat
  core   : Nat
  batch  : Nat
  op     : ReqOp
  line   : Nat
  spadBlk : Option Nat
  path   : Path
  evict  : Nat
  order  : Order
  scope  : Scope
  code   : Bool
  clk    : DWord
  fills  : Bool
  parts  : List Part
  deriving DecidableEq, Repr

/-- A return (with its destination) or an acknowledgement on its way to a thread (04 R118–R121). `home` names the point of coherence
it comes from (11 R297), `atom` says that it answers an atomic. -/
structure Ret where
  id    : Nat
  blk   : Nat
  core  : Nat
  load  : Bool
  atom  : Bool
  line  : Nat
  spad  : Bool
  part  : Part
  order : Order
  scope : Scope
  clk   : DWord
  home  : Option (Nat × Nat)
  deriving DecidableEq, Repr

/-- A page walk in flight (09 R259), with the lanes that wait for it: block, thread, address, access code. `root` is CTX as the walk
read it when it started (15 R422). -/
structure Walk where
  id   : Nat
  core : Nat
  ctx  : Nat
  root : DWord
  va   : Nat
  who  : List (Nat × Nat × Nat × Nat)
  deriving DecidableEq, Repr

/-- One superblock of an L2 slice or SCM cache (09 R245, R249): its base, valid and dirty lines, the chain id of each line. -/
structure SbLine where
  base  : Nat
  valid : BitVec 4
  dirty : BitVec 4
  chains : List Nat
  deriving DecidableEq, Repr

/-- A Caravan entry (09 R256): line, bytes with their mask, agent and epoch, and whether its line held poison as it entered (09
R263). Agent `none` is an engine. `whole` marks the last of the entries of one store that wrote its whole line. -/
structure CarEntry where
  id    : Nat
  line  : Nat
  data  : List Host.Cell
  agent : Option (Nat × Nat)
  epoch : Word
  poison : Bool
  whole  : Bool
  deriving DecidableEq, Repr

/-- A request of this package to another one, or its answer (09 R257, 17 R473). `who` names what asked; `ts` is the timestamp that
a seq_cst access took there (11 R305); `fills` says that the line it reads may still fill an L1. -/
structure Remote where
  rid    : Nat
  who    : List Nat
  pkg    : Nat
  port   : Nat
  packet : LinkPacket
  answer : Option (List Byte)
  poison : Bool
  lost   : Bool
  ts     : DWord
  fills  : Bool
  deriving DecidableEq, Repr

/-- The homes and what travels to them. -/
structure Homes where
  mem     : Mem
  media   : Mem
  poison  : List Nat
  mediaPoison : List Nat
  gtags   : Tbl (BitVec 16)
  l2      : Tbl (List SbLine)
  l2sel   : Tbl Nat
  l2bim   : Tbl Nat
  l2clk   : Tbl DWord
  scm     : List (List SbLine)
  scmClk  : List DWord
  caravan : List (List CarEntry)
  reqs    : List Req
  rets    : List Ret
  walks   : List Walk
  remotes : List Remote
  nextId  : Nat
  deriving DecidableEq, Repr

/-- A fault-address record (09 R261), with the block whose agent faulted. -/
structure FaqRec where
  va     : Nat
  pa     : Nat
  kind   : Nat
  src    : Nat
  access : Nat
  rep    : Nat
  core   : Nat
  bid    : Nat
  agent  : Nat
  ctx    : Nat
  blk    : Nat
  deriving DecidableEq, Repr

/-- A migration in flight (09 R265): bitmap by line, and whether it has switched over. -/
structure Migration where
  old   : Nat
  new   : Nat
  pte   : Nat
  large : Bool
  done  : List Bool
  switched : Bool
  shoot : Option Nat
  deriving DecidableEq, Repr

/-- A shoot-down in progress (09 R260): the cores that have not acknowledged. -/
structure Shoot where
  id   : Nat
  ctx  : Option Nat
  va   : Nat
  len  : Nat
  wait : List Nat
  deriving DecidableEq, Repr

/-- A launch record (13 R366). Levels are (extent, domain, scope). -/
structure LaunchRec where
  code : Nat
  tentry : Nat
  uentry : Nat
  nlev : Nat
  opclass : Nat
  prio : Nat
  chain : Nat
  ctrl : Nat
  unroll : Nat
  growth : Nat
  maxacc : Nat
  maxregs : Nat
  maxq : Nat
  spad : Nat
  sigaddr : Nat
  sblk : Nat
  smaskk : Nat
  dblk : Nat
  dmaskk : Nat
  itab : Nat
  icount : Nat
  levels : List (Nat × Nat × Nat)
  deriving DecidableEq, Repr

/-- A code object's header (03 R103); `units` are the 64 KiB physical units that hold the object, as its launch's validation found them
(15 R426). -/
structure CodeHdr where
  objid : DWord
  toff : Nat
  tlen : Nat
  uoff : Nat
  ulen : Nat
  tentry : Nat
  uentry : Nat
  soff : Nat
  scount : Nat
  tmap : Nat
  umap : Nat
  doff : Nat
  dlen : Nat
  loff : Nat
  units : List Nat := []
  deriving DecidableEq, Repr

/-- A child of a merged grid (13 R387, 15 R432). -/
structure Child where
  first : Nat
  nblk  : Nat
  dblk  : Nat
  dyn   : List (Nat × DWord)
  top   : Nat
  sig   : Nat
  remain : Nat
  status : Nat
  raddr : Nat
  deriving DecidableEq, Repr

/-- How far a launch has come (13 R365, R370, R371). -/
inductive LState where
  | building | dealing | complete | discarded
  deriving DecidableEq, Repr

/-- An accepted launch (13 R365–R370). `ranges` are the tickets, as (next, end) in ascending order, of each die's
counter; `bound` the dies of ORDERED DIE units; `held` the time since which a ticket's block fits no core (13 R385); `build` the
build whose residual code it takes (13 R371). -/
structure Launch where
  queue  : Nat
  ctx    : Nat
  part   : Nat
  chainOn : Bool
  lrec   : LaunchRec
  hdr    : CodeHdr
  raddr  : Nat
  seq    : Nat
  child  : Bool
  children : List Child
  statics : List (Nat × DWord)
  dynamics : List (Nat × DWord)
  epri   : Nat
  state  : LState
  blocks : Nat
  unit   : Nat
  ranges : List (List (Nat × Nat))
  bound  : List (Nat × Nat)
  done   : Nat
  faulted : Bool
  entry  : Option Nat
  held   : Option Nat
  build  : Option Nat
  deriving DecidableEq, Repr

/-- A residual stream of a Mirage entry (15 R426, R427): words, header marks and back-map (offset, iteration). -/
structure Residual where
  words : List DWord
  hdrs  : List Bool
  back  : List (Nat × Nat)
  deriving DecidableEq, Repr

/-- A Mirage entry (15 R426). `tbase` and `ubase` are byte offsets in the residual-code window. -/
structure MirEntry where
  id    : Nat
  key   : List Byte
  objid : DWord
  units : List Nat
  t     : Residual
  u     : Residual
  tbase : Nat
  ubase : Nat
  size  : Nat
  dropped : Bool
  deriving DecidableEq, Repr

/-- A specialisation in progress (13 R371): the launch that asked for it, the object's id and 64 KiB units, and whether the
object was dropped meanwhile. -/
structure Build where
  id   : Nat
  launch : Nat
  key  : List Byte
  objid : DWord
  units : List Nat
  discarded : Bool
  deriving DecidableEq, Repr

/-- Mirage (15 R425–R429), least recently looked up first. -/
structure Mirage where
  base   : DWord
  size   : DWord
  inBase : Nat
  inSize : Nat
  enabled : Bool
  hit    : DWord
  miss   : DWord
  entries : List MirEntry
  builds : List Build
  deriving DecidableEq, Repr

/-- A merge window of the aggregator (13 R387). -/
structure Window where
  id     : Nat
  parent : Nat
  lrec   : LaunchRec
  hdr    : CodeHdr
  statics : List (Nat × DWord)
  opened : Nat
  kids   : List Child
  deriving DecidableEq, Repr

/-- The fields of a queue control block that system software writes (13 R359). -/
structure QCfg where
  rbase : DWord
  rsize : Nat
  prio  : Nat
  ctrl  : BitVec 16
  msi   : Nat
  ctx   : Nat
  haltBase : DWord
  haltSize : Word
  saveBase : DWord
  saveSize : DWord
  pdelay : Word
  deriving DecidableEq, Repr

/-- A queue control block with its front end (13 R359–R364): `cfg` as written, `act` as taken over at the last enable. `part`
is the partition in force (17 R471), `retryAt` the CLOCK at which the next retry is due (13 R364); `due` says that a wake or
the packet before lets a fetch begin, and falls with an incomplete packet, which waits for a later wake (13 R360, R364). -/
structure Queue where
  cfg   : QCfg
  act   : QCfg
  rd    : Word
  wr    : Word
  expect : BitVec 16
  retries : Nat
  retryAt : Nat
  due   : Bool
  fetched : Option (List Byte)
  waiting : Bool
  stat  : Nat
  hlost : Bool
  reset : Nat
  haltUsed : Nat
  part  : Nat
  mxnan : Word
  mxinf : Word
  mxovf : Word
  deriving DecidableEq, Repr

/-- A pre-emption in progress (13 R385): the cores named, the pool and what is used of it, KEEPACC, the queue's packet. -/
structure Vacate where
  queue : Option Nat
  cores : List Nat
  pool  : Nat
  size  : Nat
  used  : Nat
  keep  : Bool
  deriving DecidableEq, Repr

/-- A cluster barrier pair of one CLUSTER unit (16 R447). -/
structure Cbar where
  launch : Nat
  unit   : Nat
  tphase : Bool
  sphase : Bool
  tarr   : List (Nat × Nat)
  sarr   : List Nat
  deriving DecidableEq, Repr

/-- A message on a scheduler's link (13 R376; log 86). From a leaf: a pull of a launch's ticket, a block that has retired, has
stopped on a halt, or is saved. To a leaf: the first ticket pulled, a core to vacate, and the notice of a resident page. -/
inductive SchedMsg where
  | pull (launch : Nat) | retired (blk : Nat) | halted (blk : Nat) (debug : Bool) | saved (blk : Nat)
  | ticket (first : Nat) | vacate (core : Nat) (keep : Bool) | replay (ctx page : Nat)
  deriving DecidableEq, Repr

/-- Trelwester and its queues (13). `links` holds the messages not consumed yet, oldest first, of each link: to the leaf, and from
it (13 R376). -/
structure Front where
  queues   : Tbl Queue
  launches : List Launch
  windows  : List Window
  vacates  : List Vacate
  cbars    : List Cbar
  links    : Tbl (List SchedMsg × List SchedMsg)
  deriving DecidableEq, Repr

/-- Seif (16 R453–R455). Ranges are (SRC, LEN, DST0, DST1). -/
structure Seif where
  ctl    : Word
  armed  : Bool
  capturing : Bool
  cfgerr : Bool
  capstep : Word
  man0   : DWord
  man1   : DWord
  ranges : List (DWord × DWord × DWord × DWord)
  slot   : Nat
  copied : Nat
  deriving DecidableEq, Repr

/-- The rebuild registers (16 R459, R460): of the survivor's side also the bytes of its run and those served of them (`total`,
`all`); of the spare's side the bytes of the descriptor it took and the members its run chose. -/
structure Rebuild where
  desc   : DWord
  vec    : Nat
  stat   : Nat
  serve  : Word
  quota  : DWord
  served : DWord
  total  : DWord
  all    : DWord
  done   : DWord
  go     : Bool
  plan   : List Byte
  chosen : List Nat
  deriving DecidableEq, Repr

/-- A corrected and uncorrected count with its threshold (16 R462, R464). -/
structure Ecc where
  corr   : Word
  uncorr : Word
  thr    : Word
  deriving DecidableEq, Repr

/-- An MSI-X vector (17 R470). -/
structure MsixVec where
  addr : DWord
  data : Word
  mask : Bool
  pend : Bool
  deriving DecidableEq, Repr

/-- The power block and the hardware limits (17 R475–R477). `written` is CLOCK at the controller's last write of its targets. -/
structure Power where
  cap    : Word
  envLo  : Nat
  envHi  : Nat
  stat   : Word
  msi    : Nat
  idlew  : Word
  opt    : List (Nat × Nat)
  fsafe  : Nat
  floors : List (Nat × Nat × Bool)
  pool   : List Nat
  poolNext : List Nat
  sleep  : List Bool
  asleep : List Bool
  freq   : List Nat
  limit  : List Nat
  fwctl  : Bool
  halved : List Nat
  hot    : List Bool
  stopped : Bool
  wdogged : Bool
  written : Nat
  deriving DecidableEq, Repr

/-- The ageing block (17 R478–R480): per cluster (MARGIN, GB, WORN). -/
structure Ageing where
  rows    : List (Nat × Nat × Bool)
  mthr    : Nat
  msi     : Nat
  dcfgmap : List Bool
  deriving DecidableEq, Repr

/-- A Helor Link port (17 R473, R474): transmit sequence, unacknowledged flits, resends, receive sequence, down,
and the time since which an ACK has been waited for. -/
structure Port where
  tx    : BitVec 12
  unack : List Flit
  tries : Nat
  rx    : BitVec 12
  down  : Bool
  sentAt : Nat
  deriving DecidableEq, Repr

/-- What the package sent out, newest first: answers to host reads, MSI-X messages, SPDM messages, flits (log 8). -/
inductive Out where
  | read (val : DWord) | bytes (b : List Byte) | unsupported | msix (addr data : Nat)
  | spdm (code : Nat) (measured : List (Nat × List Byte)) (body sig : List Byte)
  | flit (port : Nat) (f : Flit) | rejected
  deriving DecidableEq, Repr

/-- What the boot ROM and the security processor hold (17 R481, R482): the ROM's bytes, the fused digest of the public key, the fused
anti-rollback counter and seed, and the images that it found. -/
structure Boot where
  rom     : List Byte
  keyHash : List Byte
  floor   : Nat
  seed    : List Byte
  images  : List Image
  deriving DecidableEq, Repr

/-- The package registers of 15, 16 and 17 and of 12 R356. -/
structure Regs where
  devid    : Word
  rev      : Word
  bootstat : Word
  apbase   : DWord
  apsize   : Nat
  mailbox  : Tbl Byte
  enable   : Bool
  hbmmode  : Bool
  hbmLatched : Option Bool
  faqBase  : DWord
  faqSize  : Word
  faqCons  : Word
  faqProd  : Word
  faqMsi   : Nat
  faqErr   : Bool
  faqSet   : Bool
  faqWait  : List FaqRec
  faqSeen  : List (Nat × Nat × Nat × Nat × Nat × Nat)
  migOld   : DWord
  migNew   : DWord
  migPte   : DWord
  migs     : List Migration
  shoots   : List Shoot
  srBase   : DWord
  srSize   : Word
  srCons   : Word
  srProd   : Word
  srSet    : Bool
  rpBase   : DWord
  srMsi    : Nat
  ctxs     : List DWord
  aggBase  : DWord
  ramps    : List DWord
  harv     : List Bool
  lcount   : Nat
  ltab     : List Nat
  routes   : Tbl DWord
  routeNext : Tbl DWord
  badpages : List DWord
  stepno   : Word
  ecc      : List Ecc
  tracker  : List (Nat × Nat)
  msix     : Tbl MsixVec
  clpart   : List Nat
  clpartNext : List Nat
  qpart    : Tbl Nat
  deriving DecidableEq, Repr

/-- The state of the package. `cur`, `agenda`, `fresh` and `out` are the model's own (log 8); `barchan` holds, by die, the number
of Barchan steps up to the last one taken (14 R415). -/
structure State where
  agenda : List Turn
  cur    : Agent
  fresh  : Nat
  out    : List Out
  cycle  : Nat
  clock  : DWord
  lowPower : Bool
  fuse   : List Bool
  cores  : List Core
  blocks : List Block
  bundles : List Bundle
  homes  : Homes
  mirage : Mirage
  front  : Front
  regs   : Regs
  seif   : Seif
  rebuild : Rebuild
  power  : Power
  ageing : Ageing
  ports  : List Port
  barchan : List Nat
  coll   : CollEngine
  boot   : Boot
  deriving DecidableEq, Repr

/-! ### Reset -/

/-- A free accumulator tile (log 5). -/
def AccTile.free : AccTile := ⟨none, 0, []⟩
/-- An unbound bank (log 5). -/
def Bank.reset : Bank := ⟨none, List.replicate 16 AccTile.free⟩
/-- A core after reset (04 R108, R122; 09 R241; 11 R305; logs 3–5). -/
def Core.reset : Core :=
  { free := 4096, grew := 0, growq := [], held := [], slotTags := [], carveTags := [], bins := [], formed := (0, []), issued := (0, 0), dropcnt := 0, clk := 0, spadClk := 0, tlb := [], l1 := []
    fast := 0, banks := [Bank.reset, Bank.reset], active := 0, switching := none, mmas := [], unit := .idle
    ramp := 0x53924924, vacating := false }
/-- The memories after package reset (09 R241; log 1). -/
def Homes.reset : Homes :=
  { mem := [], media := [], poison := [], mediaPoison := [], gtags := [], l2 := [], l2sel := [], l2bim := [], l2clk := []
    scm := [[], []], scmClk := [0, 0], caravan := [[], []], reqs := [], rets := [], walks := [], remotes := [], nextId := 0 }
/-- Mirage after reset: disabled, empty (15 R429). -/
def Mirage.reset : Mirage := ⟨0, 0, 0, 0, false, 0, 0, [], []⟩
/-- Trelwester after reset (log 7). -/
def Front.reset : Front := ⟨[], [], [], [], [], []⟩
/-- Seif after reset: every register 0 (16 R453). -/
def Seif.reset : Seif := ⟨0, false, false, false, 0, 0, 0, List.replicate 16 (0, 0, 0, 0), 0, 0⟩
/-- The rebuild registers after reset (log 7). -/
def Rebuild.reset : Rebuild := ⟨0, 0, 0, 0, 0, 0, 0, 0, 0, false, [], []⟩
/-- The power block after reset: FSAFE 48, RBLIM 32 (17 R475, 13 R390); the rest log 7. -/
def Power.reset : Power :=
  { cap := 0, envLo := 36, envHi := 84, stat := 0, msi := 0, idlew := 0, opt := List.replicate 8 (0, 0), fsafe := 48
    floors := List.replicate 9 (0, 0, false), pool := List.replicate 72 0, poolNext := List.replicate 72 0
    sleep := List.replicate 72 false, asleep := List.replicate 72 false, freq := List.replicate 72 48
    limit := List.replicate 72 32, fwctl := false, halved := List.replicate 8 0, hot := List.replicate 8 false
    stopped := false, wdogged := false, written := 0 }
/-- The ageing block of a new part: MTHR 32 (17 R478); the rest log 7. -/
def Ageing.reset : Ageing := ⟨List.replicate 72 (0, 0, false), 32, 0, List.replicate 288 false⟩
/-- What the boot ROM holds: nothing of it is given (log 97). -/
def Boot.reset : Boot := ⟨[], List.replicate 32 0, 0, [], []⟩
/-- A port after reset. -/
def Port.reset : Port := ⟨0, [], 0, 0, false, 0⟩
/-- The package registers of a part with every core enabled (15 R431, R435; 17 R508; logs 7 and 9). -/
def Regs.reset : Regs :=
  { devid := 0x0C09, rev := 0, bootstat := 1, apbase := 0, apsize := 28, mailbox := [], enable := false, hbmmode := false
    hbmLatched := none, faqBase := 0, faqSize := 0, faqCons := 0, faqProd := 0, faqMsi := 0, faqErr := false, faqSet := false, faqWait := []
    faqSeen := [], migOld := 0, migNew := 0, migPte := 0, migs := [], shoots := [], srBase := 0, srSize := 0, srCons := 0
    srProd := 0, srSet := false, rpBase := 0, srMsi := 0, ctxs := List.replicate 16 0, aggBase := 0
    ramps := List.replicate 8 0x53924924, harv := List.replicate 288 true, lcount := 288, ltab := List.range 288, routes := [], routeNext := []
    badpages := [], stepno := 0, ecc := List.replicate 5 ⟨0, 0, 16⟩, tracker := [], msix := []
    clpart := List.replicate 72 0, clpartNext := List.replicate 72 0, qpart := [] }

/-- The package right after reset of a good boot, with nothing placed and an empty agenda. -/
def State.reset : State :=
  { agenda := [], cur := .none, fresh := 0, out := [], cycle := 0, clock := 0, lowPower := false
    fuse := List.replicate 288 true, cores := List.replicate 288 Core.reset, blocks := [], bundles := [], homes := Homes.reset
    mirage := Mirage.reset, front := Front.reset, regs := Regs.reset, seif := Seif.reset, rebuild := Rebuild.reset
    power := Power.reset, ageing := Ageing.reset, ports := List.replicate 24 Port.reset, barchan := List.replicate 8 0, boot := Boot.reset
    coll := ⟨[], []⟩ }

end Sys2Proof.Machine
end

