-- ==== Sys2Proof/Machine/Memory.lean ====
section
/-! DEFINITION. Byte memories in canonical form, tables by number, and the bit helpers the meanings share. -/

namespace Sys2Proof.Machine

/-! ### Byte memories (00 R13) -/

/-- The byte at an address; 0 where nothing is listed (09 R241, log 1). -/
def Memory.get : Mem → Nat → Byte
  | [], _ => 0
  | (k, b) :: t, a => if k = a then b else Memory.get t a

/-- List a byte at its place in the rising order; a zero byte is not listed. -/
def Memory.insert : Mem → Nat → Byte → Mem
  | [], a, b => if b = 0 then [] else [(a, b)]
  | (k, c) :: t, a, b =>
    if b = 0 then (k, c) :: t else if a < k then (a, b) :: (k, c) :: t else (k, c) :: Memory.insert t a b
/-- Write one byte, keeping the canonical form. -/
def Memory.set (m : Mem) (a : Nat) (b : Byte) : Mem := Memory.insert (m.filter fun c => c.1 != a) a b

/-- The canonical form: addresses strictly rising, no zero byte. -/
def Memory.wf : Mem → Bool
  | [] => true
  | [(_, b)] => b != 0
  | (k, b) :: (k', b') :: t => b != 0 && decide (k < k') && Memory.wf ((k', b') :: t)

/-- `n` bytes from an address, the lowest first. -/
def Memory.bytes (m : Mem) (a : Nat) : Nat → List Byte
  | 0 => []
  | n + 1 => Memory.get m a :: Memory.bytes m (a + 1) n

/-- Write bytes from an address upwards. -/
def Memory.put (m : Mem) (a : Nat) : List Byte → Mem
  | [] => m
  | b :: t => Memory.put (Memory.set m a b) (a + 1) t

/-- The bytes of a number, little-endian. -/
def toBytes (v : Nat) : Nat → List Byte
  | 0 => []
  | n + 1 => BitVec.ofNat 8 v :: toBytes (v / 256) n

/-- The number little-endian bytes hold. -/
def ofBytes : List Byte → Nat
  | [] => 0
  | b :: t => b.toNat + 256 * ofBytes t

/-- Read `n` bytes as a number (00 R13). -/
def Memory.read (m : Mem) (a n : Nat) : Nat := ofBytes (Memory.bytes m a n)

/-! ### Tables by number -/

/-- The row of a table. -/
def tget {α : Type} : Tbl α → Nat → Option α
  | [], _ => none
  | (k, x) :: t, n => if k = n then some x else tget t n

/-- Set a row of a table, keeping rising order. -/
def tset {α : Type} : Tbl α → Nat → α → Tbl α
  | [], n, x => [(n, x)]
  | (k, y) :: t, n, x => if n < k then (n, x) :: (k, y) :: t else if n = k then (n, x) :: t else (k, y) :: tset t n x

/-! ### Bits and numbers -/

/-- Bit `i` of a number. -/
def nbit (v i : Nat) : Bool := v / 2 ^ i % 2 == 1
/-- Bits [lo+len-1:lo] of a number. -/
def nfld (v lo len : Nat) : Nat := v / 2 ^ lo % 2 ^ len
/-- Round down to a multiple. -/
def alignDown (a n : Nat) : Nat := a / n * n
/-- A two's complement number of `w` bits read as an integer (05 R131). -/
def sval (w v : Nat) : Int := if v % 2 ^ w < 2 ^ (w - 1) then ((v % 2 ^ w : Nat) : Int) else ((v % 2 ^ w : Nat) : Int) - 2 ^ w
/-- A truth value as a bit. -/
def b2n (b : Bool) : Nat := if b then 1 else 0
/-- Replace element `i` of a list. -/
def upd {α : Type} (l : List α) (i : Nat) (f : α → α) : List α := l.modify i f
/-- Count the elements that satisfy a test. -/
def countp {α : Type} (l : List α) (p : α → Bool) : Nat := (l.filter p).length
/-- Saturating increment of a 32-bit count (04 R122, 16 R461). -/
def satAdd (w : Word) (n : Nat) : Word := if w.toNat + n < 2 ^ 32 then BitVec.ofNat 32 (w.toNat + n) else 0xFFFFFFFF

/-! ### Places (00 R14, 15 R431) -/

/-- The die of a physical core 36d + 4c + k. -/
def dieOf (c : Nat) : Nat := c / 36
/-- The cluster of a physical core, 0–8 within its die. -/
def clusterOf (c : Nat) : Nat := c % 36 / 4
/-- The core number within its cluster (CSLOT, 04 R123). -/
def cslotOf (c : Nat) : Nat := c % 4
/-- The cluster's number in the package, 9d + c. -/
def clIndex (c : Nat) : Nat := c / 4

end Sys2Proof.Machine
end

