-- ==== Sys2Proof/Machine/Flit.lean ====
section
/-! DEFINITION. The flits of a Helor Link port: their 256 bytes and their CRC (spec/17_package_host_power.md R473). -/

namespace Sys2Proof

/-- One bit enters the remainder of a division by the CRC's polynomial. -/
def crcBit (c : DWord) (b : Bool) : DWord := if c.msb != b then (c <<< 1) ^^^ 0x42F0E1EBA9EA3693 else c <<< 1
/-- CRC-64 of a list of bytes: each with its highest bit first, from 0 (log 98). -/
def crc64 (bs : List Byte) : DWord := bs.foldl (fun c b => (List.range 8).foldl (fun c i => crcBit c (b.getLsbD (7 - i))) c) 0
/-- Bytes 0–247 of a flit: SEQ with VC, ACK with NAK, zeros, and the packets, whose own layout is the link's (log 98). -/
def flitBytes (seq : BitVec 12) (vc : Fin 4) (ack : BitVec 12) (nak : Bool) (ps : List LinkPacket) : List Byte :=
  let p := (Config.linkPayload ps).take 240
  Machine.toBytes (seq.toNat + 2 ^ 12 * vc.val) 2 ++ Machine.toBytes (ack.toNat + 2 ^ 12 * nak.toNat) 2 ++ List.replicate 4 0 ++
    p ++ List.replicate (240 - p.length) 0
/-- A flit as a port sends it, with the CRC of its bytes. -/
def Flit.make (seq : BitVec 12) (vc : Fin 4) (ack : BitVec 12) (nak : Bool) (ps : List LinkPacket) : Flit :=
  ⟨seq, vc, ack, nak, crc64 (flitBytes seq vc ack nak ps), ps⟩
/-- The CRC of a received flit checks. -/
def Flit.good (f : Flit) : Bool := f.crc == crc64 (flitBytes f.seq f.vc f.ack f.nak f.packets)
/-- A flit sent again, with the ACK of now. -/
def Flit.again (f : Flit) (ack : BitVec 12) : Flit := Flit.make f.seq f.vc ack f.nak f.packets

theorem Flit.make_good (seq vc ack nak ps) : (Flit.make seq vc ack nak ps).good = true := by simp [Flit.good, Flit.make]

end Sys2Proof
end

