-- ==== Sys2Proof/Machine/Translate.lean ====
section
/-! DEFINITION. The physical map, routing, page walks and translation (spec/09_memory_state.md R253–R260,
spec/15_system_tables.md R422–R424, R430). -/

namespace Sys2Proof.Machine

/-! ### The physical map (09 R257, 15 R430) -/

/-- What a 52-bit physical address names on this package. -/
inductive Phys where
  | hbm (a : Nat) | scm (a : Nat) | mmio (off : Nat) | hole | remote (pkg : Nat)
  deriving DecidableEq, Repr

/-- The entry of the routing table; zero where never written (15 R430). -/
def State.route (s : State) (p : Nat) : DWord := (tget s.regs.routes p).getD 0
/-- The package's own number: that of the entry with LOCAL, else 0 (15 R430). -/
def State.pkg (s : State) : Nat := ((s.regs.routes.find? (fun r => r.2.getLsbD 25)).map (·.1)).getD 0

/-- The local map of the low 42 bits (09 R257). -/
def localPhys (a : Nat) : Phys :=
  if a < 0x06000000000 then .hbm a
  else if a < 0x08000000000 then .hole
  else if a < 0x10000000000 then .mmio (a - 0x08000000000)
  else if a < 0x20000000000 then .hole
  else .scm a

/-- What a physical address names: local memory, a device register, another listed package, or nothing (09 R257). -/
def State.phys (s : State) (pa : Nat) : Phys :=
  let p := pa / 2 ^ 42 % 1024
  if p = s.pkg then localPhys (pa % 2 ^ 42)
  else if (s.route p).getLsbD 24 && (s.route p).toNat % 2 ^ 24 != 0 then
    match localPhys (pa % 2 ^ 42) with
    | .hole => .hole
    | _ => .remote p
  else .hole

/-- The `j`-th set bit of a mask, counting from bit `i` (15 R430). -/
def setBit (mask : Nat) : Nat → Nat → Nat → Nat
  | 0, i, _ => i
  | f + 1, i, j => if nbit mask i then (if j = 0 then i else setBit mask f (i + 1) (j - 1)) else setBit mask f (i + 1) j
/-- Number of set bits among the low `n`. -/
def popcount (v n : Nat) : Nat := ((List.range n).filter (nbit v)).length

/-- The port a request to a package takes (15 R430): the set bit of PORTS that the address selects. -/
def State.portOf (s : State) (pa : Nat) : Nat :=
  let m := (s.route (pa / 2 ^ 42 % 1024)).toNat % 2 ^ 24
  setBit m 24 0 (pa % 2 ^ 42 / 2 ^ 12 % popcount m 24)

/-- The stack that homes an HBM address under the mode in force (09 R253). -/
def State.stackOf (s : State) (a : Nat) : Nat :=
  if s.regs.hbmLatched.getD s.regs.hbmmode then a / 2 ^ 12 % 8 else a / (48 * 2 ^ 30)
/-- The I/O die that homes an SCM address: modules 0–3 on IOD0 (09 R254). -/
def iodOf (a : Nat) : Nat := a / 2 ^ 12 % 8 / 4

/-! ### Migration (09 R265, R266) -/

def Migration.size (m : Migration) : Nat := if m.large then 2 ^ 21 else 2 ^ 16
/-- The migration whose old page holds a local address. -/
def State.migOf (s : State) (a : Nat) : Option Migration :=
  s.regs.migs.find? fun m => decide (m.old ≤ a) && decide (a < m.old + m.size)
/-- Where an access arriving at a local address is performed: at the new page after switch-over. -/
def State.homeAddr (s : State) (a : Nat) : Nat :=
  match s.migOf a with
  | some m => if m.switched then m.new + (a - m.old) else a
  | none => a
/-- The home at which an access that arrives at a local address is performed. -/
def State.homeAt (s : State) (p : Phys) : Phys :=
  match p with
  | .hbm a | .scm a => if s.homeAddr a = a then p else localPhys (s.homeAddr a)
  | p => p

/-! ### Page walks (15 R422–R424) -/

/-- What a walk finds. `wait`: the next entry lies on another package, at an address whose answer has not come; `lost`: it never will,
for the port has gone down (17 R474). -/
inductive WalkRes where
  | leaf (e : TlbEntry) | absent | prot | lost | wait (ea : Nat)
  deriving DecidableEq, Repr

/-- All of [63:57] equal bit 56 (09 R258). -/
def canonical (va : Nat) : Bool := va / 2 ^ 56 == 0 || va / 2 ^ 56 == 255

/-- Reserved bits [7:4] and [63:52] of an entry (15 R424). -/
def pteReserved (e : Nat) : Bool := nfld e 4 4 != 0 || nfld e 52 12 != 0

/-- What reading a page-table entry gives. -/
inductive Pte where
  | val (e : Nat) | wait | lost | none
  deriving DecidableEq, Repr

/-- Who asks for table entries and code that lie on other packages. -/
def walkWho (ea : Nat) : List Nat := [8, ea]
/-- Eight bytes of another package, as it answered (log 34). -/
inductive Far where
  | val (w : Nat) | poison | lost | wait
  deriving DecidableEq, Repr
def State.farWord (s : State) (pa : Nat) : Far :=
  match s.homes.remotes.find? fun r => r.who == walkWho pa with
  | some r => if r.lost then .lost else match r.answer with
    | some b => if r.poison then .poison else .val (ofBytes b)
    | none => .wait
  | none => .wait
/-- A page-table entry at a physical address: at its home, or as another package answered. -/
def State.pteAt (s : State) (ea : Nat) : Pte :=
  match s.phys ea with
  | .remote _ => match s.farWord ea with
    | .val w => .val w
    | .wait => .wait
    | .lost => .lost
    | .poison => .none
  | .hbm a | .scm a => .val (Memory.read s.homes.mem (s.homeAddr a) 8)
  | _ => .none

/-- One level of a walk: an entry of the table at `base`, a leaf of `lg` bits where `leafOk`, else the next table, aligned to
`nextLg` bits. Levels remain in the list. A table that no memory holds translates nothing (log 16). -/
def walkLevels (s : State) (ctx va : Nat) : Nat → List (Nat × Nat × Bool × Bool × Nat) → WalkRes
  | _, [] => .prot
  | base, (lo, len, leafOk, ptrOk, nextLg) :: rest =>
    let ea := base + 8 * nfld va lo len
    match s.pteAt ea with
    | .wait => .wait ea
    | .lost => .lost
    | .none => .prot
    | .val e =>
      let addr := nfld e 8 44 * 256
      if !nbit e 0 then .absent
      else if pteReserved e then .prot
      else if nbit e 3 then
        if leafOk && addr % 2 ^ lo == 0 then
          .leaf ⟨ctx, va / 2 ^ lo * 2 ^ lo, lo, addr, nbit e 1, nbit e 2⟩ else .prot
      else if ptrOk && addr % 2 ^ nextLg == 0 then walkLevels s ctx va addr rest
      else .prot

/-- The four levels: low bit, width, leaf and pointer allowed, log2 of the next table's size (15 R423). -/
def levels : List (Nat × Nat × Bool × Bool × Nat) :=
  [(39, 18, false, true, 12), (30, 9, true, true, 12), (21, 9, true, true, 8), (16, 5, true, false, 0)]

/-- A whole walk of a context whose CTX holds `c` (15 R422, R423). -/
def State.walkFrom (s : State) (c : DWord) (ctx va : Nat) : WalkRes :=
  if !c.getLsbD 0 || !canonical va then .prot
  else walkLevels s ctx (va % 2 ^ 57) (nfld c.toNat 21 31 * 2 ^ 21) levels
/-- CTX of a context. -/
def State.ctxReg (s : State) (ctx : Nat) : DWord := s.regs.ctxs.getD ctx 0
/-- A whole walk of a context that starts now. -/
def State.walk (s : State) (ctx va : Nat) : WalkRes := s.walkFrom (s.ctxReg ctx) ctx va

/-- The entries that the levels of a walk read, from the table at `base`. -/
def trailLevels (s : State) (va : Nat) : Nat → List (Nat × Nat × Bool × Bool × Nat) → List Nat
  | _, [] => []
  | base, (lo, len, _) :: rest =>
    let ea := base + 8 * nfld va lo len
    ea :: match s.pteAt ea with
      | .val e => if nbit e 0 && !pteReserved e && !nbit e 3 then trailLevels s va (nfld e 8 44 * 256) rest else []
      | _ => []
/-- The entries that a walk reads (09 R259). -/
def State.trail (s : State) (c : DWord) (va : Nat) : List Nat :=
  if !c.getLsbD 0 || !canonical va then [] else trailLevels s (va % 2 ^ 57) (nfld c.toNat 21 31 * 2 ^ 21) levels

/-- The span of the residual-code window (15 R426). -/
def windowBase : Nat := 0xFF00000000000000
/-- Bytes of the window: MIRSIZE, or 8 MiB when it is 0 (15 R426). -/
def State.windowSize (s : State) : Nat := if s.mirage.inSize = 0 then 8 * 2 ^ 20 else s.mirage.inSize
/-- The address lies in the residual-code window. -/
def State.inWindow (s : State) (va : Nat) : Bool := decide (windowBase ≤ va) && decide (va < windowBase + s.windowSize)

/-! ### Translation of one address -/

/-- What translating an access gives. `miss`: the TLB holds no entry and a walk must come first. -/
inductive Xlate where
  | ok (pa : Nat) (code : Bool) | absent | prot | lost | wait (ea : Nat) | miss
  deriving DecidableEq, Repr

/-- Kinds of access (09 R261). -/
inductive Acc where
  | read | write | atomic | fetch
  deriving DecidableEq, Repr

/-- The rights of an entry: a write or atomic needs W, a fetch CODE (15 R424). -/
def TlbEntry.allows (e : TlbEntry) (a : Acc) : Bool :=
  match a with
  | .read => true
  | .write | .atomic => e.w
  | .fetch => e.code

/-- The physical address an entry gives. -/
def TlbEntry.addr (e : TlbEntry) (va : Nat) : Nat := e.frame + va % 2 ^ e.lg

/-- The entry maps the address in the context. -/
def TlbEntry.hits (e : TlbEntry) (ctx va : Nat) : Bool := e.ctx == ctx && va % 2 ^ 57 / 2 ^ e.lg * 2 ^ e.lg == e.page

/-- An entry's answer to an access. -/
def TlbEntry.answer (e : TlbEntry) (va : Nat) (a : Acc) : Xlate := if e.allows a then .ok (e.addr va) e.code else .prot

/-- Translation by a walk, without a TLB, as the front end does it. Data accesses to the residual-code window raise PROT_FAULT (15
R426). -/
def State.xlate (s : State) (ctx va : Nat) (a : Acc) : Xlate :=
  if s.inWindow va then .prot
  else match s.walk ctx va with
    | .leaf e => e.answer va a
    | .absent => .absent
    | .prot => .prot
    | .lost => .lost
    | .wait ea => .wait ea

/-- The entry of a core's TLB that maps an address. -/
def State.tlbEntry (s : State) (core ctx va : Nat) : Option TlbEntry :=
  ((s.cores[core]?.map (·.tlb)).getD []).find? fun e => e.hits ctx va
/-- Translation of a thread's access through its core's TLB (09 R259). A held entry outlives a change of CTX (15 R422). -/
def State.xlateTlb (s : State) (core ctx va : Nat) (a : Acc) : Xlate :=
  if !canonical va || s.inWindow va then .prot
  else match s.tlbEntry core ctx va with
    | some e => e.answer va a
    | none => .miss
/-- Translation for the sequencer, an engine or a fetch of a core: by an entry of its TLB, else by a walk (09 R259; log 47). -/
def State.xlateAt (s : State) (core : Option Nat) (ctx va : Nat) (a : Acc) : Xlate :=
  match core with
  | none => s.xlate ctx va a
  | some c => match s.xlateTlb c ctx va a with
    | .miss => s.xlate ctx va a
    | x => x
/-- Walks in flight of a cluster. -/
def State.walksOf (s : State) (c : Nat) : Nat := countp s.homes.walks fun w => w.core / 4 == c / 4
/-- An access needs a walk, and the walker of the core's cluster has eight in flight, so that it waits (09 R259). -/
def State.walkFull (s : State) (core : Option Nat) (ctx va : Nat) : Bool :=
  match core with
  | none => false
  | some c => s.xlateTlb c ctx va .read == .miss && decide (8 ≤ s.walksOf c)

/-- An address that translates to readable or writable memory of this package or another (13 R363, R368). -/
def State.canAccess (s : State) (ctx va : Nat) (a : Acc) : Option Nat :=
  match s.xlate ctx va a with
  | .ok pa _ => match s.phys pa with
      | .hbm _ | .scm _ | .remote _ => some pa
      | _ => none
  | _ => none

end Sys2Proof.Machine
end

