-- ==== Sys2Proof/Machine/Homes.lean ====
section
/-! DEFINITION. The homes: reads and writes at a point of coherence, the L2 and SCM caches, Caravan entries, Seif's granule
copies, page migration, Mirage drops, Lamport stamps, and requests to other packages (spec/09_memory_state.md R248–R268,
spec/10 R281–R290, spec/11 R295, R305, R314, spec/16 R452–R454, spec/15 R428, spec/17 R473). -/

namespace Sys2Proof.Machine

def State.modHomes (s : State) (f : Homes → Homes) : State := { s with homes := f s.homes }
def State.modRegs (s : State) (f : Regs → Regs) : State := { s with regs := f s.regs }
def State.modCore (s : State) (c : Nat) (f : Core → Core) : State := { s with cores := upd s.cores c f }
def State.modMirage (s : State) (f : Mirage → Mirage) : State := { s with mirage := f s.mirage }
def State.emit (s : State) (o : Out) : State := { s with out := o :: s.out }
/-- A fresh identifier. -/
def State.newId (s : State) : State × Nat := (s.modHomes fun h => { h with nextId := h.nextId + 1 }, s.homes.nextId)
/-- A free value: the opaque constant applied to the step's counter (log 11). -/
def State.free (s : State) : State × QWord := ({ s with fresh := s.fresh + 1 }, Config.freeValue s.fresh)

/-! ### MSI-X (17 R470) -/

/-- The row of a vector in the one table kept for all functions: function 0 has 2,048 vectors, functions 1–8 have 256. -/
def msixRow (fn vec : Nat) : Nat := if fn = 0 then vec else 2048 + 256 * (fn - 1) + vec % 256
/-- The number of rows of a function's table. -/
def msixRows (fn : Nat) : Nat := if fn = 0 then 2048 else 256
/-- A vector's row; masked and empty where never written (log 7). -/
def State.vector (s : State) (row : Nat) : MsixVec := (tget s.regs.msix row).getD ⟨0, 0, true, false⟩
def State.setVector (s : State) (row : Nat) (v : MsixVec) : State := s.modRegs fun r => { r with msix := tset r.msix row v }
/-- Raise a vector: the message is sent, or its pending bit set while it is masked (17 R470). A number past the function's
table raises nothing. -/
def State.raiseMsix (s : State) (fn vec : Nat) : State :=
  if vec < msixRows fn then
    let row := msixRow fn vec
    let v := s.vector row
    if v.mask then s.setVector row { v with pend := true } else s.emit (.msix v.addr.toNat v.data.toNat)
  else s

/-! ### Cache tags (09 R245, R249–R252, R255) -/

/-- A line of the superblock carries a chain id (09 R252). -/
def SbLine.tagged (x : SbLine) : Bool := x.chains.any (· != 0)
/-- Insert a superblock so that `pos` others of its set come before it. -/
def insertPos (same : SbLine → Bool) (pos : Nat) (x : SbLine) : List SbLine → List SbLine
  | [] => [x]
  | y :: t =>
    if same y then (if pos = 0 then x :: y :: t else y :: insertPos same (pos - 1) x t) else y :: insertPos same pos x t

/-- The superblock to evict from a full set: the least recent untagged one, or of the tagged ones when more than 12 ways
are tagged (09 R252). -/
def victim (same : SbLine → Bool) (l : List SbLine) : Option SbLine :=
  let ways := l.filter same
  if ways.length < 16 then none
  else if 12 < countp ways SbLine.tagged then (ways.filter SbLine.tagged).getLast?
  else (ways.filter (fun x => !x.tagged)).getLast?

/-- The line's bit in its superblock. -/
def lineBit (a : Nat) : BitVec 4 := BitVec.ofNat 4 (2 ^ (a / 128 % 4))

/-- A list of superblocks holds the line of an address. -/
def holdsLine (l : List SbLine) (a : Nat) : Bool := l.any fun x => x.base == alignDown a 512 && x.valid &&& lineBit a != 0

/-- What an access does to a list of superblocks: a hit moves its superblock to MRU, a miss allocates the line with its chain id
and inserts its superblock at `pos`; EVICT 7 moves and allocates nothing. Gives the new list and what it evicted (09 R245, R250,
R252; log 6). -/
def touch (l : List SbLine) (sets a pos evict chain : Nat) (write : Bool) : List SbLine × Option SbLine :=
  let base := alignDown a 512
  let same := fun (x : SbLine) => Config.cacheSet sets (x.base / 512) % sets == Config.cacheSet sets (base / 512) % sets
  let others := l.filter fun y => y.base != base
  let dirt := fun (x : SbLine) => { x with dirty := if write then x.dirty ||| lineBit a else x.dirty }
  let alloc := fun (x : SbLine) => dirt { x with valid := x.valid ||| lineBit a, chains := upd x.chains (a / 128 % 4) fun _ => chain }
  if holdsLine l a then
    if evict = 7 then (l.map (fun y => if y.base == base then dirt y else y), none)
    else match l.find? (fun x => x.base == base) with
      | some x => (insertPos same 0 (dirt x) others, none)
      | none => (l, none)
  else if evict = 7 then (l, none)
  else match l.find? (fun x => x.base == base) with
    | some x => (insertPos same pos (alloc x) others, none)
    | none =>
      let v := victim same l
      let l' := match v with
        | some x => l.filter (fun y => y.base != x.base)
        | none => l
      (insertPos same pos (alloc ⟨base, 0, 0, [0, 0, 0, 0]⟩) l', v)

/-- The slice number 48d + i of an HBM address (09 R248). -/
def State.sliceOf (s : State) (a : Nat) : Nat := 48 * s.stackOf a + Config.l2Slice (a / 128) % 48

/-- The kind of a line's set: below 32 it always inserts at MRU, below 64 bimodally (09 R251; log 6). -/
def duelKind (sl a : Nat) : Nat := (Config.cacheSet 512 (a / 512) % 512 + Config.duelSet sl) % 512
/-- The selectors after a miss of a context (09 R251). -/
def Homes.select (h : Homes) (sl a ctx : Nat) : Tbl Nat :=
  let kind := duelKind sl a
  let key := 16 * sl + ctx
  let sel := (tget h.l2sel key).getD 0x1FF
  if kind < 32 then tset h.l2sel key (min 1023 (sel + 1)) else if kind < 64 then tset h.l2sel key (sel - 1) else h.l2sel
/-- An insertion that set duelling governs is bimodal (09 R251). -/
def Homes.bimodal (h : Homes) (sl a ctx : Nat) : Bool :=
  let kind := duelKind sl a
  decide (32 ≤ kind) && (decide (kind < 64) || decide (512 ≤ (tget h.l2sel (16 * sl + ctx)).getD 0x1FF))

/-- The effect of an access on the tags of its home L2 slice (09 R249–R252). -/
def State.l2Touch (s : State) (a ctx chain evict : Nat) (write : Bool) : State :=
  let sl := s.sliceOf a
  s.modHomes fun h =>
    let l := (tget h.l2 sl).getD []
    let miss := !holdsLine l a
    let bim := miss && evict == 0 && chain == 0 && h.bimodal sl a ctx
    let n := ((tget h.l2bim sl).getD 0 + 1) % 32
    let pos := if chain != 0 then 0 else if evict = 0 then (if bim && n != 0 then 15 else 0) else evict * 15 / 7
    { h with
      l2sel := if miss then h.select sl a ctx else h.l2sel
      l2bim := if bim then tset h.l2bim sl n else h.l2bim
      l2 := tset h.l2 sl (touch l 512 a pos evict chain write).1 }

/-! ### The Caravan queue (09 R256, 11 R314, R315) -/

/-- A step from `s` to `t` leaves no queue with more than 262,144 entries, or none longer than it was. Where it would, its write
waits and the step changes nothing (09 R256; log 21). -/
def State.carFits (s t : State) : Bool :=
  (List.range 2).all fun i => decide ((t.homes.caravan.getD i []).length ≤ max 262144 (s.homes.caravan.getD i []).length)

/-- A persist write enters its queue, youngest last; an engine's carries epoch 0 (11 R315). -/
def State.carEnter (s : State) (a : Nat) (data : List Host.Cell) (agent : Option (Nat × Nat)) (epoch : Word) : State :=
  let (s, id) := s.newId
  s.modHomes fun h => { h with
    caravan := upd h.caravan (iodOf a) (· ++ [⟨id, alignDown a 128, data, agent, if agent.isSome then epoch else 0, h.poison.contains (a / 128), false⟩]) }

/-- The youngest entry of a line ends a store that wrote the line whole (09 R263). -/
def State.carWhole (s : State) (a : Nat) : State :=
  s.modHomes fun h => { h with caravan := upd h.caravan (iodOf a) fun q =>
    match (q.filter fun e => e.line == alignDown a 128).getLast? with
    | some x => q.map fun e => if e.id == x.id then { e with whole := true } else e
    | none => q }

/-- The bytes of a range as cells. -/
def cellsOf (a : Nat) : List Byte → List Host.Cell
  | [] => []
  | b :: t => (a, b) :: cellsOf (a + 1) t

/-- The effect of an access on the tags of its home SCM cache; a dirty line that is evicted enters the queue (09 R255). The cache's
organisation is the model's: 8,192 sets of 16 superblocks, and EVICT 0 inserts at MRU (log 6). -/
def State.scmTouch (s : State) (a evict : Nat) (write : Bool) : State :=
  s.modHomes fun h =>
    let r := touch (h.scm.getD (iodOf a) []) 8192 a (if evict = 0 then 0 else evict * 15 / 7) evict 0 write
    let lines := match r.2 with
      | some v => (List.range 4).filterMap fun i => if v.dirty.getLsbD i then some (v.base + 128 * i) else none
      | none => []
    let es : List CarEntry := lines.zipIdx.map fun x =>
      ⟨h.nextId + x.2, alignDown x.1 128, cellsOf x.1 (Memory.bytes h.mem x.1 128), none, 0, h.poison.contains (x.1 / 128), false⟩
    { h with
      scm := upd h.scm (iodOf a) fun _ => r.1
      caravan := es.foldl (fun q e => upd q (iodOf e.line) (· ++ [e])) h.caravan
      nextId := h.nextId + es.length }

/-! ### Seif's granule copies (16 R452–R454) -/

/-- The capture range that holds an address, with its destination in the slot being written. -/
def State.seifRange (s : State) (a : Nat) : Option (Nat × Nat) :=
  (s.seif.ranges.find? fun r => r.2.1 != 0 && decide (r.1.toNat ≤ a) && decide (a < r.1.toNat + r.2.1.toNat)).map fun r =>
    (r.1.toNat, if s.seif.slot = 0 then r.2.2.1.toNat else r.2.2.2.toNat)
/-- The step tag of a granule; 0 where never set (log 1). -/
def State.gtag (s : State) (g : Nat) : BitVec 16 := (tget s.homes.gtags g).getD 0
def State.setGtag (s : State) (g : Nat) (t : BitVec 16) : State :=
  s.modHomes fun h => { h with gtags := tset h.gtags g t }
/-- STEPNO [15:0]. -/
def State.step16 (s : State) : BitVec 16 := BitVec.ofNat 16 s.regs.stepno.toNat

/-- The pages that a write at a local address reaches: its home, and while a migration copies also the new page (09 R265). -/
def State.homesOf (s : State) (p : Phys) : List Phys :=
  match p with
  | .hbm a | .scm a => s.homeAt p :: match s.migOf a with
    | some m => if m.switched then [] else [localPhys (m.new + (a - m.old))]
    | none => []
  | _ => []
/-- The poison of a line, set or cleared wherever a write of it is performed (09 R263). -/
def State.markPoison (s : State) (p : Phys) (on : Bool) : State :=
  (s.homesOf p).foldl (fun (s : State) q => match q with
    | .hbm a | .scm a =>
      let rest := s.homes.poison.filter (· != a / 128)
      s.modHomes fun h => { h with poison := if on then rest ++ [a / 128] else rest }
    | _ => s) s

/-- An engine's persist write of bytes at an SCM address, with the tag of its granule. -/
def State.persistRaw (s : State) (a : Nat) (bs : List Byte) : State :=
  (s.homesOf (.scm a)).foldl (fun (s : State) q => match q with
    | .hbm x => s.modHomes fun h => { h with mem := Memory.put h.mem x bs }
    | .scm x => ((s.modHomes fun h => { h with mem := Memory.put h.mem x bs }).setGtag (x / 256) s.step16).carEnter x (cellsOf x bs) none 0
    | _ => s) s

/-- Copy a granule, as it stands at its home, to its destination, mark it, and count it; a line carries its poison (09 R263). -/
def State.granuleCopy (s : State) (g : Nat) : State :=
  match s.seifRange (256 * g) with
  | none => s
  | some (src, dst) =>
    let d := dst + (256 * g - src)
    let home := s.homeAddr (256 * g)
    let old := Memory.bytes s.homes.mem home 256
    let bad := fun (i : Nat) => s.homes.poison.contains (home / 128 + i)
    let s := (s.markPoison (.scm d) (bad 0)).persistRaw d (old.take 128)
    let s := (s.markPoison (.scm (d + 128)) (bad 1)).persistRaw (d + 128) (old.drop 128)
    { s.setGtag g s.step16 with seif := { s.seif with copied := s.seif.copied + 1 } }

/-- The address from which the page that now holds a local address has moved, while its migration lasts (09 R265). -/
def State.movedFrom (s : State) (x : Nat) : Option Nat :=
  (s.regs.migs.find? fun m => m.switched && decide (m.new ≤ x) && decide (x < m.new + m.size)).map fun m => m.old + (x - m.new)
/-- What a write at a home does first, to the SCM granule there and to the one that has moved there: the copy of the old granule while a
capture runs, and the tag (16 R452, R454). -/
def State.seifBefore (s : State) (q : Phys) : State :=
  let at1 := match q with
    | .hbm x | .scm x => x :: (s.movedFrom x).toList
    | _ => []
  at1.foldl (fun (s : State) x => match localPhys x with
    | .scm y =>
      let g := y / 256
      (if s.seif.capturing && (s.seifRange y).isSome && s.gtag g != s.step16 then s.granuleCopy g else s).setGtag g s.step16
    | _ => s) s
/-- The same at every page that a write of a local address reaches. -/
def State.seifFirst (s : State) (p : Phys) : State := (s.homesOf p).foldl State.seifBefore s

/-! ### Mirage drops (15 R428) -/

/-- An entry is pinned while a launch that has not completed uses it (15 R426). -/
def State.pinned (s : State) (id : Nat) : Bool :=
  s.front.launches.any fun l => l.entry == some id && (l.state == .building || l.state == .dealing)
/-- Free the dropped entries that nothing pins. -/
def State.mirPurge (s : State) : State :=
  s.modMirage fun m => { m with entries := m.entries.filter fun e => !e.dropped || s.pinned e.id }
/-- Drop every entry, and discard every build, that a test selects. -/
def State.mirDrop (s : State) (objid : DWord → Bool) (unit : Nat → Bool) : State :=
  (s.modMirage fun m => { m with
    entries := m.entries.map fun e => if objid e.objid || e.units.any unit then { e with dropped := true } else e
    builds := m.builds.map fun b => if objid b.objid || b.units.any unit then { b with discarded := true } else b }).mirPurge

/-! ### Reads and writes at the home -/

/-- The line holds poison (09 R263). -/
def State.poisoned (s : State) (a : Nat) : Bool := s.homes.poison.contains (a / 128)

/-- How an access is made: context, chain id in force, EVICT, persist tag (agent and epoch), and whether it came through a
leaf with CODE. -/
structure Via where
  ctx : Nat
  chain : Nat
  evict : Nat
  persist : Option (Option (Nat × Nat) × Word)
  code : Bool
  deriving DecidableEq, Repr

/-- A plain engine access. -/
def Via.plain (ctx : Nat) : Via := ⟨ctx, 0, 0, none, false⟩

/-- The tags of the home's cache after an access. -/
def State.homeTouch (s : State) (p : Phys) (v : Via) (write : Bool) : State :=
  match p with
  | .hbm a => s.l2Touch a v.ctx v.chain v.evict write
  | .scm a => s.scmTouch a v.evict (write && v.persist.isNone)
  | _ => s

/-- Bytes read at the home of a local address, with the effect on its cache. -/
def State.homeRead (s : State) (p : Phys) (v : Via) (n : Nat) : State × List Byte :=
  match p with
  | .hbm a | .scm a => (s.homeTouch (s.homeAt p) v false, Memory.bytes s.homes.mem (s.homeAddr a) n)
  | _ => (s, [])

/-- The SCM cache of an address's home holds its line. -/
def State.scmHolds (s : State) (a : Nat) : Bool := holdsLine (s.homes.scm.getD (iodOf a) []) a
/-- Bytes written at the memory of a home, of one line: the bytes, and what enters the Caravan queue: a persist write, and a write that
the SCM cache neither holds nor allocates (09 R249, R255, 10 R288; log 21). -/
def State.homePut (s : State) (p : Phys) (v : Via) (bs : List Byte) : State :=
  match p with
  | .hbm a => (s.modHomes fun h => { h with mem := Memory.put h.mem a bs }).homeTouch p v true
  | .scm a =>
    let s := s.modHomes fun h => { h with mem := Memory.put h.mem a bs }
    let s := match v.persist with
      | some (agent, epoch) => s.carEnter a (cellsOf a bs) agent epoch
      | none => if v.evict = 7 && !s.scmHolds a then s.carEnter a (cellsOf a bs) none 0 else s
    s.homeTouch p v true
  | _ => s

/-- Mirage drops what a write through a CODE leaf reaches, at the page that it names and at the one that this page has moved to
(15 R428). -/
def State.codeDrop (s : State) (v : Via) (a : Nat) : State :=
  if v.code then s.mirDrop (fun _ => false) fun u => u == (s.pkg * 2 ^ 42 + a) / 2 ^ 16 || u == (s.pkg * 2 ^ 42 + s.homeAddr a) / 2 ^ 16 else s

/-- The bytes of one line written at a local address, at both pages while a migration copies: Seif's copy and tag come first, then poison
is cleared by a full line; Mirage drops what a write through a CODE leaf reaches (09 R249, R263–R266, 15 R428). -/
def State.homeWrite (s : State) (p : Phys) (v : Via) (bs : List Byte) : State :=
  match p with
  | .hbm a | .scm a =>
    let s := s.seifFirst p
    let s := if bs.length = 128 then s.markPoison p false else s
    ((s.homesOf p).foldl (fun (s : State) q => s.homePut q v bs) s).codeDrop v a
  | _ => s

/-- A whole line copied to a local address by the device, as a persist write, with the poison it came with (09 R263, R265,
11 R318). -/
def State.lineCopy (s : State) (p : Phys) (bad : Bool) (bs : List Byte) : State :=
  (s.homesOf p).foldl (fun (s : State) q => s.homePut q { Via.plain 0 with persist := some (none, 0) } bs) ((s.seifFirst p).markPoison p bad)

/-- An atomic in the copy phase clears the bit of its line, and is performed at the old page only (09 R265). -/
def State.migAtomic (s : State) (a : Nat) : State :=
  s.modRegs fun r => { r with
    migs := r.migs.map fun m =>
      if decide (m.old ≤ a) && decide (a < m.old + m.size) && !m.switched then
        { m with done := upd m.done ((a - m.old) / 128) fun _ => false }
      else m }

/-- An atomic's write at the home: as a write, but at the old page only while a migration copies (09 R265). -/
def State.homeUpdate (s : State) (p : Phys) (v : Via) (bs : List Byte) : State :=
  match p with
  | .hbm a | .scm a =>
    if (s.migOf a).any fun m => !m.switched then (((s.migAtomic a).seifBefore p).homePut p v bs).codeDrop v a else s.homeWrite p v bs
  | _ => s

/-! ### The TLB (09 R259) -/

/-- A filled entry is the most recent; the least recent of 257 leaves. -/
def State.tlbFill (s : State) (c : Nat) (e : TlbEntry) : State :=
  s.modCore c fun k => { k with tlb := (e :: k.tlb.filter fun x => !(x.ctx == e.ctx && x.page == e.page && x.lg == e.lg)).take 256 }
/-- A used entry becomes the most recent. -/
def State.tlbUse (s : State) (c ctx va : Nat) : State :=
  s.modCore c fun k => match k.tlb.find? fun e => e.hits ctx va with
    | some e => { k with tlb := e :: k.tlb.filter (· != e) }
    | none => k
/-- A walk from `c` reads its entries through their L2 and SCM homes, never through L1 (09 R259). -/
def State.walkTouch (s : State) (c : DWord) (ctx va : Nat) : State :=
  (s.trail c va).foldl (fun (s : State) ea => s.homeTouch (s.homeAt (s.phys ea)) (Via.plain ctx) false) s
/-- The TLB of a core after the sequencer, an engine or a fetch translated an address: the entry is used, or a walk fills it. -/
def State.tlbTouch (s : State) (core : Option Nat) (ctx va : Nat) : State :=
  match core with
  | none => s.walkTouch (s.ctxReg ctx) ctx va
  | some c => match s.xlateTlb c ctx va .read with
    | .miss =>
      let t := s.walkTouch (s.ctxReg ctx) ctx va
      match s.walk ctx va with
      | .leaf e => t.tlbFill c e
      | _ => t
    | _ => s.tlbUse c ctx va

/-! ### Lamport clocks (11 R305) -/

/-- The clock of a home. -/
def State.homeClk (s : State) (p : Phys) : DWord :=
  match p with
  | .hbm a => (tget s.homes.l2clk (s.sliceOf a)).getD 0
  | .scm a => s.homes.scmClk.getD (iodOf a) 0
  | _ => 0
/-- A seq_cst operation's timestamp at its home: the larger clock plus one, which becomes the home's (11 R305). -/
def State.stamp (s : State) (p : Phys) (msg : DWord) : State × DWord :=
  let q := s.homeAt p
  let hc := s.homeClk q
  let ts := (if hc.toNat < msg.toNat then msg else hc) + 1
  match q with
  | .hbm a => (s.modHomes fun h => { h with l2clk := tset h.l2clk (s.sliceOf a) ts }, ts)
  | .scm a => (s.modHomes fun h => { h with scmClk := upd h.scmClk (iodOf a) fun _ => ts }, ts)
  | _ => (s, ts)
/-- The core's clock on the return (11 R305; log 67). -/
def State.clkReturn (s : State) (c : Nat) (ts : DWord) : State :=
  s.modCore c fun k => { k with clk := if k.clk.toNat < ts.toNat then ts else k.clk }

/-! ### Requests to other packages (09 R257, 17 R473, R474) -/

/-- Send packets as one flit of a port, and keep it until it is acknowledged (17 R473). -/
def State.sendFlit (s : State) (port : Nat) (vc : Fin 4) (ps : List LinkPacket) : State :=
  let p := s.ports.getD port Port.reset
  let f := Flit.make p.tx vc (p.rx - 1) false ps
  { s with ports := upd s.ports port fun p => { p with
      tx := p.tx + 1, unack := p.unack ++ [f], sentAt := if p.unack.isEmpty then s.clock.toNat else p.sentAt } }.emit (.flit port f)

/-- What a request to another package has come to. -/
inductive RAns where
  | pending | lost | poison | data (b : List Byte)
  deriving DecidableEq, Repr

/-- What a record of a request has come to. -/
def Remote.ans (r : Remote) : RAns :=
  if r.lost then .lost else match r.answer with
    | some b => if r.poison then .poison else .data b
    | none => .pending
/-- The record of a request already sent. -/
def State.sent (s : State) (who : List Nat) (mk : Nat → LinkPacket) : Option Remote :=
  s.homes.remotes.find? fun r => r.who == who && r.packet == mk r.rid
/-- Ask another package, with all the requests of one access in one flit: those not sent yet are sent, and each waits for its answer.
A port that is down, or that has 512 flits unacknowledged, holds them back (17 R473, R474), and so does a change of the route that waits
(15 R430). -/
def State.askAll (s : State) (pa : Nat) (qs : List (List Nat × (Nat → LinkPacket))) : State × List RAns :=
  let ans := qs.map fun q => ((s.sent q.1 q.2).map Remote.ans).getD .pending
  let new := qs.filter fun q => (s.sent q.1 q.2).isNone
  let port := s.portOf pa
  let p := s.ports.getD port Port.reset
  if new.isEmpty || p.down || decide (512 ≤ p.unack.length) || (tget s.regs.routeNext (pa / 2 ^ 42 % 1024)).isSome then (s, ans)
  else
    let r := new.foldl (fun (acc : State × List LinkPacket) q =>
      let (s, rid) := acc.1.newId
      (s.modHomes fun h => { h with remotes := h.remotes ++ [⟨rid, q.1, pa / 2 ^ 42 % 1024, port, q.2 rid, none, false, false, 0, true⟩] }, acc.2 ++ [q.2 rid])) (s, [])
    let vc : Fin 4 := match r.2 with
      | .rebuildRead _ _ _ _ :: _ => 3
      | _ => 0
    (r.1.sendFlit port vc r.2, ans)
/-- Ask another package once. -/
def State.ask (s : State) (who : List Nat) (pa : Nat) (mk : Nat → LinkPacket) : State × RAns :=
  let r := s.askAll pa [(who, mk)]
  (r.1, r.2.headD .pending)
/-- An operation, or one of its parts, has asked another package and has not ended. -/
def State.asking (s : State) (who : List Nat) : Bool := s.homes.remotes.any fun r => r.who.take who.length == who
/-- The largest timestamp of the answers to an operation (11 R305). -/
def State.farTs (s : State) (who : List Nat) : DWord :=
  s.homes.remotes.foldl (fun (m : DWord) r => if r.who.take who.length == who && m.toNat < r.ts.toNat then r.ts else m) 0
/-- A request routed through a valid entry has not been acknowledged (15 R430). -/
def State.routeBusy (s : State) (p : Nat) : Bool :=
  (s.route p).getLsbD 24 && s.homes.remotes.any fun r => r.pkg == p && r.answer.isNone && !r.lost
/-- The operation that asked has ended: forget the answers to it and to its parts. -/
def State.asked (s : State) (who : List Nat) : State :=
  s.modHomes fun h => { h with remotes := h.remotes.filter fun r => r.who.take who.length != who }

/-- Ask for a page-table entry, or a word of code, of another package. -/
def State.askWalk (s : State) (ea : Nat) : State := (s.ask (walkWho ea) ea fun rid => .read rid (ea % 2 ^ 42) 8 none).1
/-- Forget the table entries and the code that a port took with it. -/
def State.forgetLost (s : State) : State :=
  s.modHomes fun h => { h with remotes := h.remotes.filter fun r => !(r.lost && r.who.head? == some 8) }
/-- Forget the table entries and the code that other packages answered with: they are read again (log 34). -/
def State.walked (s : State) : State := s.modHomes fun h => { h with remotes := h.remotes.filter fun r => r.who.head? != some 8 }

/-- A routing entry takes its value, unless it would be a second one with LOCAL (15 R430). -/
def State.routeTake (s : State) (p : Nat) (v : DWord) : State :=
  let s := s.modRegs fun r => { r with routeNext := r.routeNext.filter fun x => x.1 != p }
  if v.getLsbD 25 && s.regs.routes.any (fun r => r.1 != p && r.2.getLsbD 25) then s
  else s.walked.modRegs fun r => { r with routes := tset r.routes p (v &&& 0x3FFFFFF) }
/-- Requests have been acknowledged: the writes of routing entries that waited for them take effect (15 R430). -/
def State.routesDue (s : State) : State :=
  s.regs.routeNext.foldl (fun (s : State) x => if s.routeBusy x.1 then s else s.routeTake x.1 x.2) s

/-- The line at whose home accesses to a line are performed: while a page migrates its two frames are one location (09 R266, 11 R304). -/
def State.homeLine (s : State) (line : Nat) : Nat :=
  match s.phys (128 * line) with
  | .hbm a | .scm a => if s.homeAddr a = a then line else (s.pkg * 2 ^ 42 + s.homeAddr a) / 128
  | _ => line

end Sys2Proof.Machine
end

