-- ==== Sys2Proof/Machine/Ops.lean ====
section
/-! DEFINITION. The named operations on threads, blocks and the sequencer: registers, code and clause maps, regions, faults
(halts, user traps and the return from them, page faults), parking and waking, and the end of an instruction. -/

namespace Sys2Proof.Machine

/-! ### Reaching the parts of the state -/

def State.modBlock (s : State) (b : Nat) (f : Block → Block) : State := { s with blocks := upd s.blocks b f }
def State.modThread (s : State) (b t : Nat) (f : Thread → Thread) : State :=
  s.modBlock b fun k => { k with threads := upd k.threads t f }
def State.modThreads (s : State) (b : Nat) (f : Thread → Thread) : State :=
  s.modBlock b fun k => { k with threads := k.threads.map f }
def State.modFront (s : State) (f : Front → Front) : State := { s with front := f s.front }
def State.thread? (s : State) (b t : Nat) : Option Thread := s.blocks[b]?.bind (·.threads[t]?)
/-- A block that is resident on its core. -/
def State.resident? (s : State) (b : Nat) : Option Block := s.blocks[b]?.filter (·.place == .live)
def State.launch? (s : State) (k : Block) : Option Launch := s.front.launches[k.launch]?
/-- The context of a block's accesses (13 R359). -/
def State.ctxOf (s : State) (k : Block) : Nat := ((s.launch? k).map (·.ctx)).getD 0
/-- The chain id in force for a block's accesses (09 R252). -/
def State.chainOf (s : State) (k : Block) : Nat :=
  match s.launch? k with
  | some l => if l.chainOn then l.lrec.chain else 0
  | none => 0
/-- How a block's engines and sequencer access memory. -/
def State.viaOf (s : State) (k : Block) : Via := ⟨s.ctxOf k, s.chainOf k, 0, none, false⟩
/-- The logical number of a physical core (15 R431). -/
def State.logical (s : State) (c : Nat) : Nat := countp ((s.regs.harv.take c)) id
/-- A queue control block; all zero where never written (log 7). -/
def QCfg.zero : QCfg := ⟨0, 0, 0, 0, 0, 0, 0, 0, 0, 0, 0⟩
def Queue.zero : Queue :=
  { cfg := QCfg.zero, act := QCfg.zero, rd := 0, wr := 0, expect := 0, retries := 0, retryAt := 0, due := false, fetched := none, waiting := false, stat := 0
    hlost := false, reset := 0, haltUsed := 0, part := 0, mxnan := 0, mxinf := 0, mxovf := 0 }
def State.queue (s : State) (q : Nat) : Queue := (tget s.front.queues q).getD Queue.zero
def State.modQueue (s : State) (q : Nat) (f : Queue → Queue) : State :=
  s.modFront fun x => { x with queues := tset x.queues q (f (s.queue q)) }
/-- Raise a queue's vector of the function that owns it (17 R470, R471). -/
def State.raiseQueue (s : State) (q : Nat) : State := s.raiseMsix (s.queue q).part (s.queue q).act.msi
/-- The queue number of a block's launch. -/
def State.queueOf (s : State) (k : Block) : Nat := ((s.launch? k).map (·.queue)).getD 0

/-- The bundle that executes the instruction given to `exec`. -/
def State.curBundle (s : State) : Option Bundle :=
  match s.cur with
  | .bundle n => s.bundles.find? fun b => b.id == n
  | _ => none
/-- The block whose sequencer executes the instruction given to `exec`. -/
def State.curSeq (s : State) : Option Nat :=
  match s.cur with
  | .sequencer b => some b
  | _ => none
def State.modBundle (s : State) (n : Nat) (f : Bundle → Bundle) : State :=
  { s with bundles := s.bundles.map fun b => if b.id == n then f b else b }

/-! ### Registers (04 R105, R108; 02 R81) -/

def Thread.regs (t : Thread) : Nat := t.v.length
def Thread.reg (t : Thread) (n : Nat) : Word := t.v.getD n 0
/-- A register, pair or quad as one value, the lowest register in the low bits (00 R13). -/
def Thread.regW (t : Thread) (n words : Nat) : Nat := ofBytes ((List.range words).flatMap fun i => toBytes (t.reg (n + i)).toNat 4)
def Thread.setReg (t : Thread) (n : Nat) (w : Word) : Thread := { t with v := t.v.set n w }
/-- Write a register, pair or quad. -/
def Thread.setRegW (t : Thread) (n : Nat) : Nat → Nat → Thread
  | 0, _ => t
  | k + 1, v => (t.setReg n (BitVec.ofNat 32 v)).setRegW (n + 1) k (v / 2 ^ 32)
/-- P0 reads true and drops writes (04 R105). -/
def Thread.p (t : Thread) (n : Nat) : Bool := n == 0 || t.pred.getLsbD n
def Thread.setP (t : Thread) (n : Nat) (x : Bool) : Thread :=
  if n = 0 then t else { t with pred := if x then t.pred ||| BitVec.ofNat 8 (2 ^ n) else t.pred &&& ~~~ BitVec.ofNat 8 (2 ^ n) }
/-- K0 reads zero (02 R81). -/
def Block.kreg (b : Block) (n : Nat) : DWord := if n = 0 then 0 else b.k.getD n 0
/-- Writes to K0 are discarded (02 R81). -/
def Block.setK (b : Block) (n : Nat) (v : DWord) : Block := if n = 0 then b else { b with k := b.k.set n v }
/-- A half of a K register by its index (02 R64). -/
def Block.khalf (b : Block) (h : Nat) : Word :=
  if h % 2 = 0 then (b.kreg (h / 2)).setWidth 32 else ((b.kreg (h / 2)) >>> 32).setWidth 32
/-- A live thread has not exited (01 R19, R20). -/
def Thread.live (t : Thread) : Bool := t.status != .exited
def Thread.parked (t : Thread) : Bool :=
  match t.status with
  | .parked _ | .exiting => true
  | _ => false
/-- Ready in the Erg, in a bin or not (01 R35). -/
def Thread.ready (t : Thread) : Bool :=
  match t.status with
  | .ready _ => true
  | _ => false
/-- A lane takes effect in an instruction: its guard is true, it has not trapped in its meet clause (07 R201), and it has not
completed the instruction at which its octet parked (01 R42). -/
def Thread.acts (t : Thread) (g : Guard) : Bool := t.p g.val && !t.held && !t.acted
/-- The tag of the extended grant that backs a register; none in the base block (04 R119, R120). -/
def Thread.grantTag (t : Thread) (n : Nat) : Option (BitVec 4) :=
  (t.grants.find? fun g => decide (g.1 ≤ n) && decide (n < g.2.1)).map (·.2.2)

/-! ### Code streams, clause maps and fetch (02 R50–R53, 03 R103, 15 R426, R427) -/

/-- The extent of a block's thread or uniform stream: base address and bytes, generic or residual. -/
def State.extent (s : State) (k : Block) (thr : Bool) : Nat × Nat :=
  match k.entry.bind fun id => s.mirage.entries.find? fun e => e.id == id with
  | some e => if thr then (windowBase + e.tbase, 8 * e.t.words.length) else (windowBase + e.ubase, 8 * e.u.words.length)
  | none => match s.launch? k with
    | some l => if thr then (l.lrec.code + l.hdr.toff, l.hdr.tlen) else (l.lrec.code + l.hdr.uoff, l.hdr.ulen)
    | none => (0, 0)

/-- The residual stream a block runs, if it was placed on one. -/
def State.residual (s : State) (k : Block) (thr : Bool) : Option Residual :=
  (k.entry.bind fun id => s.mirage.entries.find? fun e => e.id == id).map fun e => if thr then e.t else e.u

/-- What reading code or data for an agent gives. -/
inductive Fetch where
  | ok (w : DWord) | absent | prot | hole | poison | lost | wait (ea : Nat)
  deriving DecidableEq, Repr

/-- The 8 bytes of code or data at a virtual address, as a core or the front end translates it (09 R259; log 47). -/
def State.peek (s : State) (core : Option Nat) (ctx va : Nat) (a : Acc) : Fetch :=
  match s.xlateAt core ctx va a with
  | .ok pa _ => match s.phys pa with
    | .hbm x | .scm x => if s.poisoned (s.homeAddr x) then .poison else .ok (BitVec.ofNat 64 (Memory.read s.homes.mem (s.homeAddr x) 8))
    | .remote _ => match localPhys (pa % 2 ^ 42) with
      | .hbm _ | .scm _ => match s.farWord pa with
        | .val w => .ok (BitVec.ofNat 64 w)
        | .poison => .poison
        | .lost => .lost
        | .wait => .wait pa
      | _ => .hole
    | _ => .hole
  | .prot => .prot
  | .lost => .lost
  | .wait ea => .wait ea
  | _ => .absent

/-- The address lies in the residual-code window, or in the residual code that the block runs, which stays there when a smaller MIRSIZE
takes effect (15 R426, R428). -/
def State.fromWindow (s : State) (k : Block) (thr : Bool) (pc : DWord) : Bool :=
  let e := s.extent k thr
  s.inWindow pc.toNat || ((s.residual k thr).isSome && decide (e.1 ≤ pc.toNat) && decide (pc.toNat < e.1 + e.2))
/-- Fetch the word at an address of a block's stream: through a leaf with CODE, or from the residual-code window (15 R426). -/
def State.fetchWord (s : State) (k : Block) (thr : Bool) (pc : DWord) : Fetch :=
  if s.fromWindow k thr pc then
    match s.residual k thr with
    | some r => match r.words[(pc.toNat - (s.extent k thr).1) / 8]? with
      | some w => .ok w
      | none => .hole
    | none => .prot
  else s.peek (some k.core) (s.ctxOf k) pc.toNat .fetch

/-- The clause-map bit of the word at a byte offset of a stream (02 R52, 03 R103). A map byte that cannot be read is clear
(log 12). -/
def State.mapBit (s : State) (k : Block) (thr : Bool) (off : Nat) : Bool :=
  match s.residual k thr with
  | some r => r.hdrs.getD (off / 8) false
  | none => match s.launch? k with
    | some l =>
      let va := l.lrec.code + (if thr then l.hdr.tmap else l.hdr.umap) + off / 64
      match s.peek (some k.core) (s.ctxOf k) (alignDown va 8) .read with
      | .ok w => w.getLsbD (8 * (va % 8) + off / 8 % 8)
      | _ => false
    | none => false

/-- What a stream and its clause map still need from other packages (log 34). -/
def State.farCode (s : State) (k : Block) (thr : Bool) : Option Nat :=
  if s.regs.routes.all fun r => r.1 == s.pkg then none
  else
    let e := s.extent k thr
    let far := fun (f : Fetch) => match f with
      | .wait ea => some ea
      | _ => none
    match (List.range (e.2 / 8)).findSome? fun i => far (s.fetchWord k thr (BitVec.ofNat 64 (e.1 + 8 * i))) with
    | some ea => some ea
    | none => match s.residual k thr, s.launch? k with
      | none, some l => (List.range ((e.2 + 63) / 64)).findSome? fun i =>
        far (s.peek (some k.core) (s.ctxOf k) (alignDown (l.lrec.code + (if thr then l.hdr.tmap else l.hdr.umap) + i) 8) .read)
      | _, _ => none

/-- A target passes the check of 02 R52: a multiple of 8, inside the stream, at a header. -/
def State.targetOk (s : State) (k : Block) (thr : Bool) (a : DWord) : Bool :=
  let e := s.extent k thr
  a.toNat % 8 == 0 && decide (e.1 ≤ a.toNat) && decide (a.toNat < e.1 + e.2) && s.mapBit k thr (a.toNat - e.1)

/-- The header of the clause that holds an address inside it, scanning back at most 16 words of the clause map (08 R223). -/
def State.clauseOf (s : State) (k : Block) (thr : Bool) (pc : DWord) : Option (DWord × Nat) :=
  let e := s.extent k thr
  if pc.toNat % 8 != 0 || pc.toNat < e.1 || e.1 + e.2 ≤ pc.toNat || s.mapBit k thr (pc.toNat - e.1) then none
  else
    match (List.range 16).find? fun i => decide (e.1 + 8 * (i + 1) ≤ pc.toNat) && s.mapBit k thr (pc.toNat - 8 * (i + 1) - e.1) with
    | some i =>
      let h := pc - BitVec.ofNat 64 (8 * (i + 1))
      match s.fetchWord k thr h with
      | .ok w => if i + 1 ≤ fld w 0 4 + 1 then some (h, fld w 0 4 + 1) else none
      | _ => none
    | none => none

/-- The original address and unroll iteration of a PC: the back-map's in residual code, else itself and 0 (15 R427). -/
def State.origin (s : State) (k : Block) (thr : Bool) (pc : DWord) : DWord × Nat :=
  match s.residual k thr, s.launch? k with
  | some r, some l =>
    let b := r.back.getD ((pc.toNat - (s.extent k thr).1) / 8) (0, 0)
    (BitVec.ofNat 64 (l.lrec.code + (if thr then l.hdr.toff else l.hdr.uoff) + b.1), b.2)
  | _, _ => (pc, 0)

/-! ### Fault codes (08 R217) -/

def Code.illegalOpcode : Nat := 0x01
def Code.illegalStream : Nat := 0x02
def Code.illegalClause : Nat := 0x03
def Code.illegalEncoding : Nat := 0x04
def Code.illegalTarget : Nat := 0x05
def Code.regBounds : Nat := 0x06
def Code.regOvercommit : Nat := 0x07
def Code.regDeadlock : Nat := 0x08
def Code.regionOverflow : Nat := 0x09
def Code.queueDeadlock : Nat := 0x0A
def Code.accOvercommit : Nat := 0x0B
def Code.blockFormat : Nat := 0x0C
def Code.protFault : Nat := 0x0D
def Code.fpTrap : Nat := 0x0E
def Code.utretNoTrap : Nat := 0x0F
def Code.syscallKill : Nat := 0x10
def Code.spadBounds : Nat := 0x11
def Code.memPoison : Nat := 0x12
def Code.physHole : Nat := 0x13
def Code.misaligned : Nat := 0x14
def Code.queueState : Nat := 0x15
def Code.streamProg : Nat := 0x16
def Code.copyDesc : Nat := 0x17
def Code.tileState : Nat := 0x18
def Code.loopNest : Nat := 0x19
def Code.accState : Nat := 0x1A
def Code.collDesc : Nat := 0x1B
def Code.stepOrder : Nat := 0x1C
def Code.barState : Nat := 0x1D
def Code.linkLost : Nat := 0x1E
def Code.breakpoint : Nat := 0x20
def Code.debugHalt : Nat := 0x21
def Code.fpUser : Nat := 0x40

/-! ### Halting a block (08 R229–R233) -/

/-- Broadcast a halt: the first fatal fault of a block stands, with the broadcast's CLOCK; one that is found during a debug stop
makes the halt fatal (08 R229, R233). -/
def State.haltBlock (s : State) (b : Nat) (code : Nat) (debug : Bool) (word : Nat) (ftid : Option Nat) (pc addr : DWord)
    (imm : Nat) : State :=
  s.modBlock b fun k =>
    if (k.halt.map fun h => debug || !h.debug) == some true then k
    else { k with halt := some ⟨code, debug, word, ftid, pc, addr, imm, s.clock, s.cycle, false, k.halt.isSome⟩ }

/-- The PC of a bundle's instruction. -/
def Bundle.pc (bd : Bundle) : DWord := bd.hdr + BitVec.ofNat 64 (8 * bd.idx)
/-- The PC of the sequencer. -/
def Seq.pc (q : Seq) : DWord := if q.ended then 0 else q.hdr + BitVec.ofNat 64 (8 * q.idx)
/-- The sequencer's next instruction: the first of its clause while it stands at the header (18 R490). -/
def Seq.stopPc (q : Seq) : DWord := if q.ended then 0 else q.hdr + BitVec.ofNat 64 (8 * max 1 q.idx)

/-- Return the lanes of a bundle to the Erg where they stand, and drop the bundle (01 R21). -/
def State.dissolve (s : State) (bd : Bundle) : State :=
  let s := bd.lanes.foldl (fun s t => s.modThread bd.blk t fun th =>
    if th.status == .issued then { th with status := .ready false, arrival := s.cycle } else th) s
  { s with bundles := s.bundles.filter fun b => b.id != bd.id
           cores := match s.blocks[bd.blk]? with
             | some k => upd s.cores k.core fun c => { c with fast := c.fast - bd.ws }
             | none => s.cores }

/-- A thread of a bundle raises a fatal fault: its block halts, and it leaves the bundle where it stands (08 R229). Where an encoding
fault is raised at issue, and not by the clause check, the record holds the instruction's PC and WORD 0 (log 87). -/
def State.haltAt (s : State) (b tid code : Nat) (pc addr : DWord) : State :=
  (s.haltBlock b code false 0 (some tid) pc addr 0).modThread b tid fun t => { t with status := .ready false }
/-- A halt that a higher home lane of a bundle raised in the instruction the bundle executes. -/
def Halt.higher (h : Halt) (bd : Bundle) (tid : Nat) : Bool :=
  !h.debug && h.pc == bd.pc && (h.ftid.any fun u => bd.lanes.contains u && decide (tid % 8 < u % 8))
/-- A lane raises a fatal fault at its instruction. The record names the lowest home lane that does (08 R217). -/
def State.haltLane (s : State) (bd : Bundle) (tid code : Nat) (addr : DWord) : State :=
  (s.haltAt bd.blk tid code bd.pc addr).modBlock bd.blk fun k => { k with
    halt := k.halt.map fun h => if h.higher bd tid then { h with code := code, ftid := some tid, addr := addr } else h }

/-- The sequencer raises a fatal fault at its instruction (08 R229). -/
def State.haltSeq (s : State) (b code : Nat) (addr : DWord) : State :=
  s.haltBlock b code false 0 none (((s.blocks[b]?.map (·.seq.pc))).getD 0) addr 0

/-- An engine acting for a block raises a fatal fault (12 R344, R354; 14 R404). -/
def State.haltEngine (s : State) (b code : Nat) (addr : Nat) : State := s.haltSeq b code (BitVec.ofNat 64 addr)

/-! ### The fault-address queue (09 R261) -/

/-- Queue a fault-address record, with its REPEAT count (08 R215, 09 R261). -/
def State.faqPush (s : State) (r : FaqRec) : State :=
  let hit := fun (x : Nat × Nat × Nat × Nat × Nat × Nat) =>
    x.1 == r.ctx && x.2.1 == r.va && x.2.2.1 == r.src && x.2.2.2.1 == r.blk && x.2.2.2.2.1 == r.agent
  if r.kind = 0 then
    match s.regs.faqSeen.find? hit with
    | some x => s.modRegs fun g => { g with
        faqWait := g.faqWait ++ [{ r with rep := min 255 (x.2.2.2.2.2 + 1) }]
        faqSeen := (x.1, x.2.1, x.2.2.1, x.2.2.2.1, x.2.2.2.2.1, x.2.2.2.2.2 + 1) :: g.faqSeen.filter (fun y => !hit y) }
    | none => s.modRegs fun g => { g with
        faqWait := g.faqWait ++ [r], faqSeen := (r.ctx, r.va, r.src, r.blk, r.agent, 0) :: g.faqSeen }
  else s.modRegs fun g => { g with faqWait := g.faqWait ++ [r] }

/-- The code of an access kind in a record (09 R261). -/
def Acc.code : Acc → Nat
  | .read => 0 | .write => 1 | .atomic => 2 | .fetch => 3

/-- A page fault's record for an agent of a block (09 R261). -/
def State.faultRecord (s : State) (b src agent va : Nat) (a : Acc) : State :=
  match s.blocks[b]? with
  | some k => s.walked.faqPush ⟨va, 0, 0, src, a.code, 0, s.logical k.core, k.ticket, agent, s.ctxOf k, b⟩
  | none => s

/-! ### Scratchpad windows (09 R243, R244; 10 R278) -/

/-- The peer of a block's CLUSTER unit on a core slot of its cluster, or the block itself on its own slot (10 R278). -/
def State.peer (s : State) (b slot : Nat) : Option Nat :=
  match s.resident? b with
  | some k =>
    if slot = cslotOf k.core then some b
    else match s.launch? k with
      | some l =>
        if l.lrec.levels.any (fun v => v.2.1 == 3) && s.regs.harv.getD (k.core / 4 * 4 + slot) false then
          (List.range s.blocks.length).find? fun j => match s.resident? j with
            | some o => o.core == k.core / 4 * 4 + slot && o.launch == k.launch && o.unit == k.unit
            | none => false
        else none
      | none => none
  | none => none

/-- A cluster scratchpad address: the target block and the offset in its window, or nothing (SPAD_BOUNDS, 10 R278). -/
def State.spadTarget (s : State) (b : Nat) (ea n : Nat) : Option (Nat × Nat) :=
  if ea / 2 ^ 22 != 0 then none
  else match s.peer b (ea / 2 ^ 20) with
    | some o => match s.blocks[o]? with
      | some k => if ea % 2 ^ 20 + n ≤ k.spadBytes then some (o, ea % 2 ^ 20) else none
      | none => none
    | none => none

/-- An offset of the block's own window (10 R278, PATH 1). -/
def State.ownSpad (s : State) (b ea n : Nat) : Option (Nat × Nat) :=
  match s.blocks[b]? with
  | some k => if ea + n ≤ k.spadBytes then some (b, ea) else none
  | none => none

def Block.spadPut (k : Block) (off : Nat) (bs : List Byte) : Block :=
  { k with spad := Memory.put k.spad off bs
           spadPoison := if bs.length = 128 && off % 128 == 0 then k.spadPoison.filter (· != off / 128) else k.spadPoison }

/-! ### The register pool (04 R108–R113) -/

/-- Return chunks to a block's reserve until it is whole, and the rest to the free pool (04 R111). -/
def State.freeChunks (s : State) (b n : Nat) : State :=
  match s.blocks[b]? with
  | some k =>
    let r := min n (k.reserveWhole - k.reserve)
    (s.modBlock b fun k => { k with reserve := k.reserve + r }).modCore k.core fun c => { c with
      free := c.free + (n - r), grew := if r < n then s.cycle else c.grew }
  | none => s

/-- Give a thread so many registers, new ones zero, as one grant with its tag (04 R106, R110, R119). -/
def Thread.growTo (t : Thread) (n : Nat) : Thread :=
  { t with v := t.v ++ List.replicate (n - t.v.length) 0, grown := true, grants := t.grants ++ [(t.v.length, n, t.grant)] }
/-- Cut a thread's registers to so many: the grants above end (04 R111); the next grant takes `tag`. -/
def Thread.shrinkTo (t : Thread) (n : Nat) (tag : BitVec 4) : Thread :=
  { t with v := t.v.take n, grant := tag
           grants := (t.grants.filter fun g => decide (g.1 < n)).map fun g => (g.1, min g.2.1 n, g.2.2) }

/-- The chunks a queued request asks for: the sum over its threads (04 R113). -/
def State.askChunks (s : State) (b n : Nat) (ts : List Nat) : Nat :=
  ts.foldl (fun a t => a + (n - ((s.thread? b t).map Thread.regs).getD n) / 64) 0

/-- Grant a request: registers zeroed, and the threads re-enter the Erg after their GROW (04 R110). -/
def State.grantGrow (s : State) (b n : Nat) (ts : List Nat) : State :=
  ts.foldl (fun s t => s.modThread b t fun th => { th.growTo n with
    status := match th.status with
      | .parked (.grow _) => .ready false
      | x => x
    arrival := s.cycle, octet := false }) s

/-- Take chunks for a request: from the pool when `pool`, else from the block's unused reserve (04 R110). -/
def State.takeChunks (s : State) (b n : Nat) (pool : Bool) : Option State :=
  match s.blocks[b]? with
  | some k =>
    if pool && decide (n ≤ ((s.cores[k.core]?.map (·.free)).getD 0)) then
      some (s.modCore k.core fun c => { c with free := c.free - n })
    else if n ≤ k.reserve then some (s.modBlock b fun k => { k with reserve := k.reserve - n })
    else none
  | none => none

/-- The order in which requests are served: by cycle, then by logical block (log 72), then by TID (04 R110). -/
def GrowReq.before (x y : GrowReq) : Bool :=
  decide (x.cycle < y.cycle) || (x.cycle == y.cycle && (decide (x.ticket < y.ticket) || (x.ticket == y.ticket &&
    (decide (x.blk < y.blk) || (x.blk == y.blk && decide (x.tids.headD 0 < y.tids.headD 0))))))
/-- Queue a request in its place. -/
def insertGrow (r : GrowReq) : List GrowReq → List GrowReq
  | [] => [r]
  | x :: xs => if r.before x then r :: x :: xs else x :: insertGrow r xs

/-- The block has halted for good: its registers are frozen (04 R126, 08 R232). -/
def Block.dead (k : Block) : Bool := (k.halt.map fun h => !h.debug).getD false

/-- Retry a core's queued GROW requests in order: the first may take from the pool, any may take from its block's reserve
(04 R110). A fatally halted block is granted nothing any more (04 R126). -/
def State.serveGrow (s : State) (c : Nat) : List GrowReq → Bool → List GrowReq → State
  | [], _, kept => s.modCore c fun k => { k with growq := kept.reverse }
  | r :: rest, first, kept =>
    if ((s.blocks[r.blk]?).map Block.dead).getD true then s.serveGrow c rest first kept
    else match s.takeChunks r.blk (s.askChunks r.blk r.n r.tids) first with
      | some s' => (s'.grantGrow r.blk r.n r.tids).serveGrow c rest first kept
      | none => s.serveGrow c rest false (r :: kept)

/-- Chunks were freed: the queued requests of the core are retried (04 R110). -/
def State.retryGrow (s : State) (c : Nat) : State :=
  match s.cores[c]? with
  | some k => s.serveGrow c k.growq true []
  | none => s

/-! ### Chunks that returns in flight name (04 R122) -/

/-- A part of a request or return names a withheld chunk. -/
def Part.names (p : Part) (x : HeldChunk) : Bool :=
  p.tid == x.tid && p.grant == x.tag && (p.dst.any fun d => d / 64 == x.chunk)
/-- A return in flight still names a withheld chunk. -/
def State.chunkNamed (s : State) (x : HeldChunk) : Bool :=
  s.homes.reqs.any (fun r => r.blk == x.blk && r.parts.any fun p => p.names x) ||
  s.homes.rets.any fun r => r.blk == x.blk && r.load && r.part.names x
/-- Returns have ended: the withheld chunks of a core that none names any more rejoin the pool, those of a block that is still
there by way of its reserve (04 R111, R122). -/
def State.releaseHeld (s : State) (c : Nat) : State :=
  let held := (s.cores[c]?.map (·.held)).getD []
  let out := held.filter fun x => !s.chunkNamed x
  if out.isEmpty then s
  else
    let s := s.modCore c fun k => { k with held := held.filter s.chunkNamed }
    (out.foldl (fun (s : State) x => match s.resident? x.blk with
      | some _ => s.freeChunks x.blk 1
      | none => s.modCore c fun k => { k with free := k.free + 1, grew := s.cycle }) s).retryGrow c

/-- The chunks above a register count that returns in flight name by the tags now in force: they stay out of the pool (04 R122). -/
def State.heldChunks (s : State) (b tid n : Nat) : List HeldChunk :=
  let tag := fun (d : Nat) => (s.thread? b tid).bind (·.grantTag d)
  let of := fun (p : Part) => match p.dst with
    | some d => if p.tid == tid && decide (n ≤ d) && decide (d < ((s.thread? b tid).map Thread.regs).getD 0) && p.grant == tag d then [(⟨b, tid, d / 64, p.grant⟩ : HeldChunk)] else []
    | none => []
  (((s.homes.reqs.filter fun r => r.blk == b).flatMap fun r => r.parts.flatMap of) ++
    (s.homes.rets.filter fun r => r.blk == b && r.load).flatMap fun r => of r.part).eraseDups
/-- A return in flight for an extended chunk of a thread carries a tag. -/
def State.tagInFlight (s : State) (b tid : Nat) (x : BitVec 4) : Bool :=
  (s.homes.reqs.any fun r => r.blk == b && r.parts.any fun p => p.tid == tid && p.grant == some x) ||
  s.homes.rets.any fun r => r.blk == b && r.load && r.part.tid == tid && r.part.grant == some x
/-- The next value of a grant tag that no return in flight carries, and no grant that the thread still holds; none while every value
is taken (04 R119, R122). -/
def State.nextGrant (s : State) (b tid : Nat) (t : Thread) (n : Nat) : Option (BitVec 4) :=
  ((List.range 15).map fun i => t.grant + 1 + BitVec.ofNat 4 i).find? fun x =>
    !(s.tagInFlight b tid x || t.grants.any fun g => decide (g.1 < n) && g.2.2 == x)

/-! ### Replay regions (08 R210–R214) -/

/-- The request by which a buffered store leaves the core, with its tags; or its page is not present, or not allowed, or its walk
waits, for a place at the walker or for an entry of another package's table. -/
inductive Leave where
  | req (r : Req) | absent | fatal (code : Nat) | wait (ea : Option Nat)
  deriving DecidableEq, Repr

/-- How a buffered store leaves at its region's commit (08 R213): to the scratchpad window or the line of memory that it names then. -/
def State.leaveTo (s : State) (b tid : Nat) (k : Block) (t : Thread) (x : BufStore) (id : Nat) : Leave :=
  let n := x.size.bytes
  let part : Part := ⟨tid, t.slotTag, none, t.region, id, t.rpc, x.addr, x.addr % 128, n, none, x.data, 0, 0, 0, t.epoch⟩
  let req := fun (line : Nat) (sp : Option Nat) (code : Bool) (p : Part) =>
    Leave.req ⟨id, b, k.core, s.cycle, .store, line, sp, x.path, x.evict, .rlx, .thread, code, 0, true, [p]⟩
  if x.sts || x.path == .spad then
    match (if x.sts then s.spadTarget b x.addr n else s.ownSpad b x.addr n) with
    | some (o, off) => req (off / 128) (some o) false { part with off := off % 128 }
    | none => .fatal Code.spadBounds
  else
    let go := fun (r : Xlate) => match r with
      | .ok pa code => req (pa / 128) none code { part with off := pa % 128 }
      | .prot => .fatal Code.protFault
      | .lost => .fatal Code.linkLost
      | .wait ea => .wait (some ea)
      | _ => .absent
    if s.walkFull (some k.core) (s.ctxOf k) x.addr then .wait none else go (s.xlateAt (some k.core) (s.ctxOf k) x.addr .write)

/-- The requests of a list of buffered stores in program order, or the first that cannot leave. -/
def State.leaveAll (s : State) (b tid : Nat) (k : Block) (t : Thread) : List BufStore → Nat → List Req → List Req × Option (Leave × Nat)
  | [], _, acc => (acc, none)
  | x :: xs, id, acc => match s.leaveTo b tid k t x id with
    | .req r => s.leaveAll b tid k t xs (id + 1) (acc ++ [r])
    | l => (acc, some (l, x.addr))

/-- Abort the open region: its stores, pending flags and loads in flight are given up, with their counts (08 R213). -/
def State.abortRegion (s : State) (b tid : Nat) : State :=
  match s.thread? b tid with
  | none => s
  | some t =>
    let mine := fun (p : Part) => p.tid == tid && p.region == t.region
    let loads := fun (r : Req) => r.blk == b && (r.op == .load || r.op == .ldro)
    let inReq := (s.homes.reqs.filter loads).foldl (fun n r => n + countp r.parts mine) 0
    let inRet := countp s.homes.rets fun r => r.blk == b && r.load && mine r.part
    let s := s.modHomes fun h => { h with
      reqs := (h.reqs.map fun r => if loads r then { r with parts := r.parts.filter (fun p => !mine p) } else r).filter
        fun r => !r.parts.isEmpty || match r.op with
          | .pref _ => true
          | _ => false
      rets := h.rets.filter fun r => !(r.blk == b && r.load && mine r.part) }
    (s.modThread b tid fun t => { t with
      stores := [], pend := 0, cntLd := t.cntLd - (inReq + inRet), cntSt := t.cntSt - t.stores.length, region := t.region + 1
      }).releaseHeld (((s.blocks[b]?).map (·.core)).getD 0)

/-- Where a faulting thread's region begins again: at the instruction itself for a singleton (08 R211, R214). A region that began
where UTRET sent its lane alone begins again so (08 R224). -/
def Thread.toReplay (t : Thread) : Thread :=
  { t with pc := if t.opening then t.pc else t.rpc, rpc := if t.opening then t.pc else t.rpc, opening := false, held := false
           alone := if t.opening then t.alone else t.ralone, ralone := if t.opening then t.alone else t.ralone }
/-- A page fault of a thread's access: its region aborts, it parks awaiting replay at the region's first instruction (at the
instruction itself for a singleton, 08 R211), and the record goes to the fault-address queue (08 R214). -/
def State.pageFault (s : State) (b tid va : Nat) (a : Acc) : State :=
  let s := s.abortRegion b tid
  (s.modThread b tid fun t => { t.toReplay with status := .parked (.replay va) }).faultRecord b 0 tid va a

/-- The TLB after the stores of a region have left: each one's page is held (09 R259; log 47). -/
def State.leaveTouch (s : State) (k : Block) (xs : List BufStore) : State :=
  xs.foldl (fun (s : State) x => if !x.sts && x.path != .spad && s.xlateTlb k.core (s.ctxOf k) x.addr .write == .miss
    then s.tlbTouch (some k.core) (s.ctxOf k) x.addr else s) s
/-- Commit a thread's open region: its stores leave in program order, its pending flags join FLAGS, its counts are final
(08 R212, R213). The answer is false where a store's page is no longer present, which aborts the region (log 13), or the
store is no longer allowed, which halts the block. -/
def State.commitRegion (s : State) (b tid : Nat) (pc : DWord) : State × Bool :=
  match s.blocks[b]?, s.thread? b tid with
  | some k, some t =>
    match s.leaveAll b tid k t t.stores s.homes.nextId [] with
    | (rs, none) =>
      ((((s.leaveTouch k t.stores).modHomes fun h => { h with reqs := h.reqs ++ rs, nextId := h.nextId + rs.length }).modThread b tid fun t => { t with
        stores := [], flags := t.flags ||| (t.pend.setWidth 32), pend := 0, region := t.region + 1, opening := true }), true)
    | (_, some (.fatal c, va)) => (s.haltAt b tid c pc (BitVec.ofNat 64 va), false)
    | (_, some (_, va)) => (s.pageFault b tid va .write, false)
  | _, _ => (s, false)

/-- A store request that has left the core in this cycle for the line that `r` names. -/
def State.leftNow (s : State) (core : Nat) (r : Req) : Bool :=
  s.homes.reqs.any fun q => q.op == .store && q.order == .rlx && q.core == core && q.batch == s.cycle && q.spadBlk == r.spadBlk &&
    s.homeLine q.line == s.homeLine r.line
/-- What a commit of a thread's stores still waits for: its walks (09 R259), or another bundle's stores to the same line, which have
left in this cycle, so that stores that leave in one cycle are those of one instruction (10 R273; log 47). -/
def State.storeHeld (s : State) (b : Nat) (k : Block) (tid : Nat) : Option (Option Nat) :=
  k.threads[tid]?.bind fun t => t.stores.findSome? fun x => match s.leaveTo b tid k t x 0 with
    | .wait ea => some ea
    | .req r => if s.leftNow k.core r then some none else none
    | _ => none

/-- A store leaves after those of a list: in the request of the last of them to its line, where that one is of its kind, else in one
of its own. -/
def joinStore (l : List Req) (r : Req) : List Req :=
  match l.reverse.find? fun x => x.line == r.line && x.spadBlk == r.spadBlk with
  | some x => if x.path == r.path && x.evict == r.evict && x.code == r.code then
      l.map fun y => if y.id == x.id then { y with parts := y.parts ++ r.parts } else y else l ++ [r]
  | none => l ++ [r]
/-- The stores that several lanes have just committed leave by line, in the order of the lanes and for each in program order (08 R212,
09 R259, 10 R273; log 47). `first` is the first new number. -/
def State.coalesce (s : State) (first : Nat) : State :=
  s.modHomes fun h => { h with
    reqs := h.reqs.filter (fun r => decide (r.id < first)) ++ (h.reqs.filter fun r => decide (first ≤ r.id)).foldl joinStore [] }
/-- Commit the open regions of several lanes. -/
def State.commitAll (s : State) (b : Nat) (lanes : List Nat) (pc : DWord) : State :=
  let t := lanes.foldl (fun (s : State) t => (s.commitRegion b t pc).1) s
  if lanes.length ≤ 1 then t else t.coalesce s.homes.nextId

/-- Move a thread to a PC, opening the region that begins there if one is due (08 R210). A held lane's next region begins in its
handler (07 R201). -/
def Thread.goto (t : Thread) (pc : DWord) : Thread :=
  { t with
    pc := pc, rpc := if t.opening && !t.held then pc else t.rpc, region := if t.opening && !t.held then t.region + 1 else t.region
    ralone := if t.opening && !t.held then t.alone else t.ralone, opening := t.opening && t.held, acted := false }
/-- A parked thread's own condition is met: it re-enters the Erg, or, parked with its octet, waits for the octet's others (01 R42). -/
def Thread.wakeUp (t : Thread) (cycle : Nat) : Thread :=
  if t.octet then { t with status := .parked .meet } else { t with status := .ready false, arrival := cycle }

/-! ### Parking and waking (01 R44, 12 R328, 16 R442) -/

/-- Park a thread at a PC. -/
def State.park (s : State) (b tid : Nat) (pc : DWord) (p : Park) : State :=
  s.modThread b tid fun t => { t.goto pc with status := .parked p }

/-- A write of the thread has not been acknowledged, which holds back its releases (09 R246, 11 R300). Buffered stores of
the open region are not counted here: a release commits it first. -/
def State.writesPending (s : State) (b tid : Nat) : Bool :=
  match s.thread? b tid with
  | some t => decide (t.stores.length < t.cntSt) || s.homes.reqs.any fun r => r.blk == b && r.parts.any (fun p => p.tid == tid) &&
      (match r.op with
        | .atomic _ => true
        | _ => false)
  | none => false

/-- Wake every thread of a block whose park satisfies a test; it re-enters the Erg (01 R39). -/
def State.wake (s : State) (b : Nat) (f : Park → Bool) : State :=
  s.modThreads b fun t => match t.status with
    | .parked p => if f p then { t with status := .ready false, arrival := s.cycle, octet := false } else t
    | _ => t

/-- A change of a queue's state wakes every lane parked on it (12 R328). -/
def State.wakeQueue (s : State) (b q : Nat) : State := s.wake b fun p => p == .queue q

/-- The arrivals an open phase needs are in (16 R441, R442). -/
def Block.arrivalsIn (k : Block) (i : Nat) : Bool :=
  match k.bars[i]? with
  | some x => match x.expected with
    | some n => decide (n ≤ x.arrived)
    | none => k.threads.all fun t => !t.live || t.arrb.getLsbD i
  | none => false

/-- Test a barrier after an event that touches it: the phase completes when its arrivals are in and PENDING is 0 (16 R442). -/
def State.testBarrier (s : State) (b i : Nat) : State :=
  match s.blocks[b]? with
  | some k => match k.bars[i]? with
    | some x =>
      if k.arrivalsIn i && x.pending == 0 then
        let p := x.phase
        let s := s.modBlock b fun k => { k with
          bars := upd k.bars i fun x => { x with arrived := 0, phase := !x.phase }
          seqArr := k.seqArr &&& ~~~ BitVec.ofNat 16 (2 ^ i)
          threads := k.threads.map fun t => { t with arrb := t.arrb &&& ~~~ BitVec.ofNat 16 (2 ^ i) }
          seq := if k.seq.wait == .barrier i p then { k.seq with wait := .none } else k.seq }
        s.wake b fun q => q == .barrier i p
      else s
    | none => s
  | none => s

/-- A completion subtracts bytes from a barrier's PENDING, and the barrier is tested (16 R442). -/
def State.subPending (s : State) (b i bytes : Nat) : State :=
  (s.modBlock b fun k => { k with bars := upd k.bars i fun x => { x with pending := x.pending - BitVec.ofNat 64 bytes } }).testBarrier b i

/-! ### The end of a thread instruction (01 R39, 02 R51, R52) -/

/-- Where a lane goes at the end of its clause: a header that a transfer names, or a PC already checked (UTRET, 08 R223). -/
inductive Goto where
  | hdr (a : DWord) | at (pc : DWord) (inside : Bool)
  deriving DecidableEq, Repr

/-- The header after a bundle's clause. -/
def Bundle.after (bd : Bundle) : DWord := bd.hdr + BitVec.ofNat 64 (8 * (bd.last + 1))

/-- The PC of the next instruction of a lane that falls through: inside the clause, or the first of the next clause. -/
def Bundle.next (bd : Bundle) : DWord :=
  if bd.idx < bd.last then bd.hdr + BitVec.ofNat 64 (8 * (bd.idx + 1)) else bd.after + 8

/-- A PC is that of an instruction of the bundle's clause. -/
def Bundle.holds (bd : Bundle) (pc : DWord) : Bool :=
  decide (bd.hdr.toNat < pc.toNat) && decide (pc.toNat ≤ bd.hdr.toNat + 8 * bd.last)
/-- A lane that leaves its clause stands ready at a PC, not held; `inside` says that the PC lies inside a clause (08 R224). -/
def Thread.enter (t : Thread) (pc : DWord) (cycle : Nat) (yield inside : Bool) : Thread :=
  { { t with held := false, alone := inside }.goto pc with
    status := .ready false, arrival := cycle, late := yield || t.late, unchecked := inside }
/-- The first instruction of the clause in which a held lane trapped. -/
def State.trapClause (s : State) (k : Block) (t : Thread) : DWord := ((s.clauseOf k true t.uepc).map fun x => x.1 + 8).getD t.uepc
/-- A lane leaves its clause for a header or a checked PC; a held lane goes to its handler at the end of the clause in which it
trapped, and elsewhere waits for its octet to reach that clause (07 R201). A bad header is the answer with its address. -/
def State.leaveClause (s : State) (bd : Bundle) (k : Block) (tid : Nat) (g : Option Goto) : State ⊕ DWord :=
  let enter := fun (pc : DWord) (inside : Bool) => s.modThread bd.blk tid (·.enter pc s.cycle bd.yield inside)
  let toHdr := fun (a : DWord) => if s.targetOk k true a then .inl (enter (a + 8) false) else .inr a
  match s.thread? bd.blk tid with
  | some t =>
    if t.held then
      if bd.holds t.uepc then toHdr t.utvec
      else .inl (s.modThread bd.blk tid fun t => { t with pc := s.trapClause k t, status := .ready false, arrival := s.cycle })
    else match g with
      | some (.at pc inside) => .inl (enter pc inside)
      | some (.hdr a) => toHdr a
      | none => toHdr bd.after
  | none => .inl s

/-- Every lane still in the bundle leaves its clause; the lowest lane with a bad target halts the block (02 R52, R91). -/
def State.leaveLanes (s : State) (bd : Bundle) (k : Block) (gs : Nat → Option Goto) : List Nat → State × Option (Nat × DWord)
  | [] => (s, none)
  | t :: ts => match s.leaveClause bd k t (gs t) with
    | .inl s' => s'.leaveLanes bd k gs ts
    | .inr a =>
      let r := (s.modThread bd.blk t fun th => { th with status := .ready false }).leaveLanes bd k gs ts
      (r.1, some (t, a))

/-- The lanes of a bundle that are still in it. -/
def State.lanesIn (s : State) (bd : Bundle) : List Nat :=
  bd.lanes.filter fun t => ((s.thread? bd.blk t).map (·.status)) == some .issued

/-- Drop a bundle and its room in the fast file (04 R116). -/
def State.dropBundle (s : State) (bd : Bundle) (core : Nat) : State :=
  { s with bundles := s.bundles.filter (fun b => b.id != bd.id) }.modCore core fun c => { c with fast := c.fast - bd.ws }

/-- An instruction completed after a halt's broadcast counts as skid (08 R231). -/
def Thread.skidOne (t : Thread) : Thread := { t with skid := min 64 (t.skid + 1) }

/-- The first lane of a bundle that has parked by itself, or waits at EXIT (08 R205): its PC, and whether it awaits replay. -/
def State.octetPark (s : State) (bd : Bundle) : Option (DWord × Bool) :=
  (bd.lanes.filterMap fun t => (s.thread? bd.blk t).bind fun th =>
    match th.status with
    | .parked .meet => none
    | .parked (.replay _) => some (th.pc, true)
    | .parked _ | .exiting => some (th.pc, false)
    | _ => none)[0]?

/-- The lanes of a meet bundle have parked, each with its own condition or for the others: they wake as one octet (01 R42). -/
def State.joinPark (s : State) (bd : Bundle) : State :=
  bd.lanes.foldl (fun s t => s.modThread bd.blk t fun th => { th with octet := th.parked }) s

/-- Lanes of a meet bundle park with their octet at a PC (01 R42); `did` says that they have completed the instruction there. -/
def State.parkOctet (s : State) (bd : Bundle) (lanes : List Nat) (pc : DWord) (did : Bool) : State :=
  (lanes.foldl (fun s t => s.modThread bd.blk t fun th =>
    { th.goto pc with status := .parked .meet, acted := th.acted || did }) s).joinPark bd

/-- A replayable fault struck a lane of a meet bundle: the others abort their regions and replay with it (01 R42). One that has
trapped in the clause goes on supplying its operands (07 R201). -/
def State.replayOctet (s : State) (bd : Bundle) (lanes : List Nat) (pc : DWord) : State :=
  (lanes.foldl (fun s t => (s.abortRegion bd.blk t).modThread bd.blk t fun th =>
    if th.held then { th with pc := pc, status := .parked .meet } else { th.toReplay with status := .parked .meet }) s).joinPark bd

/-- Lanes of a meet bundle that parked and were woken within their instruction, as by the last arrival at a barrier, go on with
their octet (01 R42). -/
def State.rejoin (s : State) (bd : Bundle) : State :=
  bd.lanes.foldl (fun s t => s.modThread bd.blk t fun th =>
    if th.status == .ready false && th.pc == bd.next then { th with status := .issued } else th) s

/-- A lane's target at the end of its clause fails the check of 02 R52. The instruction that transfers is a held lane's trapping
one (08 R219; log 79); where a lane falls through, the record names the clause's last instruction (log 88). -/
def State.badTarget (s : State) (bd : Bundle) (tid : Nat) (a : DWord) : State :=
  match s.thread? bd.blk tid with
  | some t => if t.held then s.haltAt bd.blk tid Code.illegalTarget t.uepc a else s.haltLane bd tid Code.illegalTarget a
  | none => s

/-- The lanes that completed an instruction go on: to the next one of the clause, or at its end each to its own target. -/
def State.goOn (s : State) (bd : Bundle) (k : Block) (gs : Nat → Option Goto) (stay : List Nat) : State :=
  if stay.isEmpty then s.dropBundle bd k.core
  else if bd.idx < bd.last then
    (stay.foldl (fun s t => s.modThread bd.blk t (·.goto bd.next)) s).modBundle bd.id fun b => { b with idx := bd.idx + 1, lanes := stay }
  else
    match (s.dropBundle bd k.core).leaveLanes bd k gs stay with
    | (s, none) => s
    | (s, some (t, a)) => s.badTarget bd t a

/-- End an instruction of a bundle (01 R39). Lanes that parked or trapped have left it. In a meet bundle, when any lane
parked, the rest park with it (01 R42); `did` is false where they have not acted yet. Otherwise the bundle goes to its next
instruction, or at the end of the clause each lane leaves for its own target (log 48). -/
def State.endOf (s : State) (bd : Bundle) (did : Bool) (gs : Nat → Option Goto) : State :=
  match s.blocks[bd.blk]? with
  | none => s
  | some k =>
    let stay := s.lanesIn bd
    let s := if k.halt.isSome && did then stay.foldl (fun s t => s.modThread bd.blk t Thread.skidOne) s else s
    if !bd.meet then s.goOn bd k gs stay
    else
      let s := s.rejoin bd
      match s.octetPark bd with
      | some (pc, true) => (s.replayOctet bd (s.lanesIn bd) pc).dropBundle bd k.core
      | some (pc, false) => (s.parkOctet bd (s.lanesIn bd) pc (did && pc == bd.pc)).dropBundle bd k.core
      | none => s.goOn bd k gs (s.lanesIn bd)

/-- A fetch failed in the middle of a clause: no lane has completed anything. Lanes whose page is absent have left the bundle, a meet
bundle replays together (01 R42), and the others stay at the instruction. -/
def State.endFetch (s : State) (bd : Bundle) : State :=
  match s.blocks[bd.blk]?, (if bd.meet then s.octetPark bd else none) with
  | none, _ => s
  | some k, some (pc, _) => (s.replayOctet bd (s.lanesIn bd) pc).dropBundle bd k.core
  | some k, none =>
    let stay := s.lanesIn bd
    if stay.isEmpty then s.dropBundle bd k.core else s.modBundle bd.id fun b => { b with lanes := stay }

/-- End an instruction whose lanes that did not park have completed it. -/
def State.endInstr (s : State) (bd : Bundle) (gs : Nat → Option Goto) : State := s.endOf bd true gs

/-- End an instruction that transfers nothing. -/
def State.endPlain (s : State) (bd : Bundle) : State := s.endInstr bd fun _ => none

/-- Park a thread that has completed its instruction, at the next one; a bad next clause halts the block (02 R52). -/
def State.parkAfter (s : State) (bd : Bundle) (tid : Nat) (p : Park) : State :=
  match s.blocks[bd.blk]? with
  | some k =>
    if bd.idx < bd.last || s.targetOk k true bd.after then
      (s.park bd.blk tid bd.next p).modThread bd.blk tid fun t =>
        { (if k.halt.isSome then t.skidOne else t) with alone := t.alone && decide (bd.idx < bd.last) }
    else s.haltLane bd tid Code.illegalTarget bd.after
  | none => s

/-- Let each listed lane that is still in the bundle act, in order (10 R273, 12 R324). -/
def State.eachLane (s : State) (bd : Bundle) (f : State → Nat → State) : List Nat → State
  | [] => s
  | t :: ts =>
    match s.thread? bd.blk t with
    | some th =>
      if th.status == .issued then (f s t).eachLane bd f ts
      else s.eachLane bd f ts
    | none => s.eachLane bd f ts

/-- The lanes of a bundle in ascending home-lane order. -/
def Bundle.order (bd : Bundle) : List Nat := (List.range 8).filterMap fun i => bd.lanes.find? fun t => t % 8 == i

/-- A replayable fault has struck a lane of a meet bundle: the whole octet will replay (01 R42). -/
def State.struck (s : State) (bd : Bundle) : Bool :=
  bd.meet && bd.lanes.any fun t => (s.thread? bd.blk t).any fun th => match th.status with
    | .parked (.replay _) => true
    | _ => false

/-- The lanes that take effect, in ascending home-lane order (02 R62); a lane that left the bundle does not, and none does once the
octet of a meet bundle has to replay (01 R42, 12 R329). -/
def State.active (s : State) (bd : Bundle) (g : Guard) : List Nat :=
  if s.struck bd then []
  else bd.order.filter fun t => match s.thread? bd.blk t with
    | some th => th.status == .issued && th.acts g
    | none => false

/-- A singleton commits the open region of every lane that acts (08 R210, R212). -/
def State.commitLanes (s : State) (bd : Bundle) (g : Guard) : State :=
  s.commitAll bd.blk (s.active bd g) bd.pc

/-! ### User traps (08 R218–R224) -/

/-- Which enabled flags an instruction raised: NV, DZ and OF against TENV, TEDZ and TEOF (07 R200). -/
def trapCause (raised : BitVec 5) (flags : Word) : Nat :=
  b2n (raised.getLsbD 4 && flags.getLsbD 10) + 2 * b2n (raised.getLsbD 3 && flags.getLsbD 9)
    + 4 * b2n (raised.getLsbD 2 && flags.getLsbD 8)

/-- What UDST and UCAUSE say of an instruction's destination (08 R220). -/
structure TrapDst where
  udst : Nat
  pdst : Bool
  words : Nat
  deriving DecidableEq, Repr

/-- Take a user trap for a lane: commit its region at the instruction, save the PC and the cause, clear the enables, and go
to UTVEC at once, or at the end of the clause in a meet bundle (08 R219, 07 R200, R201). -/
def State.userTrap (s : State) (bd : Bundle) (tid : Nat) (raised : BitVec 5) (d : TrapDst) : State :=
  match s.blocks[bd.blk]?, s.thread? bd.blk tid with
  | some k, some t =>
    if t.utvec = 0 then s.haltLane bd tid Code.fpTrap 0
    else
      let (s, ok) := (s.modThread bd.blk tid fun t => { t with pend := t.pend ||| raised }).commitRegion bd.blk tid bd.pc
      if !ok then s
      else
        let o := s.origin k true bd.pc
        let mask := bd.lanes.foldl (fun m l => m ||| BitVec.ofNat 8 (2 ^ (l % 8))) 0
        let te := t.flags.toNat / 256 % 8
        let cause := 0x40 + 256 * trapCause raised t.flags + 2 ^ 12 * b2n d.pdst + 2 ^ 13 * b2n (d.words == 2)
          + 2 ^ 14 * b2n (d.words == 4) + 2 ^ 16 * te
        let s := s.modThread bd.blk tid fun t => { t with
          uepc := bd.pc, uepco := o.1, uspecit := BitVec.ofNat 32 o.2, ucause := BitVec.ofNat 32 cause
          ulanes := mask, udst := BitVec.ofNat 32 d.udst, intrap := true, flags := t.flags &&& ~~~ 0x700 }
        if bd.meet then s.modThread bd.blk tid fun t => { t with held := true }
        else if s.targetOk k true t.utvec then
          s.modThread bd.blk tid fun t => { { t with alone := false }.goto (t.utvec + 8) with status := .ready false, arrival := s.cycle, unchecked := false }
        else s.haltLane bd tid Code.illegalTarget t.utvec
  | _, _ => s

/-- Return from a user trap: restore the enables, leave the handler, and find the resume point in the clause map (08 R223).
The answer is where the thread goes, or a fault code with its address. -/
def State.trapReturn (s : State) (bd : Bundle) (tid : Nat) (retry : Bool) : State × (Goto ⊕ (Nat × DWord)) :=
  match s.blocks[bd.blk]?, s.thread? bd.blk tid with
  | some k, some t =>
    if !t.intrap then (s, .inr (Code.utretNoTrap, 0))
    else
      let te := t.ucause.toNat / 2 ^ 16 % 8
      let s := s.modThread bd.blk tid fun t => { t with
        flags := (t.flags &&& ~~~ 0x700) ||| BitVec.ofNat 32 (te * 256), intrap := false }
      match s.clauseOf k true t.uepc with
      | none => (s, .inr (Code.illegalTarget, t.uepc))
      | some (h, n) =>
        if retry then (s, .inl (.at t.uepc true))
        else if t.uepc == h + BitVec.ofNat 64 (8 * n) then (s, .inl (.hdr (h + BitVec.ofNat 64 (8 * (n + 1)))))
        else (s, .inl (.at (t.uepc + 8) true))
  | _, _ => (s, .inr (Code.utretNoTrap, 0))

/-! ### The uniform sequencer (14 R391, R396) -/

def State.modSeq (s : State) (b : Nat) (f : Seq → Seq) : State := s.modBlock b fun k => { k with seq := f k.seq }

/-- The header after the sequencer's clause. -/
def Seq.after (q : Seq) : DWord := q.hdr + BitVec.ofNat 64 (8 * (q.last + 1))

/-- Send the sequencer to a header, checked under 02 R52. -/
def State.seqGoto (s : State) (b : Nat) (a : DWord) : State :=
  match s.blocks[b]? with
  | some k =>
    if s.targetOk k false a then s.modSeq b fun q => { q with hdr := a, idx := 0, last := 0, wait := .none }
    else s.haltSeq b Code.illegalTarget a
  | none => s

/-- End an instruction of the sequencer that transfers nothing. -/
def State.seqNext (s : State) (b : Nat) : State :=
  match s.blocks[b]? with
  | some k =>
    if k.seq.idx < k.seq.last then s.modSeq b fun q => { q with idx := q.idx + 1, wait := .none }
    else s.seqGoto b k.seq.after
  | none => s

/-- The sequencer meets a thread-stream instruction, or a thread a uniform one (01 R32). -/
def State.illegalStream (s : State) : State :=
  match s.cur with
  | .none => s
  | .bundle _ => match s.curBundle with
    | some bd => (bd.order.foldl (fun s t => s.haltLane bd t Code.illegalStream 0) s).dissolve bd
    | none => s
  | .sequencer b => s.haltSeq b Code.illegalStream 0

/-- A thread-stream instruction: `f` on the bundle that executes it (01 R32). -/
def State.onBundle (s : State) (f : Bundle → State) : State :=
  match s.curBundle with
  | some bd => f bd
  | none => s.illegalStream

/-- A uniform-stream instruction with its guard: false has no effect and the sequencer goes on (02 R63). -/
def State.onSeq (s : State) (g : Guard) (f : Nat → Block → State) : State :=
  match s.curSeq with
  | some b => match s.resident? b with
    | some k => if g.val = 0 || k.kreg g.val != 0 then f b k else s.seqNext b
    | none => s
  | none => s.illegalStream

end Sys2Proof.Machine
end

