-- ==== Sys2Proof/Machine/Flags.lean ====
section
/-! DEFINITION. The exception flags of floating-point results (spec/04 R125, spec/07 R199) and the comparisons that write
predicates (spec/05 R143, spec/07 R187). -/

namespace Sys2Proof.Machine

/-- A set of raised flags, in the order of FLAGS [4:0]: NV, DZ, OF, UF, NX. -/
abbrev Raised := BitVec 5
def Raised.none : Raised := 0
def Raised.nx : Raised := 1
def Raised.uf : Raised := 2
def Raised.of : Raised := 4
def Raised.dz : Raised := 8
def Raised.nv : Raised := 16

/-- The integer comparisons of 05 R143 and 14 R393 on `w`-bit patterns. -/
def cmpInt (w : Nat) (c : Cmp) (a b : Nat) : Bool :=
  match c with
  | .eq => a == b
  | .ne => a != b
  | .lt => decide (sval w a < sval w b)
  | .le => decide (sval w a ≤ sval w b)
  | .gt => decide (sval w b < sval w a)
  | .ge => decide (sval w b ≤ sval w a)
  | .ltu => decide (a < b)
  | .leu => decide (a ≤ b)
  | .gtu => decide (b < a)
  | .geu => decide (b ≤ a)

end Sys2Proof.Machine
end

