-- ==== Sys2Proof/Machine/Operands.lean ====
section
/-! DEFINITION. Operands of vector instructions: V registers with lane patterns, K halves, queues, predicates; register
bounds; what each lane reads and writes (spec/02 R62–R71, spec/04 R108, spec/05 R146, spec/07 R199–R201, spec/12 R323–R329). -/

namespace Sys2Proof.Machine

/-! ### Queues of a block (12 R320–R330) -/

/-- Bytes of an element by WIDTH code (12 R320). -/
def widthBytes (w : Nat) : Nat := 4 * 2 ^ w
/-- Bytes of an entry (12 R320). -/
def Carve.esz (c : Carve) : Nat := if c.row then 8 * widthBytes c.width else widthBytes c.width
/-- Elements of an entry. -/
def Carve.elems (c : Carve) : Nat := if c.row then 8 else 1
def Carve.zero (tag : BitVec 4) : Carve := ⟨false, 0, 0, 0, 0, false, 0, false, 0, 0, tag⟩
/-- EOS: closed and empty (12 R327). -/
def Carve.eos (c : Carve) : Bool := c.closed && c.count == 0
def Block.queue (k : Block) (q : Nat) : Carve := k.queues.getD q (Carve.zero 0)
def Block.modQ (k : Block) (q : Nat) (f : Carve → Carve) : Block := { k with queues := upd k.queues q f }
/-- The window offset of entry `i` in FIFO order (12 R323). -/
def Carve.at (c : Carve) (i : Nat) : Nat := c.offset + (c.head + i) % c.cap * c.esz

/-- Pop one entry: its elements; a closed, empty queue gives zeros and pops nothing (12 R327). -/
def Block.pop (k : Block) (q : Nat) : Block × List Nat :=
  let c := k.queue q
  if c.count = 0 then (k, List.replicate c.elems 0)
  else
    (k.modQ q fun c => { c with head := (c.head + 1) % c.cap, count := c.count - 1, pops := c.pops + 1 },
     (List.range c.elems).map fun j => Memory.read k.spad (c.at 0 + j * widthBytes c.width) (widthBytes c.width))

/-- Push one entry (12 R323). -/
def Block.push (k : Block) (q : Nat) (es : List Nat) : Block :=
  let c := k.queue q
  let bs := es.flatMap fun e => toBytes e (widthBytes c.width)
  (k.spadPut (c.at c.count) bs).modQ q fun c => { c with count := c.count + 1, pushes := c.pushes + 1 }

/-- Whether an entry can be pushed, and entries popped, now (12 R324, R327). -/
def Carve.canPop (c : Carve) (n : Nat) : Bool := c.closed || decide (n ≤ c.count)
def Carve.canPush (c : Carve) (pops n : Nat) : Bool := decide (n ≤ c.cap - c.count + pops)

/-! ### What an instruction names -/

/-- A destination: nothing, a register, pair or quad (or a queue, or VZ), one predicate, predicates under a mask, or a system
register. -/
inductive DstOp where
  | none | reg (d : Dst) (words : Nat) | pred (n : Nat) | preds | sys (n : Nat)
  deriving DecidableEq, Repr

/-- The operands of a vector instruction: sources with their width in registers, predicate sources, destination; `cross` for
SHUF, VOTE, REDOCT, MATCH (01 R40); `traps` unless 07 R200 excludes it. -/
structure VOp where
  guard : Guard
  srcs  : List (Src × Nat)
  preds : List PSrc
  dst   : DstOp
  cross : Bool
  traps : Bool
  deriving DecidableEq, Repr

/-- What a lane brings to an instruction after lane patterns (02 R67). -/
structure LaneIn where
  live  : Bool
  guard : Bool
  pred  : BitVec 8
  srcs  : List Nat
  preds : List Bool
  deriving DecidableEq, Repr

/-- What an instruction gives a lane: a value for its destination, predicates (value under a mask), raised flags, or a fatal
fault. -/
structure LaneOut where
  val   : Nat
  mask  : BitVec 8
  pv    : BitVec 8
  flags : Raised
  fault : Option Nat
  deriving DecidableEq, Repr

def LaneIn.none : LaneIn := ⟨false, false, 0, [], []⟩
def LaneIn.src (x : LaneIn) (n : Nat) : Nat := x.srcs.getD n 0
def LaneOut.word (v : Nat) : LaneOut := ⟨v, 0, 0, 0, .none⟩
def LaneOut.ofPred (n : Nat) (x : Bool) : LaneOut := ⟨0, BitVec.ofNat 8 (2 ^ n), if x then BitVec.ofNat 8 (2 ^ n) else 0, 0, .none⟩
def LaneOut.raise (o : LaneOut) (f : Raised) : LaneOut := { o with flags := f }

/-- Queues an instruction names, as sources (with width) and destination. -/
def VOp.popsOf (o : VOp) : List (Nat × Nat) := o.srcs.filterMap fun x =>
  match x.1 with
  | .q n => some (n.val, x.2)
  | _ => none
def VOp.pushOf (o : VOp) : Option (Nat × Nat) :=
  match o.dst with
  | .reg (.q n) w => some (n.val, w)
  | _ => none
def VOp.usesQ (o : VOp) : Bool := !o.popsOf.isEmpty || o.pushOf.isSome

/-- The source lane of lane `i` under a pattern (02 R67). -/
def patLane (p : Pat) (i : Nat) : Nat :=
  match p with
  | .ident => i
  | .rot1 => (i + 7) % 8
  | .rotn1 => (i + 1) % 8
  | .b0 => 0
  | .x1 => i ^^^ 1
  | .x2 => i ^^^ 2
  | .x4 => i ^^^ 4
  | .mir => 7 - i

def srcPat : Src → Pat
  | .v _ p => p
  | _ => .ident

/-- The instruction reads other lanes (01 R40). ROW-mode queues are found at run time (12 R326). -/
def VOp.meet (o : VOp) : Bool :=
  o.cross || o.srcs.any (fun x => srcPat x.1 != .ident) || o.preds.any (fun x => x.p != .ident)

/-- The last V index an operand names, plus 1 (04 R108). -/
def srcTop (x : Src) (words : Nat) : Nat :=
  match x with
  | .v n _ => n.val + words
  | _ => 0
def DstOp.bound : DstOp → Nat
  | .reg (.v n) w => n.val + w
  | _ => 0
/-- The registers an instruction needs. -/
def VOp.srcBound (o : VOp) : Nat := o.srcs.foldl (fun m x => max m (srcTop x.1 x.2)) 0

/-- A V or K source of one lane; a queue's value comes from its pop. -/
def srcRead (x : Src) (words : Nat) (k : Block) (t : Thread) : Nat :=
  match x with
  | .v n _ => t.regW n.val words
  | .k h => if words = 1 then (k.khalf h.val).toNat else (k.kreg (h.val / 2)).toNat
  | .q _ => 0

/-! ### Writing results -/

/-- The fields of FLAGS; the rest read zero (04 R125, 00 R15). -/
def flagsMask : Word := 0x71F
/-- A WRSR of one lane (04 R123, 08 R208). -/
def Thread.wrsr (t : Thread) (n v : Nat) : Thread :=
  match n with
  | 0x030 => { t with flags := BitVec.ofNat 32 v &&& flagsMask }
  | 0x031 => { t with utvec := BitVec.ofNat 64 v }
  | 0x032 => { t with uepc := BitVec.ofNat 64 v }
  | _ => t
/-- Write a lane's destination and predicates. -/
def Thread.put (t : Thread) (d : DstOp) (o : LaneOut) : Thread :=
  match d with
  | .reg (.v n) w => t.setRegW n.val w o.val
  | .sys n => t.wrsr n o.val
  | .pred _ | .preds => { t with pred := ((t.pred &&& ~~~ o.mask) ||| (o.pv &&& o.mask)) ||| 1 }
  | _ => t

/-- What UDST and UCAUSE say of a destination (08 R220). -/
def DstOp.trap : DstOp → TrapDst
  | .reg (.v n) w => ⟨n.val, false, w⟩
  | .reg (.q n) w => ⟨1536 + n.val, false, w⟩
  | .reg .vz w => ⟨2047, false, w⟩
  | .pred n => ⟨n, true, 1⟩
  | _ => ⟨0, false, 1⟩

/-- Apply an instruction's result to a lane: a fatal fault halts, an enabled flag traps, otherwise the flags join the pending
set and the destination is written (07 R199, R200). -/
def State.applyLane (s : State) (bd : Bundle) (o : VOp) (tid : Nat) (r : LaneOut) : State :=
  match s.thread? bd.blk tid with
  | none => s
  | some t =>
    match r.fault with
    | some c => s.haltLane bd tid c 0
    | none =>
      if o.traps && trapCause r.flags t.flags != 0 then s.userTrap bd tid r.flags o.dst.trap
      else s.modThread bd.blk tid fun t => { t.put o.dst r with pend := t.pend ||| r.flags }

/-! ### Lanes -/

/-- The lanes' own operands before patterns: for each home lane, its values, or nothing when it has exited or is missing. -/
def ownOps (bd : Bundle) (o : VOp) (k : Block) : List (Option (Thread × List Nat)) :=
  (List.range 8).map fun i => (bd.lanes.find? fun t => t % 8 == i).bind fun tid =>
    (k.threads[tid]?).map fun t => (t, o.srcs.map fun x => srcRead x.1 x.2 k t)

/-- Each lane's view after patterns: an absent lane supplies zero (02 R67, 05 R146). -/
def laneViews (own : List (Option (Thread × List Nat))) (o : VOp) : List LaneIn :=
  let at' := fun (i : Nat) => (own[i]?).join
  (List.range 8).map fun i => match at' i with
    | none => LaneIn.none
    | some (t, _) =>
      { live := true, guard := t.acts o.guard, pred := t.pred ||| 1
        srcs := (List.range o.srcs.length).map fun n =>
          match at' (((o.srcs[n]?).map fun x => patLane (srcPat x.1) i).getD i) with
          | some (_, vs) => vs.getD n 0
          | none => 0
        preds := o.preds.map fun p => match at' (patLane p.p i) with
          | some (u, _) => u.p p.n.val
          | none => false }

/-- Lanes that name a V index at or above their REGS: any live lane's sources in a meet instruction, otherwise the lanes that
act (04 R108). -/
def State.outOfBounds (s : State) (bd : Bundle) (o : VOp) : List Nat :=
  bd.order.filter fun tid => match s.thread? bd.blk tid with
    | some t =>
      let acts := t.acts o.guard
      ((acts || o.meet) && decide (t.regs < o.srcBound)) || (acts && decide (t.regs < o.dst.bound))
    | none => false

/-- A vector instruction that names no queue: every lane reads, then every lane whose guard is true writes (02 R69). -/
def State.vecPlain (s : State) (bd : Bundle) (o : VOp) (f : List LaneIn → List LaneOut) : State :=
  match s.blocks[bd.blk]? with
  | none => s
  | some k =>
    let outs := f (laneViews (ownOps bd o k) o)
    let act := s.active bd o.guard
    let bad := s.outOfBounds bd o
    let s := bad.foldl (fun s t => s.haltLane bd t Code.regBounds 0) s
    let s := s.eachLane bd (fun s t => s.applyLane bd o t (outs.getD (t % 8) (LaneOut.word 0))) act
    s.endPlain bd

/-! ### Queue operands (12 R324–R329) -/

/-- What keeps a lane from a queue access: a fatal fault, or a queue it must wait for. -/
inductive QBlock where
  | fault (code : Nat) | wait (q : Nat)
  deriving DecidableEq, Repr

/-- The state faults of the queues an instruction names: not carved, another width, closed for a push, ROW mode outside a
meet bundle (12 R325–R327, R329, R332). -/
def Block.queueFault (k : Block) (o : VOp) (meet : Bool) : Option Nat :=
  let chk := fun (push : Bool) (x : Nat × Nat) =>
    let c := k.queue x.1
    if !c.carved || widthBytes c.width != 4 * x.2 then some Code.queueState
    else if push && c.closed then some Code.queueState
    else if c.row && !meet then some Code.illegalClause
    else none
  match o.popsOf.findSome? (chk false) with
  | some c => some c
  | none => o.pushOf.bind (chk true)

/-- The first queue that lacks entries or slots for so many lanes: each pops once per source naming it, in ROW mode once for
the octet (12 R324, R326). -/
def Block.queueWait (k : Block) (o : VOp) (lanes : Nat) : Option Nat :=
  let mult := fun (q : Nat) => if (k.queue q).row then 1 else lanes
  let pops := fun (q : Nat) => countp o.popsOf (fun x => x.1 == q) * mult q
  match (o.popsOf.map (·.1)).find? fun q => !(k.queue q).canPop (pops q) with
  | some q => some q
  | none => match o.pushOf with
    | some (q, _) => if (k.queue q).canPush (pops q) (mult q) then none else some q
    | none => none

/-- Pop the queue sources of one lane in the order A, B, C; the other sources keep their values (02 R69). -/
def Block.popLane (k : Block) : List (Src × Nat) → List Nat → Block × List Nat
  | (.q n, _) :: xs, _ :: vs =>
    let r := k.pop n.val
    let rest := r.1.popLane xs vs
    (rest.1, r.2.getD 0 0 :: rest.2)
  | _ :: xs, v :: vs => let rest := k.popLane xs vs; (rest.1, v :: rest.2)
  | _, _ => (k, [])

/-- A change of queues wakes their waiters (12 R328). -/
def State.wakeQueues (s : State) (b : Nat) (qs : List Nat) : State := qs.foldl (fun s q => s.wakeQueue b q) s
def VOp.queues (o : VOp) : List Nat := o.popsOf.map (·.1) ++ (o.pushOf.map (·.1)).toList

/-- A singleton instruction of a lane has completed: the flags it raised join FLAGS at once, as its region ends with it
(08 R211, R213). -/
def Thread.settle (t : Thread) : Thread := { t with flags := t.flags ||| t.pend.setWidth 32, pend := 0 }

/-- The flags a result raises trap for a lane (07 R200). -/
def VOp.trapsFor (o : VOp) (out : LaneOut) (t : Thread) : Bool := o.traps && trapCause out.flags t.flags != 0

/-- A lane's turn at WORD-mode queues: it completes the instruction, or parks at it taking no effect (12 R324). `others` are the lanes'
operands before it. A lane that traps keeps its pops and pushes nothing (12 R329); its region ends with the instruction (08 R211). -/
def State.wordLane (s : State) (bd : Bundle) (o : VOp) (f : List LaneIn → List LaneOut) (others : List (Option (Thread × List Nat)))
    (tid : Nat) : State :=
  match s.blocks[bd.blk]?, s.thread? bd.blk tid with
  | some k, some t =>
    match k.queueFault o bd.meet, k.queueWait o 1 with
    | some c, _ => s.haltLane bd tid c 0
    | none, some q => s.park bd.blk tid bd.pc (.queue q)
    | none, none =>
      let r := k.popLane o.srcs (o.srcs.map fun x => srcRead x.1 x.2 k t)
      let out := (f (laneViews (others.set (tid % 8) (some (t, r.2))) o)).getD (tid % 8) (LaneOut.word 0)
      let s := ((s.modBlock bd.blk fun _ => r.1).applyLane bd o tid out).modThread bd.blk tid Thread.settle
      let s := match o.pushOf with
        | some (q, _) => if o.trapsFor out t || out.fault.isSome then s else s.modBlock bd.blk fun k => k.push q [out.val]
        | none => s
      s.wakeQueues bd.blk o.queues
  | _, _ => s
/-- A lane's own instruction with WORD-mode queues. Its region is committed before it (08 R211). -/
def State.queueLane (s : State) (bd : Bundle) (o : VOp) (f : List LaneIn → List LaneOut) (tid : Nat) : State :=
  match s.commitRegion bd.blk tid bd.pc with
  | (s, false) => s
  | (s, true) => s.wordLane bd o f (List.replicate 8 none) tid

/-- The operands of a meet instruction's lanes before any pop: a lane that pops nothing has no element to supply, and a free value stands
for it (log 91). -/
def State.queueOps (s : State) (bd : Bundle) (o : VOp) (k : Block) : List (Option (Thread × List Nat)) :=
  (ownOps bd o k).zipIdx.map fun x => x.1.map fun y => (y.1, (o.srcs.zip y.2).zipIdx.map fun z => match z.1.1.1 with
    | .q _ => (Config.freeValue (s.fresh + 3 * x.2 + z.2)).toNat % 2 ^ (32 * z.1.1.2)
    | _ => z.1.2)
/-- The elements that the lanes of a cross-lane instruction will pop from WORD-mode queues, each where its entries are there. -/
def Block.wordPeek (k : Block) (o : VOp) (own : List (Option (Thread × List Nat))) (acts : Nat → Bool) (free : Nat → Nat) :
    List (Option (Thread × List Nat)) :=
  ((List.range 8).foldl (fun (acc : Block × List (Option (Thread × List Nat))) i =>
    match (own[i]?).join with
    | none => (acc.1, acc.2 ++ [none])
    | some (t, vs) =>
      if !acts i || (acc.1.queueWait o 1).isSome then (acc.1, acc.2 ++ [some (t, vs)])
      else
        let r := acc.1.popLane o.srcs vs
        ((o.pushOf.map fun q => r.1.push q.1 [free i]).getD r.1, acc.2 ++ [some (t, r.2)])) (k, [])).2

/-- The values a meet instruction's lanes read from queues: WORD mode lane by lane for the lanes that act, ROW mode one row
for the octet (12 R324, R326; 05 R146). -/
def Block.popMeet (k : Block) (o : VOp) (own : List (Option (Thread × List Nat))) (acts : Nat → Bool) :
    Block × List (Option (Thread × List Nat)) :=
  let rows := o.srcs.foldl (fun (acc : Block × List (Option (List Nat))) x =>
    match x.1 with
    | .q n => if (acc.1.queue n.val).row then (let r := acc.1.pop n.val; (r.1, acc.2 ++ [some r.2])) else (acc.1, acc.2 ++ [none])
    | _ => (acc.1, acc.2 ++ [none])) (k, [])
  (List.range 8).foldl (fun (acc : Block × List (Option (Thread × List Nat))) i =>
    match (own[i]?).join with
    | none => (acc.1, acc.2 ++ [none])
    | some (t, vs) =>
      let srcs := (o.srcs.zip rows.2).map fun x => if x.2.isSome then (Src.k 0, x.1.2) else x.1
      let r := if acts i then acc.1.popLane srcs vs else (acc.1, vs)
      let vals := (rows.2.zip r.2).map fun x => match x.1 with
        | some es => es.getD i 0
        | none => x.2
      (r.1, acc.2 ++ [some (t, vals)])) (rows.1, [])

/-- Push what the lanes of a meet instruction give: WORD mode one entry a lane, ROW mode one row with zero for the lanes that
do not act (12 R326). -/
def Block.pushMeet (k : Block) (q : Nat) (outs : List LaneOut) (acts : List Nat) : Block :=
  if (k.queue q).row then
    k.push q ((List.range 8).map fun i => if acts.contains i then (outs.getD i (LaneOut.word 0)).val else 0)
  else acts.foldl (fun k i => k.push q [(outs.getD i (LaneOut.word 0)).val]) k

/-- Any queue of an instruction is in ROW mode, which makes it a meet instruction (12 R326). -/
def Block.rowMode (k : Block) (o : VOp) : Bool := o.queues.any fun q => (k.queue q).carved && (k.queue q).row

/-- A meet instruction that names queues. With a ROW-mode queue the octet completes it as one, or parks at it; a lane that traps adds
zero to a row, and no row is pushed where every lane traps (log 91). With WORD-mode queues alone each lane completes it or parks at it,
and the octet then parks with it (12 R324, R326, 01 R42). -/
def State.vecMeetQ (s : State) (bd : Bundle) (o : VOp) (f : List LaneIn → List LaneOut) : State :=
  let act := s.active bd o.guard
  let s := s.commitAll bd.blk act bd.pc
  match s.blocks[bd.blk]? with
  | none => s
  | some k =>
    let act := s.active bd o.guard |>.filter fun t => ((s.thread? bd.blk t).map (·.status)) == some .issued
    let own := s.queueOps bd o k
    let free := fun (i : Nat) => (Config.freeValue (s.fresh + 24 + i)).toNat
    let s := { s with fresh := s.fresh + 32 }
    let acts := fun (i : Nat) => act.any fun t => t % 8 == i
    if act.isEmpty then s.endPlain bd
    else if !k.rowMode o then (s.eachLane bd (fun s t => s.wordLane bd o f (k.wordPeek o own acts free) t) act).endPlain bd
    else match k.queueFault o bd.meet, k.queueWait o act.length with
    | some c, _ => (act.foldl (fun s t => s.haltLane bd t c 0) s).endPlain bd
    | none, some q => (act.foldl (fun s t => s.park bd.blk t bd.pc (.queue q)) s).endPlain bd
    | none, none =>
      let r := k.popMeet o own acts
      let outs := f (laneViews r.2 o)
      let out := fun (t : Nat) => outs.getD (t % 8) (LaneOut.word 0)
      let pushers := (act.filter fun t => (out t).fault.isNone &&
        !(((s.thread? bd.blk t).map fun th => o.trapsFor (out t) th).getD false)).map (· % 8)
      let s := s.modBlock bd.blk fun _ => r.1
      let s := s.eachLane bd (fun s t => (s.applyLane bd o t (out t)).modThread bd.blk t Thread.settle) act
      let s := match o.pushOf with
        | some (q, _) => if pushers.isEmpty then s else s.modBlock bd.blk fun k => k.pushMeet q outs pushers
        | none => s
      (s.wakeQueues bd.blk o.queues).endPlain bd

/-- A vector instruction of the thread stream: bounds first, then the lanes' reads, results and writes. A push is a release,
which waits for the lane's earlier writes (12 R330, 11 R300). -/
def State.vec (s : State) (o : VOp) (f : List LaneIn → List LaneOut) : State :=
  s.onBundle fun bd =>
    if !o.usesQ then s.vecPlain bd o f
    else
      let s := (s.outOfBounds bd o).foldl (fun s t => s.haltLane bd t Code.regBounds 0) s
      let row := ((s.blocks[bd.blk]?).map fun k => k.rowMode o).getD false
      let s := if o.pushOf.isSome then s.commitLanes bd o.guard else s
      if o.pushOf.isSome && (s.active bd o.guard).any (fun t => s.writesPending bd.blk t) then s
      else if o.meet || row then s.vecMeetQ bd o f
      else (s.eachLane bd (fun s t => s.queueLane bd o f t) (s.active bd o.guard)).endPlain bd

/-- The lane of a bundle that stands in a home lane. -/
def Bundle.laneAt (bd : Bundle) (i : Nat) : Option Nat := bd.lanes.find? fun t => t % 8 == i
/-- A pointwise instruction: each lane's result from its own operands. -/
def State.vecMap (s : State) (o : VOp) (f : LaneIn → LaneOut) : State := s.vec o fun xs => xs.map f

/-! ### Operand shapes -/

/-- One destination register, sources of one register each. -/
def VOp.w1 (g : Guard) (d : Dst) (srcs : List Src) : VOp := ⟨g, srcs.map fun x => (x, 1), [], .reg d 1, false, false⟩
/-- A predicate destination. -/
def VOp.toPred (g : Guard) (p : Fin 8) (srcs : List Src) : VOp := ⟨g, srcs.map fun x => (x, 1), [], .pred p.val, false, false⟩

end Sys2Proof.Machine
end

