-- ==== Sys2Proof/Machine/Integer.lean ====
section
/-! DEFINITION. Integer, logic, bit-field, 64-bit, move and predicate instructions (spec/05 R135–R145, R153; NOP 02 R86). -/

namespace Sys2Proof.Machine

/-- What `exec` answers. -/
abbrev Res := Host.Outcome State Fault Refusal

/-- `sign_extend(imm28)` as a 32-bit number (02 R75). -/
def imm28 (i : BitVec 28) : Nat := (i.signExtend 32).toNat
def s32 (v : Nat) : Int := sval 32 v
/-- `wrap32` of an integer, as a number. -/
def w32 (y : Int) : Nat := (wrap32 y).toNat
def w64 (y : Int) : Nat := (wrap64 y).toNat

/-- Truncating division with its fixed cases (05 R136). -/
def divS (a b : Nat) : Nat :=
  if b % 2 ^ 32 = 0 then 0xFFFFFFFF
  else if s32 a = -2147483648 && s32 b = -1 then 0x80000000
  else w32 (Int.tdiv (s32 a) (s32 b))
/-- The remainder takes the dividend's sign (05 R136). -/
def remS (a b : Nat) : Nat :=
  if b % 2 ^ 32 = 0 then a
  else if s32 a = -2147483648 && s32 b = -1 then 0
  else w32 (Int.tmod (s32 a) (s32 b))
def divU (a b : Nat) : Nat := if b = 0 then 0xFFFFFFFF else a / b
def remU (a b : Nat) : Nat := if b = 0 then a else a % b

/-- Position and width of a bit-field control word (05 R138). -/
def bfPos (c : Nat) : Nat := c % 32
def bfWidth (c : Nat) : Nat := min (nfld c 8 6) (32 - bfPos c)
def bfExt (a c : Nat) : Nat :=
  let w := bfWidth c
  let f := a / 2 ^ bfPos c % 2 ^ w
  if w = 0 then 0 else if nbit f (w - 1) then w32 ((f : Int) - 2 ^ w) else f
def bfExtU (a c : Nat) : Nat := if bfWidth c = 0 then 0 else a / 2 ^ bfPos c % 2 ^ bfWidth c
def bfIns (a b c : Nat) : Nat :=
  let m : Word := BitVec.ofNat 32 ((2 ^ bfWidth c - 1) * 2 ^ bfPos c)
  ((BitVec.ofNat 32 a &&& ~~~m) ||| (BitVec.ofNat 32 (b * 2 ^ bfPos c) &&& m)).toNat

/-- Zero bits above the highest set bit, of 32 (05 R139). -/
def clz32 (a : Nat) : Nat := ((List.range 32).find? fun i => nbit a (31 - i)).getD 32
def ctz32 (a : Nat) : Nat := ((List.range 32).find? fun i => nbit a i).getD 32
def brev32 (a : Nat) : Nat := (List.range 32).foldl (fun r i => r + b2n (nbit a i) * 2 ^ (31 - i)) 0
def rotl32 (a n : Nat) : Nat := ((BitVec.ofNat 32 a).rotateLeft n).toNat
/-- Arithmetic shift right of a `w`-bit value. -/
def sar (w a n : Nat) : Nat := (BitVec.ofInt w (Int.fdiv (sval w a) (2 ^ n))).toNat
/-- Signed byte `k` (05 R153). -/
def sbyte (x k : Nat) : Int := sval 8 (nfld x (8 * k) 8)
def dot4 (a b c : Nat) : Nat :=
  w32 ((c : Int) + (List.range 4).foldl (fun r k => r + sbyte a k * sbyte b k) 0)
def bw (f : Word → Word → Word) (a b : Nat) : Nat := (f (BitVec.ofNat 32 a) (BitVec.ofNat 32 b)).toNat
/-- The bits of a 32-bit value below bit 16 kept, with a new high half (05 R141). -/
def movHi (a i : Nat) : Nat := a % 2 ^ 16 + i * 2 ^ 16

/-- PSETP's operations (05 R144). -/
def predOp : PredOp → Bool → Bool → Bool
  | .and, x, y => x && y
  | .or, x, y => x || y
  | .xor, x, y => x ^^ y
  | .andn, x, y => x && !y
  | .orn, x, y => x || !y
  | .nor, x, y => !(x || y)
  | .nand, x, y => !(x && y)
  | .xnor, x, y => !(x ^^ y)

/-- Operands with a 64-bit destination. -/
def VOp.to64 (g : Guard) (d : Dst) (srcs : List (Src × Nat)) : VOp := ⟨g, srcs, [], .reg d 2, false, false⟩

/-- NOP occupies an instruction slot (02 R86). -/
def execNop (_ : Guard) (s : State) : Res := .next (s.onBundle fun bd => s.endPlain bd)
/-- 05 R135. -/
def execIadd (g : Guard) (d : Dst) (a b : Src) (s : State) : Res :=
  .next (s.vecMap (.w1 g d [a, b]) fun x => .word ((x.src 0 + x.src 1) % 2 ^ 32))
/-- 05 R135. -/
def execIsub (g : Guard) (d : Dst) (a b : Src) (s : State) : Res :=
  .next (s.vecMap (.w1 g d [a, b]) fun x => .word (w32 ((x.src 0 : Int) - x.src 1)))
/-- 05 R135. -/
def execIaddi (g : Guard) (d : Dst) (a : Src) (imm : BitVec 28) (s : State) : Res :=
  .next (s.vecMap (.w1 g d [a]) fun x => .word ((x.src 0 + imm28 imm) % 2 ^ 32))
/-- 05 R135. -/
def execImul (g : Guard) (d : Dst) (a b : Src) (s : State) : Res :=
  .next (s.vecMap (.w1 g d [a, b]) fun x => .word (x.src 0 * (x.src 1) % 2 ^ 32))
/-- 05 R135. -/
def execImulhi (g : Guard) (d : Dst) (a b : Src) (s : State) : Res :=
  .next (s.vecMap (.w1 g d [a, b]) fun x => .word (w32 (Int.fdiv (s32 (x.src 0) * s32 (x.src 1)) (2 ^ 32))))
/-- 05 R135. -/
def execImulhu (g : Guard) (d : Dst) (a b : Src) (s : State) : Res :=
  .next (s.vecMap (.w1 g d [a, b]) fun x => .word (x.src 0 * (x.src 1) / 2 ^ 32))
/-- 05 R135. -/
def execImad (g : Guard) (d : Dst) (a b c : Src) (s : State) : Res :=
  .next (s.vecMap (.w1 g d [a, b, c]) fun x => .word ((x.src 0 * (x.src 1) + x.src 2) % 2 ^ 32))
/-- 05 R136. -/
def execIdiv (g : Guard) (d : Dst) (a b : Src) (s : State) : Res :=
  .next (s.vecMap (.w1 g d [a, b]) fun x => .word (divS (x.src 0) (x.src 1)))
/-- 05 R136. -/
def execIdivu (g : Guard) (d : Dst) (a b : Src) (s : State) : Res :=
  .next (s.vecMap (.w1 g d [a, b]) fun x => .word (divU (x.src 0) (x.src 1)))
/-- 05 R136. -/
def execIrem (g : Guard) (d : Dst) (a b : Src) (s : State) : Res :=
  .next (s.vecMap (.w1 g d [a, b]) fun x => .word (remS (x.src 0) (x.src 1)))
/-- 05 R136. -/
def execIremu (g : Guard) (d : Dst) (a b : Src) (s : State) : Res :=
  .next (s.vecMap (.w1 g d [a, b]) fun x => .word (remU (x.src 0) (x.src 1)))
/-- 05 R135. -/
def execImin (g : Guard) (d : Dst) (a b : Src) (s : State) : Res :=
  .next (s.vecMap (.w1 g d [a, b]) fun x => .word (if s32 (x.src 0) ≤ s32 (x.src 1) then x.src 0 else x.src 1))
/-- 05 R135. -/
def execImax (g : Guard) (d : Dst) (a b : Src) (s : State) : Res :=
  .next (s.vecMap (.w1 g d [a, b]) fun x => .word (if s32 (x.src 0) ≥ s32 (x.src 1) then x.src 0 else x.src 1))
/-- 05 R135. -/
def execIminu (g : Guard) (d : Dst) (a b : Src) (s : State) : Res :=
  .next (s.vecMap (.w1 g d [a, b]) fun x => .word (if x.src 0 ≤ x.src 1 then x.src 0 else x.src 1))
/-- 05 R135. -/
def execImaxu (g : Guard) (d : Dst) (a b : Src) (s : State) : Res :=
  .next (s.vecMap (.w1 g d [a, b]) fun x => .word (if x.src 0 ≥ x.src 1 then x.src 0 else x.src 1))
/-- 05 R135. -/
def execIabs (g : Guard) (d : Dst) (a : Src) (s : State) : Res :=
  .next (s.vecMap (.w1 g d [a]) fun x => .word (w32 (s32 (x.src 0)).natAbs))
/-- 05 R137. -/
def execAnd (g : Guard) (d : Dst) (a b : Src) (s : State) : Res :=
  .next (s.vecMap (.w1 g d [a, b]) fun x => .word (bw (· &&& ·) (x.src 0) (x.src 1)))
/-- 05 R137. -/
def execOr (g : Guard) (d : Dst) (a b : Src) (s : State) : Res :=
  .next (s.vecMap (.w1 g d [a, b]) fun x => .word (bw (· ||| ·) (x.src 0) (x.src 1)))
/-- 05 R137. -/
def execXor (g : Guard) (d : Dst) (a b : Src) (s : State) : Res :=
  .next (s.vecMap (.w1 g d [a, b]) fun x => .word (bw (· ^^^ ·) (x.src 0) (x.src 1)))
/-- 05 R137. -/
def execAndn (g : Guard) (d : Dst) (a b : Src) (s : State) : Res :=
  .next (s.vecMap (.w1 g d [a, b]) fun x => .word (bw (fun p q => p &&& ~~~q) (x.src 0) (x.src 1)))
/-- 05 R137. -/
def execAndi (g : Guard) (d : Dst) (a : Src) (imm : BitVec 28) (s : State) : Res :=
  .next (s.vecMap (.w1 g d [a]) fun x => .word (bw (· &&& ·) (x.src 0) (imm28 imm)))
/-- 05 R137. -/
def execOri (g : Guard) (d : Dst) (a : Src) (imm : BitVec 28) (s : State) : Res :=
  .next (s.vecMap (.w1 g d [a]) fun x => .word (bw (· ||| ·) (x.src 0) (imm28 imm)))
/-- 05 R137. -/
def execXori (g : Guard) (d : Dst) (a : Src) (imm : BitVec 28) (s : State) : Res :=
  .next (s.vecMap (.w1 g d [a]) fun x => .word (bw (· ^^^ ·) (x.src 0) (imm28 imm)))
/-- 05 R137. -/
def execShl (g : Guard) (d : Dst) (a b : Src) (s : State) : Res :=
  .next (s.vecMap (.w1 g d [a, b]) fun x => .word (x.src 0 * 2 ^ (x.src 1 % 32) % 2 ^ 32))
/-- 05 R137. -/
def execShr (g : Guard) (d : Dst) (a b : Src) (s : State) : Res :=
  .next (s.vecMap (.w1 g d [a, b]) fun x => .word (x.src 0 / 2 ^ (x.src 1 % 32)))
/-- 05 R137. -/
def execSar (g : Guard) (d : Dst) (a b : Src) (s : State) : Res :=
  .next (s.vecMap (.w1 g d [a, b]) fun x => .word (sar 32 (x.src 0) (x.src 1 % 32)))
/-- 05 R137. -/
def execRotl (g : Guard) (d : Dst) (a b : Src) (s : State) : Res :=
  .next (s.vecMap (.w1 g d [a, b]) fun x => .word (rotl32 (x.src 0) (x.src 1 % 32)))
/-- 05 R137. -/
def execShli (g : Guard) (d : Dst) (a : Src) (n : Fin 32) (s : State) : Res :=
  .next (s.vecMap (.w1 g d [a]) fun x => .word (x.src 0 * 2 ^ n.val % 2 ^ 32))
/-- 05 R137. -/
def execShri (g : Guard) (d : Dst) (a : Src) (n : Fin 32) (s : State) : Res :=
  .next (s.vecMap (.w1 g d [a]) fun x => .word (x.src 0 / 2 ^ n.val))
/-- 05 R137. -/
def execSari (g : Guard) (d : Dst) (a : Src) (n : Fin 32) (s : State) : Res :=
  .next (s.vecMap (.w1 g d [a]) fun x => .word (sar 32 (x.src 0) n.val))
/-- 05 R138. -/
def execBfe (g : Guard) (d : Dst) (a c : Src) (s : State) : Res :=
  .next (s.vecMap (.w1 g d [a, c]) fun x => .word (bfExt (x.src 0) (x.src 1)))
/-- 05 R138. -/
def execBfeu (g : Guard) (d : Dst) (a c : Src) (s : State) : Res :=
  .next (s.vecMap (.w1 g d [a, c]) fun x => .word (bfExtU (x.src 0) (x.src 1)))
/-- 05 R138. -/
def execBfi (g : Guard) (d : Dst) (a b c : Src) (s : State) : Res :=
  .next (s.vecMap (.w1 g d [a, b, c]) fun x => .word (bfIns (x.src 0) (x.src 1) (x.src 2)))
/-- 05 R139. -/
def execPopc (g : Guard) (d : Dst) (a : Src) (s : State) : Res :=
  .next (s.vecMap (.w1 g d [a]) fun x => .word (popcount (x.src 0) 32))
/-- 05 R139. -/
def execClz (g : Guard) (d : Dst) (a : Src) (s : State) : Res :=
  .next (s.vecMap (.w1 g d [a]) fun x => .word (clz32 (x.src 0)))
/-- 05 R139. -/
def execCtz (g : Guard) (d : Dst) (a : Src) (s : State) : Res :=
  .next (s.vecMap (.w1 g d [a]) fun x => .word (ctz32 (x.src 0)))
/-- 05 R139. -/
def execBrev (g : Guard) (d : Dst) (a : Src) (s : State) : Res :=
  .next (s.vecMap (.w1 g d [a]) fun x => .word (brev32 (x.src 0)))
/-- 05 R140. -/
def execAdd64 (g : Guard) (d : Dst) (a b : Src) (s : State) : Res :=
  .next (s.vecMap (.to64 g d [(a, 2), (b, 2)]) fun x => .word ((x.src 0 + x.src 1) % 2 ^ 64))
/-- 05 R140. -/
def execSub64 (g : Guard) (d : Dst) (a b : Src) (s : State) : Res :=
  .next (s.vecMap (.to64 g d [(a, 2), (b, 2)]) fun x => .word (w64 ((x.src 0 : Int) - x.src 1)))
/-- 05 R140. -/
def execShl64 (g : Guard) (d : Dst) (a b : Src) (s : State) : Res :=
  .next (s.vecMap (.to64 g d [(a, 2), (b, 1)]) fun x => .word (x.src 0 * 2 ^ (x.src 1 % 64) % 2 ^ 64))
/-- 05 R140. -/
def execShr64 (g : Guard) (d : Dst) (a b : Src) (sx : Bool) (s : State) : Res :=
  .next (s.vecMap (.to64 g d [(a, 2), (b, 1)]) fun x => .word (if sx then sar 64 (x.src 0) (x.src 1 % 64) else x.src 0 / 2 ^ (x.src 1 % 64)))
/-- 05 R140. -/
def execLea (g : Guard) (d : Dst) (a b : Src) (sh : Fin 8) (zx : Bool) (s : State) : Res :=
  .next (s.vecMap (.to64 g d [(a, 2), (b, 1)]) fun x => .word (w64 ((x.src 0 : Int) + (if zx then (x.src 1 : Int) else s32 (x.src 1)) * 2 ^ sh.val)))
/-- The width of a MOV in registers (05 R141). -/
def movWords : MovW → Nat
  | .w32 => 1 | .w64 => 2 | .w128 => 4
/-- 05 R141. -/
def execMov (g : Guard) (d : Dst) (a : Src) (w : MovW) (s : State) : Res :=
  .next (s.vecMap ⟨g, [(a, movWords w)], [], .reg d (movWords w), false, false⟩ fun x => .word (x.src 0))
/-- 05 R141. -/
def execMovi (g : Guard) (d : Dst) (imm : BitVec 28) (s : State) : Res :=
  .next (s.vecMap (.w1 g d []) fun _ => .word (imm28 imm))
/-- 05 R141. -/
def execMovhi (g : Guard) (d : Dst) (a : Src) (imm : BitVec 16) (s : State) : Res :=
  .next (s.vecMap (.w1 g d [a]) fun x => .word (movHi (x.src 0) imm.toNat))
/-- Both sources are read, so both pop (05 R142). -/
def execSel (g : Guard) (d : Dst) (a b : Src) (p : Fin 8) (inv : Bool) (s : State) : Res :=
  .next (s.vecMap (.w1 g d [a, b]) fun x => .word (if (x.pred.getLsbD p.val) ^^ inv then x.src 0 else x.src 1))
/-- 05 R143. -/
def execIsetp (g : Guard) (p : Fin 8) (a b : Src) (c : Cmp) (s : State) : Res :=
  .next (s.vecMap (.toPred g p [a, b]) fun x => .ofPred p.val (cmpInt 32 c (x.src 0) (x.src 1)))
/-- 05 R144. -/
def execPsetp (g : Guard) (p : Fin 8) (a b : PSrc) (o : PredOp) (s : State) : Res :=
  .next (s.vecMap ⟨g, [], [a, b], .pred p.val, false, false⟩ fun x =>
    .ofPred p.val (predOp o (x.preds.getD 0 false) (x.preds.getD 1 false)))
/-- 05 R145. -/
def execP2v (g : Guard) (d : Dst) (s : State) : Res := .next (s.vecMap (.w1 g d []) fun x => .word x.pred.toNat)
/-- 05 R145. -/
def execV2p (g : Guard) (a b : Src) (s : State) : Res :=
  .next (s.vecMap ⟨g, [(a, 1), (b, 1)], [], .preds, false, false⟩ fun x =>
    ⟨0, BitVec.ofNat 8 (x.src 1) &&& 0xFE, BitVec.ofNat 8 (x.src 0), 0, none⟩)
/-- 05 R153. -/
def execIdot4 (g : Guard) (d : Dst) (a b c : Src) (s : State) : Res :=
  .next (s.vecMap (.w1 g d [a, b, c]) fun x => .word (dot4 (x.src 0) (x.src 1) (x.src 2)))

end Sys2Proof.Machine
end

