-- ==== Sys2Proof/Machine/Erg.lean ====
section
/-! DEFINITION. The Erg and the streams' clauses: headers, the clause check, continuations, bundle formation, the working-set
copy, and the turn of a bundle or a sequencer up to the instruction it executes (spec/01 R35–R43, spec/02 R50–R60, R84–R91,
spec/04 R112, R114, R116). -/

namespace Sys2Proof.Machine

/-! ### Clause headers (02 R54) -/

/-- The fields of a header. -/
structure Hdr where
  wscount : Nat
  wsbase : Nat
  smask : Nat
  yield : Bool
  meet : Bool
  region : Bool
  tl : Nat
  cp : Nat
  st : Nat
  ld : Nat
  cls : Nat
  n : Nat
  deriving DecidableEq, Repr

def Hdr.of (w : DWord) : Hdr :=
  { wscount := fld w 59 5, wsbase := fld w 48 11, smask := fld w 32 16, yield := w.getLsbD 26, meet := w.getLsbD 25
    region := w.getLsbD 24, tl := fld w 20 4, cp := fld w 16 4, st := fld w 12 4, ld := fld w 8 4, cls := fld w 4 3
    n := fld w 0 4 + 1 }

/-- The fault of a header met in the thread or the uniform stream, by the priority of 02 R90 (02 R54–R58). -/
def hdrFault (thr : Bool) (w : DWord) : Option Nat :=
  let h := Hdr.of w
  if (thr && h.cls == 4) || (!thr && decide (h.cls ≤ 3)) then some Code.illegalStream
  else if decide (6 ≤ h.cls) || fld w 27 5 != 0 || w.getLsbD 7 || h.smask / 2 ^ h.n != 0 then some Code.illegalEncoding
  else if thr then
    if h.wsbase % 8 != 0 || decide (1536 < h.wsbase + 8 * h.wscount) then some Code.illegalEncoding else none
  else if h.wscount != 0 || h.wsbase != 0 || h.yield || h.meet || h.region || h.ld != 0 || (h.st != 0 && h.st != 15) then
    some Code.illegalEncoding
  else none

/-! ### The clause check (02 R59, R60, R84–R91) -/

/-- The class of an opcode's range (02 R84). -/
def opClass (op : Nat) : Nat :=
  if op < 0x80 then 0 else if op < 0xA0 then 1 else if op < 0xB0 then 2 else if op < 0xC0 then 3 else if op < 0xF0 then 4 else 5
/-- The transfer instructions (02 R60). -/
def isTransfer (op : Nat) : Bool := [0xB0, 0xB1, 0xB2, 0xB3, 0xB4, 0xB9, 0xCF, 0xD0, 0xD1].contains op
/-- SHUF, VOTE, REDOCT and MATCH (01 R40). -/
def isCross (op : Nat) : Bool := decide (0x33 ≤ op) && decide (op ≤ 0x36)
/-- The fields of a word, by their lowest bit, that its instruction reads as sources with a lane pattern: A, B and C as the
descriptions of 05 R133, 07 R180, 08 R203 and 12 R333 use them. The address and operand fields of formats M and MA and the operands of
SYNC and uniform instructions admit no pattern (02 R68, R79, R83; 16 R443). -/
def patFields (w : DWord) : List Nat :=
  let op := fld w 0 8
  if [0x07, 0x21, 0x37, 0x43, 0x56].contains op then [22, 36, 50]
  else if op == 0x1F || op == 0x20 then [22, 50]
  else if [0x00, 0x2C, 0x31].contains op then []
  else if [0x03, 0x10, 0x15, 0x16, 0x17, 0x1C, 0x1D, 0x1E, 0x22, 0x23, 0x24, 0x25, 0x2B, 0x2D, 0x34, 0x35, 0x36,
    0x47, 0x48, 0x49, 0x4B, 0x4C, 0x4D, 0x4E, 0x4F, 0x50, 0x51, 0xB1, 0xB3, 0xBB].contains op then [22]
  else if op == 0x59 then
    if (((Ty.ofCode (subF w)).map Ty.oneReg).getD false) && (((Ty.ofCode (tyF w)).map Ty.narrow).getD false) then [22, 36] else [22]
  else if op == 0x5B then (if fld w 61 1 == 1 then [22] else [22, 36])
  else if op == 0xA1 then (if (queueOf (dF w)).isSome then [22] else [])
  else if op == 0xB9 then (if subF w == 2 || subF w == 3 then [22] else [])
  else if op < 0x80 then [22, 36]
  else []
/-- The word is a meet instruction: cross-lane, or with a lane pattern on a V or predicate source (01 R40, 02 R68). A pattern on a
queue or a K half, or in a field that is not read, breaks 02 R68 instead (log 73). -/
def isMeetWord (w : DWord) : Bool :=
  isCross (fld w 0 8) || (patFields w).any fun lo => fld w lo 11 < 1536 && fld w (lo + 11) 3 != 0

/-- SYNC operands that only one stream admits (16 R440, R443, R448). -/
def syncStreamOk (thr : Bool) : Instr → Bool
  | .barArrive _ d _ => thr || d == .vz || d == .v 0
  | .wait _ ld st _ _ => thr || (ld.val == 63 && st.val == 63)
  | .barWait _ _ (.reg a _) => thr || match a with
      | .k _ => true
      | _ => false
  | .barExpect _ _ _ (some a) _ => thr || match a with
      | .k _ => true
      | _ => false
  | .signal _ (.v _) _ => thr
  | _ => true

/-- The fault of instruction word `i` of `n` in a clause, by the priority of 02 R90. -/
def wordFault (thr : Bool) (h : Hdr) (i : Nat) (w : DWord) : Option Nat :=
  let op := fld w 0 8
  let cls := opClass op
  if !opAssigned op then some Code.illegalOpcode
  else if (thr && cls == 4) || (!thr && decide (cls ≤ 3)) then some Code.illegalStream
  else if (cls != h.cls && !(thr && cls == 3 && i == h.n && h.cls != 3)) || (isTransfer op && i != h.n) || (isMeetWord w && !h.meet) then
    some Code.illegalClause
  else match decode w with
    | .ok x => if syncStreamOk thr x then none else some Code.illegalEncoding
    | .error _ => some Code.illegalEncoding

/-- The first word of a clause that breaks a rule, with its fault (02 R90). -/
def clauseFault (thr : Bool) (ws : List DWord) : Option (Nat × Nat) :=
  match ws with
  | [] => none
  | hw :: rest => match hdrFault thr hw with
    | some c => some (0, c)
    | none => (rest.zipIdx 1).findSome? fun x => (wordFault thr (Hdr.of hw) x.2 x.1).map fun c => (x.2, c)

/-- Fetch `n` words of a stream from an address; the first that cannot be read, with its address. -/
def State.fetchWords (s : State) (k : Block) (thr : Bool) (pc : DWord) : Nat → List DWord ⊕ (Fetch × DWord)
  | 0 => .inl []
  | n + 1 => match s.fetchWord k thr pc with
    | .ok w => match s.fetchWords k thr (pc + 8) n with
      | .inl ws => .inl (w :: ws)
      | .inr e => .inr e
    | f => .inr (f, pc)

/-- The words of the clause at a header. All of them are fetched before any is examined (log 75). -/
def State.fetchClause (s : State) (k : Block) (thr : Bool) (hdr : DWord) : List DWord ⊕ (Fetch × DWord) :=
  match s.fetchWord k thr hdr with
  | .ok w => s.fetchWords k thr hdr ((Hdr.of w).n + 1)
  | f => .inr (f, hdr)

/-- The fatal code of a fetch that is neither good, absent nor waiting (15 R424, 09 R257, R263). -/
def Fetch.code : Fetch → Nat
  | .prot => Code.protFault
  | .poison => Code.memPoison
  | .lost => Code.linkLost
  | _ => Code.physHole

/-! ### Blocks that run -/

/-- A core is being vacated (08 R236): its blocks form no bundles and its stream engines stop. -/
def State.vacatingAt (s : State) (c : Nat) : Bool := ((s.cores[c]?).map (·.vacating)).getD false
/-- New bundles may form for a block: resident, not halted, its core not being vacated (08 R231, R236). -/
def State.forms (s : State) (b : Nat) : Bool :=
  match s.resident? b with
  | some k => k.halt.isNone && !s.vacatingAt k.core
  | none => false
/-- The lanes in flight may go on: not halted, or within 64 cycles of the broadcast (01 R48, 08 R231). -/
def State.runs (s : State) (b : Nat) : Bool :=
  match s.resident? b with
  | some k => match k.halt with
    | none => true
    | some h => !h.debug && decide (s.cycle ≤ h.cycle + 64)
  | none => false

/-! ### Continuations (01 R35, R37) -/

/-- Two threads of a block share an octet (01 R20). -/
def sameOctet (t u : Nat) : Bool := t / 8 == u / 8
/-- Every counter meets a set of thresholds (01 R37, 16 R440); `none` waits for nothing. -/
def Thread.meets (t : Thread) (k : Block) (ld st cp tl : Nat) (none : Nat) : Bool :=
  (ld == none || decide (t.cntLd ≤ ld)) && (st == none || decide (t.cntSt ≤ st)) &&
  (cp == none || decide (k.cntCp ≤ cp)) && (tl == none || decide (k.cntTl ≤ tl))
/-- The persist writes of a thread that have not entered a Caravan queue, within a scope (10 R291). -/
def State.persistOut (s : State) (b tid : Nat) (pod : Bool) : Bool :=
  s.homes.reqs.any fun r => r.blk == b && r.parts.any (fun p => p.tid == tid) &&
    (match r.op with
      | .store => r.path == .pers
      | .pwb _ => decide (0x20000000000 ≤ r.line * 128 % 2 ^ 42)
      | _ => false) && (pod || r.line * 128 / 2 ^ 42 == s.pkg)

/-- The header of the clause whose first instruction a PC is (01 R35). -/
def State.atHeader (s : State) (k : Block) (pc : DWord) : Option DWord :=
  let h := pc - 8
  let e := s.extent k true
  if h.toNat % 8 == 0 && decide (e.1 ≤ h.toNat) && decide (h.toNat < e.1 + e.2) && s.mapBit k true (h.toNat - e.1) then some h else none

/-- The clause a continuation stands in, and whether it stands at its first instruction. -/
def State.standAt (s : State) (k : Block) (pc : DWord) : Option (DWord × Bool) :=
  match s.atHeader k pc with
  | some h => some (h, true)
  | none => match s.clauseOf k true pc with
    | some x => some (x.1, false)
    | none => none

/-- A PC lies in a meet clause. -/
def State.inMeet (s : State) (k : Block) (pc : DWord) : Bool :=
  match s.standAt k pc with
  | some (h, _) => match s.fetchWord k true h with
    | .ok w => (Hdr.of w).meet
    | _ => false
  | none => false

/-- Another live thread of the octet does not stand ready with this one. -/
def Block.octetOpen (k : Block) (tid : Nat) (t : Thread) : Bool :=
  (List.range 8).any fun i => match k.threads[8 * (tid / 8) + i]? with
    | some u => u.live && !(u.ready && (u.held || u.pc == t.pc && !u.alone))
    | none => false

/-- A ready thread waits for its octet at a meet clause, and so counts as parked (01 R41, R44). -/
def State.waitsOctet (s : State) (k : Block) (tid : Nat) (t : Thread) : Bool :=
  t.ready && !t.alone && k.octetOpen tid t && s.inMeet k t.pc

/-- A thread is parked (01 R44). -/
def State.isParked (s : State) (k : Block) (tid : Nat) (t : Thread) : Bool := t.parked || s.waitsOctet k tid t

/-- The octet of a thread that parked with it may resume: no lane that parked with it waits for a condition of its own (01 R42). -/
def Block.octetOver (k : Block) (tid : Nat) : Bool :=
  (List.range 8).all fun i => match k.threads[8 * (tid / 8) + i]? with
    | some u => !u.octet || match u.status with
      | .parked .meet => true
      | .parked _ | .exiting => false
      | _ => true
    | none => true

/-- A parked thread's condition is met, so that it may enter the Erg again (01 R44, 10 R274, R291). -/
def State.parkOver (s : State) (b tid : Nat) (k : Block) (t : Thread) : Bool :=
  match t.status with
  | .parked (.wait ld st cp tl) => t.meets k ld st cp tl 63
  | .parked (.limit ld st) => (!ld || decide (t.cntLd < 63)) && (!st || decide (t.cntSt < 63))
  | .parked (.pbar pod) => !s.persistOut b tid pod
  | .parked .meet => k.octetOver tid
  | _ => false

/-- The keys of the bins in use on a core (01 R35). A halted block's threads do not run and hold no bin (01 R44, R48). -/
def State.binKeys (s : State) (core : Nat) : List (Nat × DWord) :=
  ((s.blocks.zipIdx).flatMap fun x => if x.1.core == core && s.forms x.2 then
    x.1.threads.filterMap (fun t => if t.status == .ready true then some (x.2, t.pc) else none) else []).eraseDups

/-- A waiting continuation that is older than `t` and needs a bin as well: the next bin is its (01 R35). -/
def State.olderWaits (s : State) (core b tid : Nat) (t : Thread) : Bool :=
  (s.blocks.zipIdx).any fun x => x.1.core == core && s.forms x.2 && (x.1.threads.zipIdx).any fun y =>
    y.1.status == .ready false && !(x.2 == b && y.2 == tid) && decide (y.1.arrival < t.arrival) &&
    !(s.binKeys core).contains (x.2, y.1.pc) && (x.2, y.1.pc) != (b, t.pc)

/-- The number of the bin that holds a key (01 R35). -/
def Core.binOf (c : Core) (key : Nat × DWord) : Option Nat := (c.bins.find? fun x => x.2 == key).map (·.1)

/-- Give a key the lowest bin that is not in use (01 R35, log 10). -/
def State.takeBin (s : State) (core : Nat) (key : Nat × DWord) : State :=
  let used := s.binKeys core
  s.modCore core fun c =>
    let bins := c.bins.filter fun x => used.contains x.2
    match (List.range 64).find? fun n => bins.all fun x => x.1 != n with
    | some n => { c with bins := tset bins n key }
    | none => c

/-- Enter a bin, if one is there for the key; otherwise the continuation waits (01 R35). -/
def State.enterBin (s : State) (b tid : Nat) (k : Block) (t : Thread) : State :=
  let keys := s.binKeys k.core
  let bin := fun (s : State) => s.modThread b tid fun t => { t with status := .ready true }
  if keys.contains (b, t.pc) then bin s
  else if decide (keys.length < 64) && !s.olderWaits k.core b tid t then bin (s.takeBin k.core (b, t.pc))
  else s

/-- A lane that trapped in a meet clause whose octet parked after the clause's last instruction: the octet resumes past the end
of that clause, so that the lane enters its handler (07 R201). -/
def State.heldOut (s : State) (b tid : Nat) (k : Block) (t : Thread) : State :=
  if s.targetOk k true t.utvec then s.modThread b tid fun t =>
    { { t with held := false, alone := false }.goto (t.utvec + 8) with status := .ready false, arrival := s.cycle, unchecked := false, octet := false }
  else s.haltAt b tid Code.illegalTarget t.uepc t.utvec

/-- The lane stands past the clause in which it trapped: its octet parked there, having completed that clause. -/
def State.pastClause (s : State) (k : Block) (t : Thread) : Bool :=
  t.held && !t.acted && ((s.clauseOf k true t.uepc).map fun x => x.1 + BitVec.ofNat 64 (8 * (x.2 + 2))) == some t.pc

/-- An octet whose lanes have parked together resumes as one (01 R42); a lane that trapped in the clause that is over enters its
handler (07 R201). -/
def State.octetUp (s : State) (b tid : Nat) (k : Block) : State :=
  (List.range 8).foldl (fun (s : State) i => match k.threads[8 * (tid / 8) + i]? with
    | some t =>
      if t.status != .parked .meet then s
      else if s.pastClause k t then s.heldOut b (8 * (tid / 8) + i) k t
      else s.modThread b (8 * (tid / 8) + i) fun t => { t with status := .ready false, arrival := s.cycle, octet := false }
    | none => s) s

/-- CONTINUATION_ENTRY: a thread that waits for counters, a limit, a PBAR or its octet re-enters the Erg when its condition
holds; a ready one enters its bin when its clause's thresholds are met, else it waits parked (01 R35, R37, R44). -/
def execContinuationEntry (b t : Nat) (s : State) : Res :=
  .next <| if !s.forms b then s else
    match s.blocks[b]?, s.thread? b t with
    | some k, some th =>
      if th.status == .ready false then
        match s.farCode k true with
        | some ea => s.askWalk ea
        | none => match (s.atHeader k th.pc).map fun h => s.fetchWord k true h with
        | some (.ok w) =>
          let h := Hdr.of w
          if th.meets k h.ld h.st h.cp h.tl 15 then s.enterBin b t k th
          else
            let f := fun (n : Nat) => if n = 15 then 63 else n
            s.modThread b t fun t => { t with status := .parked (.wait (f h.ld) (f h.st) (f h.cp) (f h.tl)) }
        | _ => s.enterBin b t k th
      else if s.parkOver b t k th then
        if th.status == .parked .meet then s.octetUp b t k else s.modThread b t (·.wakeUp s.cycle)
      else s
    | _, _ => s

/-! ### Bundle formation (01 R36, R41, R42; 08 R224; 02 R88) -/

/-- Orders continuations of one lane: arrival, then those that left with YIELD, then TID (01 R36, R43). -/
def older (t u : Thread) (i j : Nat) : Bool :=
  decide (t.arrival < u.arrival) || (t.arrival == u.arrival && ((!t.late && u.late) || (t.late == u.late && decide (i < j))))

/-- The oldest continuation of each lane among the candidates (01 R36). -/
def pickLanes (k : Block) (cands : List Nat) : List Nat :=
  (List.range 8).filterMap fun i => (cands.filter fun c => c % 8 == i).foldl (fun best c =>
    match best with
    | none => some c
    | some x => match k.threads[c]?, k.threads[x]? with
      | some t, some u => if older t u c x then some c else some x
      | _, _ => best) none

/-- The threads that stand in a bin at a PC. -/
def Block.binAt (k : Block) (pc : DWord) : List Nat :=
  (List.range k.threads.length).filter fun i => match k.threads[i]? with
    | some t => t.status == .ready true && t.pc == pc && !t.alone
    | none => false

/-- A lane that trapped in its meet clause and is ready goes with its octet, wherever that stands (07 R201). -/
def Block.rides (k : Block) (i : Nat) : Bool := ((k.threads[i]?).map fun t => t.held && t.ready).getD false
/-- The lanes a bin gives: the whole octet for a meet clause, else eight distinct lanes, or those there after 8 cycles. -/
def State.lanesFor (s : State) (k : Block) (tid : Nat) (t : Thread) (meet : Bool) : List Nat :=
  if t.alone then [tid]
  else
    let c := k.binAt t.pc
    if meet then
      let oct := (List.range k.threads.length).filter fun i => sameOctet tid i && (c.contains i || k.rides i)
      let live := (List.range k.threads.length).filter fun i => sameOctet tid i && ((k.threads[i]?).map Thread.live).getD false
      if oct.length = live.length then oct else []
    else
      let picked := pickLanes k c
      let oldest := c.foldl (fun m i => min m (((k.threads[i]?).map (·.arrival)).getD m)) t.arrival
      if picked.length = 8 || oldest + 8 ≤ s.cycle then picked else []

/-- The arrival of the oldest continuation of a bin, and the bin's number (01 R36, R38). -/
def State.binAge (s : State) (b : Nat) (k : Block) (t : Thread) : Nat × Nat :=
  ((k.binAt t.pc).foldl (fun m i => min m (((k.threads[i]?).map (·.arrival)).getD m)) t.arrival,
   (((s.cores[k.core]?).bind fun c => c.binOf (b, t.pc))).getD 0)

/-- Make a bundle of lanes that stand at word `idx` of a clause; it waits for its working set (01 R37, 04 R114). A lane that UTRET
sent stays alone until it leaves the clause (08 R224). -/
def State.makeBundle (s : State) (b : Nat) (lanes : List Nat) (hdr : DWord) (idx : Nat) (h : Hdr) (single : Bool) (age : Nat × Nat) : State :=
  let (s, id) := s.newId
  let s := lanes.foldl (fun s t => s.modThread b t fun th => { th with status := .issued, late := false, unchecked := false, octet := false }) s
  { s with bundles := s.bundles ++ [⟨id, b, lanes, hdr, idx, h.n, h.meet && !single, single, false, h.yield, 0, age.1, age.2, none⟩] }

/-- The bin that holds a key has formed a bundle in this cycle, of this key or of one that it held before (01 R36). -/
def State.hasFormed (s : State) (core : Nat) (key : Nat × DWord) : Bool :=
  match s.cores[core]? with
  | some c => c.formed.1 == s.cycle && (c.binOf key).any c.formed.2.contains
  | none => false
/-- Note that the bin of a key forms a bundle in this cycle. -/
def State.noteFormed (s : State) (core : Nat) (key : Nat × DWord) : State :=
  s.modCore core fun c => { c with formed := (s.cycle, (c.binOf key).toList ++ if c.formed.1 == s.cycle then c.formed.2 else []) }

/-- Threads whose code page is absent park awaiting replay, but for a lane held for its handler, which goes with its octet (07 R201);
another bad fetch halts the block (09 R259). -/
def State.fetchFault (s : State) (b : Nat) (lanes : List Nat) (f : Fetch) (pc : DWord) : State :=
  match f with
  | .absent => lanes.foldl (fun s t => if ((s.thread? b t).map (·.held)).getD false then s else s.pageFault b t pc.toNat .fetch) s
  | .wait ea => s.askWalk ea
  | .ok _ => s
  | f => match lanes with
    | t :: _ => s.haltAt b t f.code pc pc
    | [] => s

/-- A clause that fails the check halts the block: every lane's PC is the header (02 R91). -/
def State.checkFault (s : State) (b : Nat) (lanes : List Nat) (hdr : DWord) (word code : Nat) : State :=
  let s := lanes.foldl (fun s t => s.modThread b t fun th => { th with pc := hdr, status := .ready false }) s
  s.haltBlock b code false word lanes[0]? hdr 0 0

/-- A clause is fetched: its pages are in the core's TLB, and its lines are read at their homes (09 R248, R259; log 47). -/
def State.fetchFill (s : State) (k : Block) (thr : Bool) (hdr : DWord) (n : Nat) : State :=
  if s.fromWindow k thr hdr then s
  else ((List.range (n + 1)).filter fun i => i == 0 || (hdr.toNat + 8 * i) % 128 == 0).foldl (fun (s : State) i =>
    let va := hdr.toNat + 8 * i
    match s.xlateAt (some k.core) (s.ctxOf k) va .fetch with
    | .ok pa _ => (s.homeTouch (s.homeAt (s.phys pa)) (s.viaOf k) false).tlbTouch (some k.core) (s.ctxOf k) va
    | _ => s) s

/-- What lanes of a block wait for before they act at a PC: a walk of its page that finds no place at the walker (`none`), or of their
buffered stores' pages, which may also need an entry of another package's table (09 R259; log 47). -/
def State.walkNeed (s : State) (b : Nat) (k : Block) (thr : Bool) (lanes : List Nat) (pc : DWord) : Option (Option Nat) :=
  if !s.fromWindow k thr pc && s.walkFull (some k.core) (s.ctxOf k) pc.toNat then some none else lanes.findSome? (s.storeHeld b k)
/-- Wait for what is needed, asking for a table's entry. -/
def State.awaitNeed (s : State) (need : Option Nat) : State :=
  match need with
  | some ea => s.askWalk ea
  | none => s

/-- BUNDLE_FORMATION: the bin of a thread forms a bundle if its rule is met, at most one in a cycle. Entering at a header with
REGION commits the open regions, and the whole clause is checked (01 R36, R41; 02 R88; 08 R210). -/
def execBundleFormation (b t : Nat) (s : State) : Res :=
  .next <| if !s.forms b then s else
    match s.blocks[b]?, s.thread? b t with
    | some k, some th =>
      if th.status != .ready true || s.hasFormed k.core (b, th.pc) then s
      else match s.farCode k true with
      | some ea => s.askWalk ea
      | none => match s.standAt k th.pc with
        | none => s.haltAt b t Code.illegalTarget th.pc (th.pc - 8)
        | some (hdr, entry) => match s.walkNeed b k true [] hdr, s.fetchClause k true hdr with
          | some need, _ => s.awaitNeed need
          | none, .inr (f, pc) => s.fetchFault b [t] f pc
          | none, .inl ws =>
            let h := Hdr.of (ws.headD 0)
            let lanes := s.lanesFor k t th h.meet
            if lanes.isEmpty then s
            else match s.walkNeed b k true (if entry && h.region then lanes else []) hdr with
            | some need => s.awaitNeed need
            | none => match (if entry || th.unchecked then clauseFault true ws else none) with
              | some (i, c) => s.checkFault b lanes hdr i c
              | none =>
                let s' := if entry && h.region then s.commitAll b lanes (hdr + 8) else s
                let lanes := lanes.filter fun t => ((s'.thread? b t).map Thread.ready).getD false
                let s' := lanes.foldl (fun (s : State) t => s.modThread b t fun u => { u.goto th.pc with acted := u.acted }) s'
                if lanes.isEmpty then s'
                else ((s'.fetchFill k true hdr h.n).noteFormed k.core (b, th.pc)).makeBundle b lanes hdr ((th.pc.toNat - hdr.toNat) / 8) h (th.alone && h.meet) (s.binAge b k th)
    | _, _ => s

/-- Bytes of the fast file a clause's working set takes for so many lanes; registers that a lane does not hold, which the copy
skips, count as well (04 R114, R116; log 74). -/
def wsBytes (h : Hdr) (lanes : Nat) : Nat := 32 * h.wscount * lanes

/-- WORKING_SET_COPY: the bundle is ready when the fast file has room for its working set (04 R114, R116). -/
def execWorkingSetCopy (n : Nat) (s : State) : Res :=
  .next <| match s.bundles.find? fun x => x.id == n with
    | none => s
    | some bd => match s.blocks[bd.blk]? with
      | none => s
      | some k => match s.fetchWord k true bd.hdr with
        | .ok w =>
          let ws := wsBytes (Hdr.of w) bd.lanes.length
          if !bd.ready && decide (((s.cores[k.core]?).map (·.fast)).getD 0 + ws ≤ 65536) then
            (s.modBundle n fun x => { x with ready := true, ws := ws }).modCore k.core fun c => { c with fast := c.fast + ws }
          else s
        | .wait ea => s.askWalk ea
        | _ => s.modBundle n fun x => { x with ready := true }

/-! ### Turns (01 R30, R38) -/

/-- The order in which the ready bundles of a core issue: meet bundles first, then by the oldest arrival of their bin, then by its
number (01 R38). -/
def Bundle.before (x y : Bundle) : Bool :=
  (x.meet && !y.meet) || (x.meet == y.meet && (decide (x.arrival < y.arrival) || (x.arrival == y.arrival &&
    (decide (x.bin < y.bin) || (x.bin == y.bin && decide (x.id < y.id))))))
/-- A bundle that can issue in this cycle: ready, its block runs, and it has not issued in it. -/
def State.canIssue (s : State) (bd : Bundle) : Bool := bd.ready && s.runs bd.blk && bd.issued != some s.cycle
/-- The bundles a core has issued in this cycle. -/
def State.issuedNow (s : State) (core : Nat) : Nat :=
  match s.cores[core]? with
  | some c => if c.issued.1 == s.cycle then c.issued.2 else 0
  | none => 0
def State.coreOf (s : State) (b : Nat) : Nat := ((s.blocks[b]?).map (·.core)).getD 0
/-- It is a bundle's turn to issue: fewer than eight of its core have issued in this cycle, and none that comes before it waits
(01 R38). -/
def State.mayIssue (s : State) (bd : Bundle) : Bool :=
  s.canIssue bd && decide (s.issuedNow (s.coreOf bd.blk) < 8) &&
  s.bundles.all fun y => !(s.canIssue y && s.coreOf y.blk == s.coreOf bd.blk && y.before bd)
/-- Note the issue of a bundle (01 R38). -/
def State.noteIssue (s : State) (bd : Bundle) : State :=
  let n := s.issuedNow (s.coreOf bd.blk)
  (s.modBundle bd.id fun x => { x with issued := some s.cycle }).modCore (s.coreOf bd.blk) fun c => { c with issued := (s.cycle, n + 1) }

/-- The turn of a bundle: the instruction it executes, fetched and decoded at its PC once its stores and its fetch wait for no walk; a
word that code has been changed to since the clause was checked, and that is bad, is reported as the check would (log 89). -/
def State.bundleTurn (s : State) (n : Nat) : State × Option Instr :=
  let s := { s with cur := .bundle n }
  match s.curBundle with
  | none => (s, none)
  | some bd =>
    if !s.mayIssue bd then (s, none)
    else match s.blocks[bd.blk]? with
      | none => (s, none)
      | some k => match s.farCode k true with
        | some ea => ((s.noteIssue bd).askWalk ea, none)
        | none => match s.walkNeed bd.blk k true bd.lanes bd.pc, s.fetchWord k true bd.pc with
          | some need, _ => ((s.noteIssue bd).awaitNeed need, none)
          | none, .ok w => match decode w with
            | .ok i => (s.noteIssue bd, some i)
            | .error .opcode => ((s.checkFault bd.blk bd.lanes bd.hdr bd.idx Code.illegalOpcode).dissolve bd, none)
            | .error .encoding => ((s.checkFault bd.blk bd.lanes bd.hdr bd.idx Code.illegalEncoding).dissolve bd, none)
          | none, f => ((s.fetchFault bd.blk bd.lanes f bd.pc).endFetch bd, none)

/-- The sequencer may move: its block runs, or its instruction has asked another package and completes at a debug stop or a save (08
R231, R236); its stream has not ended, it does not wait (14 R396), and it has not issued in this cycle (01 R30). -/
def State.seqMoves (s : State) (b : Nat) (k : Block) : Bool :=
  (s.forms b || (!k.dead && s.asking [1, b])) && !k.seq.ended && k.seq.wait == .none && k.stepWait.isNone && k.seq.issued != some s.cycle

/-- The sequencer's fetch fails: it waits for the page, or its block halts (14 R395). -/
def State.seqFetchFault (s : State) (b : Nat) (f : Fetch) (pc : DWord) : State :=
  match f with
  | .absent => (s.modSeq b fun q => { q with wait := .fault pc.toNat }).faultRecord b 1 0 pc.toNat .fetch
  | .wait ea => s.askWalk ea
  | .ok _ => s
  | f => s.haltSeq b f.code pc

/-- The turn of a sequencer: at a header it enters the clause when the thresholds hold and the check passes (02 R56, R88); the check is
made on every turn there, so before the thresholds hold it (log 95). Inside, the instruction it executes. -/
def State.seqTurn (s : State) (b : Nat) : State × Option Instr :=
  let s := { s with cur := .sequencer b }
  match s.resident? b with
  | none => (s, none)
  | some k =>
    if !s.seqMoves b k then (s, none)
    else
    let tried := s.modSeq b fun q => { q with issued := some s.cycle }
    match s.farCode k false with
    | some ea => (tried.askWalk ea, none)
    | none => if (s.walkNeed b k false [] k.seq.pc).isSome then (tried, none)
    else if k.seq.idx = 0 then
      if !s.targetOk k false k.seq.hdr then (s.haltSeq b Code.illegalTarget k.seq.hdr, none)
      else match s.fetchClause k false k.seq.hdr with
        | .inr (f, pc) => (s.seqFetchFault b f pc, none)
        | .inl ws =>
          let h := Hdr.of (ws.headD 0)
          match clauseFault false ws with
          | some (i, c) => (s.haltBlock b c false i none k.seq.hdr 0 0, none)
          | none =>
            if (h.tl == 15 || decide (k.cntTl ≤ h.tl)) && (h.cp == 15 || decide (k.cntCp ≤ h.cp)) then
              ((s.fetchFill k false k.seq.hdr h.n).modSeq b fun q => { q with idx := 1, last := h.n }, none)
            else (tried, none)
    else match s.fetchWord k false k.seq.pc with
      | .ok w => match decode w with
        | .ok i => (tried, some i)
        | .error .opcode => (s.haltBlock b Code.illegalOpcode false k.seq.idx none k.seq.hdr 0 0, none)
        | .error .encoding => (s.haltBlock b Code.illegalEncoding false k.seq.idx none k.seq.hdr 0 0, none)
      | f => (s.seqFetchFault b f k.seq.pc, none)

/-- The turn an empty agenda gives (log 8): the first bundle that may issue, else the first sequencer, else one cycle and one
count of time. -/
def State.defaultTurn (s : State) : Turn :=
  match s.bundles.find? s.mayIssue with
  | some x => .bundle x.id
  | none => match (List.range s.blocks.length).find? fun b => match s.resident? b with
      | some k => s.seqMoves b k
      | none => false with
    | some b => .sequencer b
    | none => .time 1 1

/-- The next turn, taken off the agenda. -/
def State.nextTurn (s : State) : Turn × State :=
  match s.agenda with
  | t :: ts => (t, { s with agenda := ts })
  | [] => (s.defaultTurn, s)

/-! ### REG_DEADLOCK (04 R112) -/

/-- The condition of 04 R112 but for its duration. -/
def State.regStuck (s : State) (k : Block) : Bool :=
  let live := (k.threads.zipIdx).filter fun x => x.1.live
  live.all (fun x => s.isParked k x.2 x.1) &&
  live.any (fun x => match x.1.status with
    | .parked (.grow _) => true
    | _ => false) &&
  live.all (fun x => match x.1.status with
    | .parked (.sleep _) | .parked (.syscall _ _ _) => false
    | _ => true) &&
  (k.seq.ended || match k.seq.wait with
    | .barrier _ _ | .cbar _ => true
    | _ => false)

/-- REG_DEADLOCK: raised when the condition holds and the core's pool has not grown for 65,536 cycles (04 R112). Its record names
the lowest TID parked on GROW (log 20). -/
def execRegDeadlock (b : Nat) (s : State) : Res :=
  .next <| match s.resident? b with
    | some k =>
      if k.halt.isNone && s.regStuck k && decide (((s.cores[k.core]?).map (·.grew)).getD 0 + 65536 ≤ s.cycle) then
        match (List.range k.threads.length).find? fun i => match k.threads[i]?.map (·.status) with
          | some (.parked (.grow _)) => true
          | _ => false with
        | some t => s.haltBlock b Code.regDeadlock false 0 (some t) (((k.threads[t]?).map (·.pc)).getD 0) 0 0
        | none => s
      else s
    | none => s

end Sys2Proof.Machine
end

