-- ==== Sys2Proof/Machine/MemInstr.lean ====
section
/-! DEFINITION. The memory instructions at their own thread: addresses, translation, the L1, the region store buffer, requests
and their counters (spec/10 R269–R291, spec/09 R242–R247, R259, spec/08 R210–R214). The homes answer in `MemEvents`. -/

namespace Sys2Proof.Machine

/-! ### L1 (09 R242–R247, R250) -/

/-- The 64 KiB units of a core's array that no resident block holds (09 R242). -/
def State.l1Units (s : State) (c : Nat) : List Nat :=
  (List.range 16).filter fun u => !(s.blocks.any fun k => k.core == c && k.place == .live && k.units.contains u)
/-- The set in which a superblock is filled, 16 to each unit of the L1 (09 R242, R245; log 6). -/
def State.l1Set (s : State) (c sb : Nat) : Nat :=
  let us := s.l1Units c
  let h := Config.cacheSet (16 * us.length) sb % (16 * us.length)
  16 * us.getD (h / 16) 0 + h % 16
/-- Insert a superblock number so that `pos` others of its set come before it. -/
def insertSb (same : Nat → Bool) (pos n : Nat) : List Nat → List Nat
  | [] => [n]
  | y :: t => if same y then (if pos = 0 then n :: y :: t else y :: insertSb same (pos - 1) n t) else y :: insertSb same pos n t
/-- Put a line into an L1, its superblock at `pos` of its set; a ninth superblock of the set is evicted whole (09 R245). -/
def l1Put (l : List L1Line) (pos : Nat) (x : L1Line) : List L1Line :=
  let sb := x.line / 4
  let group := x :: l.filter (fun y => y.line / 4 == sb && y.line != x.line)
  let rest := l.filter fun y => y.line / 4 != sb
  let same := fun (n : Nat) => n == sb || rest.any fun y => y.line / 4 == n && y.set == x.set
  let order := insertSb same pos sb ((rest.map fun y => y.line / 4).eraseDups)
  let mine := order.filter same
  let out := if 8 < mine.length then mine.getLast? else none
  (order.filter fun n => some n != out).flatMap fun n => if n == sb then group else rest.filter fun y => y.line / 4 == n
/-- The line of an L1. -/
def State.l1Line (s : State) (c line : Nat) : Option L1Line := ((s.cores[c]?.map (·.l1)).getD []).find? fun x => x.line == line
/-- The acknowledgements on their way to a core are older than bytes that its L1 takes now: they leave these alone (11 R297). -/
def State.l1Mask (s : State) (c line off n : Nat) : State :=
  s.modHomes fun h => { h with rets := h.rets.map fun r =>
    if !r.load && r.core == c && !r.spad && s.homeLine r.line == s.homeLine line then
      { r with part := { r.part with fmask := (List.range r.part.bytes).foldl (fun (m : BitVec 16) i =>
          if decide (off ≤ r.part.off + i) && decide (r.part.off + i < off + n) then m &&& ~~~ BitVec.ofNat 16 (2 ^ i) else m) r.part.fmask } } else r }
/-- The position that an EVICT code gives a fill of an L1; a chain-tagged one goes to MRU (09 R250). -/
def l1Pos (evict chain : Nat) : Nat := if chain != 0 && evict != 7 then 0 else evict
/-- A fill at a position (09 R250): 7 allocates nothing. A superblock that is there keeps its set. -/
def State.l1Fill (s : State) (c pos : Nat) (x : L1Line) : State :=
  let s := s.l1Mask c x.line 0 128
  let l := (s.cores[c]?.map (·.l1)).getD []
  let x := { x with set := ((l.find? fun y => y.line / 4 == x.line / 4).map (·.set)).getD (s.l1Set c (x.line / 4)) }
  if pos = 7 then s.modCore c fun k => { k with l1 := k.l1.map fun y => if y.line == x.line then x else y }
  else s.modCore c fun k => { k with l1 := l1Put k.l1 pos x }
/-- A hit moves the superblock to MRU, but with EVICT 7 (09 R250). -/
def State.l1Hit (s : State) (c evict : Nat) (x : L1Line) : State :=
  if evict = 7 then s else s.modCore c fun k => { k with l1 := l1Put k.l1 0 x }
/-- Bytes of a store written over those of a line, where the mask has them. -/
def maskPut (l : List Byte) (off : Nat) (mask : BitVec 16) (bs : List Byte) : List Byte :=
  bs.zipIdx.foldl (fun l x => if mask.getLsbD x.2 then l.set (off + x.2) x.1 else l) l
/-- A line that is present takes bytes that a store has written at its home (09 R246). -/
def State.l1Take (s : State) (c line off : Nat) (mask : BitVec 16) (bs : List Byte) : State :=
  let put := fun (l : L1Line) =>
    if s.homeLine l.line == s.homeLine line then { l with data := maskPut l.data off mask bs } else l
  s.modCore c fun k => { k with l1 := k.l1.map put }
/-- A store of a core's sequencer to an address of one line updates the line in its L1 (09 R246, 14 R395). -/
def State.l1Store (s : State) (c pa : Nat) (bs : List Byte) : State :=
  (s.l1Mask c (pa / 128) (pa % 128) bs.length).l1Take c (pa / 128) (pa % 128) (BitVec.ofNat 16 (2 ^ bs.length - 1)) bs
/-- The line that a request of a core to another package would fill, once it has been sent. -/
def State.comes (s : State) (r : Req) : Option L1Line :=
  match s.phys (128 * r.line) with
  | .remote _ => if r.spadBlk.isNone && r.fills && s.homes.remotes.any (fun m => m.who.take 2 == [0, r.id]) then
      some ⟨r.line, 0, [], r.op == .ldro || r.op == .pref true, ((s.blocks[r.blk]?).map (·.launch)).getD 0, false⟩ else none
  | _ => none
/-- The line that a load of a core's sequencer from another package would fill. -/
def State.seqComes (s : State) (c : Nat) (r : Remote) : Option L1Line :=
  match r.who, r.packet with
  | [1, b, 7], .read _ a _ _ => (s.blocks[b]?).bind fun k =>
      if k.core == c then some ⟨(r.pkg * 2 ^ 42 + a) / 128, 0, [], false, k.launch, false⟩ else none
  | _, _ => none
/-- Answers of other packages to requests that a core has sent fill none of the lines that a test selects: the home may have read them
before (11 R298, R303). -/
def State.stopFills (s : State) (c : Nat) (p : L1Line → Bool) : State :=
  s.modHomes fun h => { h with
    reqs := h.reqs.map fun r => if r.core == c && (s.comes r).any p then { r with fills := false } else r
    remotes := h.remotes.map fun r => if (s.seqComes c r).any p then { r with fills := false } else r }
/-- Invalidate the lines a test selects. -/
def State.l1Drop (s : State) (c : Nat) (p : L1Line → Bool) : State :=
  (s.modCore c fun k => { k with l1 := k.l1.filter fun x => !p x }).stopFills c p
/-- The generic lines that a test selects hold what a later read must not return: they stay, and no load finds them (11 R298, R304; log
24). -/
def State.l1Stale (s : State) (c : Nat) (p : L1Line → Bool) : State :=
  (s.modCore c fun k => { k with l1 := k.l1.map fun x => if p x && !x.ro then { x with stale := true } else x }).stopFills c fun x => p x && !x.ro
/-- An acquire at CLUSTER scope or wider invalidates what the generic path filled (09 R246). -/
def Scope.wide : Scope → Bool
  | .thread | .block => false
  | _ => true
def State.acquireL1 (s : State) (c : Nat) (sc : Scope) : State := if Scope.wide sc then s.l1Drop c fun x => !x.ro else s

/-! ### Walks (09 R259) -/

/-- A miss joins the walk of its page, or starts one when the cluster's walker has room (09 R259). -/
def State.missWalk (s : State) (c ctx : Nat) (w : Nat × Nat × Nat × Nat) : State :=
  let va := w.2.2.1
  let same := fun (x : Walk) => x.core == c && x.ctx == ctx && x.va / 2 ^ 16 == va / 2 ^ 16
  if s.homes.walks.any same then
    s.modHomes fun h => { h with walks := h.walks.map fun x => if same x && !x.who.contains w then { x with who := x.who ++ [w] } else x }
  else if s.walksOf c < 8 then
    let (s, id) := s.newId
    s.modHomes fun h => { h with walks := h.walks ++ [⟨id, c, ctx, s.ctxReg ctx, va, [w]⟩] }
  else s

/-! ### Targets of an access -/

/-- Where a lane's access goes. -/
inductive Tgt where
  | mem (pa : Nat) (code : Bool) | mmio (pa : Nat) | spad (blk off : Nat) | fault (code : Nat) | miss
  deriving DecidableEq, Repr

/-- The target of a translated access (09 R257, 10 R280, R288). A persist access to a hole raises PHYS_HOLE, not PROT_FAULT (log 94). -/
def State.tgtOf (s : State) (pers : Bool) (x : Xlate) : Tgt :=
  match x with
  | .ok pa code =>
    let loc := fun (p : Phys) => match p with
      | .hbm _ => if pers then Tgt.fault Code.protFault else .mem pa code
      | .scm _ => .mem pa code
      | .mmio _ => .mmio pa
      | _ => .fault Code.physHole
    match s.phys pa with
    | .remote _ => loc (localPhys (pa % 2 ^ 42))
    | p => loc p
  | .prot => .fault Code.protFault
  | .lost => .fault Code.linkLost
  | _ => .miss

/-- The spaces a memory instruction names: virtual memory by a path, the own window, the cluster's windows. -/
inductive Space where
  | virt (path : Path) (a : Acc) | own | cluster
  deriving DecidableEq, Repr

/-- A memory instruction's form: guard, address pair, offset in bytes, bytes of the access (0: a line, not checked for
alignment), space, singleton, the counters it raises, whether it waits for earlier writes, and the registers it needs. -/
structure MemOp where
  guard : Guard
  addr  : Nat
  off   : Int
  bytes : Nat
  space : Space
  single : Bool
  ld    : Bool
  st    : Bool
  waitW : Bool
  need  : Nat
  q     : Bool
  kaddr : Option Nat := none
  deriving DecidableEq, Repr

/-- The effective address of a lane (02 R76); SIGNAL may take it from a K register (16 R448). -/
def MemOp.ea (o : MemOp) (k : Block) (t : Thread) : Nat :=
  match o.kaddr with
  | some m => (k.kreg m).toNat
  | none => (BitVec.ofInt 64 ((t.regW o.addr 2 : Int) + o.off)).toNat
/-- The target of a lane's access, with the alignment check (10 R272). A CCTL's target outside memory is no fault: the operation
has no effect there (10 R287). -/
def State.memTgt (s : State) (b : Nat) (k : Block) (o : MemOp) (ea : Nat) : Tgt :=
  if o.bytes != 0 && ea % o.bytes != 0 then .fault Code.misaligned
  else match o.space with
    | .virt path a =>
      match s.tgtOf (path == .pers) (s.xlateTlb k.core (s.ctxOf k) ea a) with
      | .fault c => if path == .ro && o.bytes == 0 && c == Code.physHole then .mmio 0 else .fault c
      | .mmio pa => if path == .ro && o.bytes == 0 then .mmio 0 else if (o.bytes == 4 || o.bytes == 8) && a != .atomic && path == .gen then .mmio pa else .fault Code.protFault
      | x => x
    | .own => match s.ownSpad b ea o.bytes with
      | some x => .spad x.1 x.2
      | none => .fault Code.spadBounds
    | .cluster => match s.spadTarget b ea o.bytes with
      | some x => .spad x.1 x.2
      | none => .fault Code.spadBounds

/-- The access kind of a space. -/
def Space.acc : Space → Acc
  | .virt _ a => a
  | _ => .read

/-- A memory instruction of a bundle: bounds, counter limits, the order holds, the commit before a singleton, translation of
every lane, and then `go` on the lanes that may act, each with its address and target. While a lane must wait, the bundle
stays at the instruction. A lane that reaches MMIO commits its region first; no lane of a meet bundle acts where a commit has
struck one of them (10 R273–R277, 09 R259). -/
def State.memOp (s : State) (o : MemOp) (go : State → Bundle → Block → List (Nat × Nat × Tgt) → State) : State :=
  s.onBundle fun bd =>
    let th := fun (s : State) (t : Nat) (f : Thread → Bool) => ((s.thread? bd.blk t).map f).getD false
    let s := (s.active bd o.guard).foldl (fun (s : State) t =>
      if th s t fun x => decide (x.regs < o.need) then s.haltLane bd t Code.regBounds 0 else s) s
    let full := (s.active bd o.guard).filter fun t => th s t fun x => (o.ld && x.cntLd == 63) || (o.st && x.cntSt == 63)
    let s := full.foldl (fun (s : State) t => s.park bd.blk t bd.pc
      (.limit (th s t fun x => o.ld && x.cntLd == 63) (th s t fun x => o.st && x.cntSt == 63))) s
    if bd.meet && !full.isEmpty then s.endOf bd false fun _ => none
    else if (s.active bd o.guard).any (fun t => th s t fun x => x.blocked != 0) then s
    else
      let s := if o.single then s.commitLanes bd o.guard else s
      if o.waitW && (s.active bd o.guard).any (fun t => s.writesPending bd.blk t) then s
      else match s.blocks[bd.blk]? with
        | none => s
        | some k =>
          let ls := (s.active bd o.guard).filterMap fun t => (k.threads[t]?).map fun x =>
            (t, o.ea k x, s.memTgt bd.blk k o (o.ea k x))
          if ls.any fun x => x.2.2 == .miss then
            let s := ls.foldl (fun (s : State) x =>
              if x.2.2 == .miss then s.missWalk k.core (s.ctxOf k) (bd.blk, x.1, x.2.1, o.space.acc.code) else s) s
            if o.q then
              (ls.filter fun x => x.2.2 == .miss).foldl (fun (s : State) m => ls.foldl (fun (s : State) x =>
                if x.2.2 == .miss && x.2.1 / 2 ^ 16 == m.2.1 / 2 ^ 16 then s
                else s.missWalk k.core (s.ctxOf k) (bd.blk, x.1, m.2.1 / 2 ^ 16 * 2 ^ 16, 16)) s) s
            else s
          else
            let s := ls.foldl (fun (s : State) x => match x.2.2 with
              | .fault c => s.haltLane bd x.1 c (BitVec.ofNat 64 x.2.1)
              | .mem _ _ | .mmio _ => s.tlbUse k.core (s.ctxOf k) x.2.1
              | _ => s) s
            let dev := ls.filterMap fun x => match x.2.2 with
              | .mmio _ => some x.1
              | _ => none
            let s := if o.single then s else s.commitAll bd.blk dev bd.pc
            let ls := if s.struck bd then [] else ls.filter fun x => match x.2.2 with
              | .fault _ => false
              | _ => true
            (go s bd k ls).endPlain bd

/-! ### Requests -/

/-- The line, target window and offset of a target. -/
def Tgt.place : Tgt → Nat × Option Nat × Nat × Bool
  | .mem pa c => (pa / 128, none, pa % 128, c)
  | .mmio pa => (pa / 128, none, pa % 128, false)
  | .spad b off => (off / 128, some b, off % 128, false)
  | _ => (0, none, 0, false)

/-- A lane's part, with the tags its return or acknowledgement carries (04 R120). -/
def mkPart (s : State) (bd : Bundle) (t : Thread) (tid ea : Nat) (g : Tgt) (bytes : Nat) (dst : Option Nat) : Part :=
  let top := (dst.map fun n => n + max 1 (bytes / 4)).getD 0
  ⟨tid, t.slotTag, t.grantTag (top - 1), t.region, s.homes.nextId, bd.pc, ea, g.place.2.2.1, bytes, dst, 0, 0, 0, 0, t.epoch⟩

/-- What the requests of one instruction share. -/
structure ReqForm where
  op    : ReqOp
  path  : Path
  evict : Nat
  order : Order
  scope : Scope
  deriving DecidableEq, Repr

/-- One request for each distinct line, its lanes in ascending order (10 R273). -/
def State.sendReqs (s : State) (bd : Bundle) (k : Block) (f : ReqForm) (xs : List (Tgt × Part)) : State :=
  let key := fun (x : Tgt × Part) => (x.1.place.1, x.1.place.2.1)
  let clk := if f.order == .sc then ((s.cores[k.core]?).map (·.clk)).getD 0 else 0
  ((xs.map key).eraseDups).foldl (fun (s : State) l =>
    let mine := xs.filter fun x => key x == l
    let (s, id) := s.newId
    s.modHomes fun h => { h with
      reqs := h.reqs ++ [⟨id, bd.blk, k.core, s.cycle, f.op, l.1, l.2, f.path, f.evict, f.order, f.scope,
        mine.any (fun x => x.1.place.2.2.2), clk, true, mine.map (·.2)⟩] }) s

/-- The point of coherence of a line, or of a scratchpad: slice, SCM controller, core's array, other package, device registers
(09 R248, 11 R295). -/
def State.homeKey (s : State) (line : Nat) (spadBlk : Option Nat) : Option (Nat × Nat) :=
  match spadBlk with
  | some o => some (2, ((s.blocks[o]?).map (·.core)).getD 0)
  | none => match s.homeAt (s.phys (128 * line)) with
    | .hbm a => some (0, s.sliceOf a)
    | .scm a => some (1, iodOf a)
    | .remote p => some (3, p)
    | .mmio _ => some (4, 0)
    | .hole => none
/-- A return or acknowledgement on its way from a home; `home` is nothing where the core answers itself. -/
def State.addRet (s : State) (b core : Nat) (load atom : Bool) (line : Nat) (spad : Bool) (p : Part) (o : Order) (sc : Scope) (clk : DWord)
    (home : Option (Nat × Nat)) : State :=
  let (s, id) := s.newId
  s.modHomes fun h => { h with rets := h.rets ++ [⟨id, b, core, load, atom, line, spad, p, o, sc, clk, home⟩] }

/-! ### Forwarding from the region store buffer (08 R212) -/

/-- The byte of a buffered store that byte `i` of an access reads, if any: of the same window, or the same virtual or physical address
(08 R212, 11 R298). -/
def State.storeByte (s : State) (b : Nat) (k : Block) (x : BufStore) (g : Tgt) (ea i : Nat) : Option Nat :=
  let within := fun (at' a : Nat) => if at' ≤ a && decide (a < at' + x.size.bytes) then some (a - at') else none
  if x.sts || x.path == .spad then
    match (if x.sts then s.spadTarget b x.addr x.size.bytes else some (b, x.addr)), g with
    | some y, .spad o off => if y.1 == o then within y.2 (off + i) else none
    | _, _ => none
  else match g with
    | .spad _ _ => none
    | .mem pa _ => match within x.addr (ea + i), s.xlateAt (some k.core) (s.ctxOf k) x.addr .write with
      | some j, _ => some j
      | none, .ok px _ => within px (pa + i)
      | none, _ => none
    | _ => within x.addr (ea + i)
/-- The bytes of a load that the thread's own buffered stores give, as mask and data: the youngest of each (08 R212). -/
def State.forward (s : State) (b : Nat) (k : Block) (t : Thread) (g : Tgt) (ea n : Nat) : BitVec 16 × Nat :=
  (List.range n).foldl (fun (acc : BitVec 16 × Nat) i =>
    match t.stores.reverse.findSome? fun x => (s.storeByte b k x g ea i).map fun j => nfld x.data.toNat (8 * j) 8 with
    | some v => (acc.1 ||| BitVec.ofNat 16 (2 ^ i), acc.2 + v * 2 ^ (8 * i))
    | none => acc) (0, 0)
/-- Bytes of memory with the forwarded bytes over them. -/
def mergeFwd (mask : BitVec 16) (fwd mem n : Nat) : Nat :=
  ofBytes ((List.range n).map fun i => BitVec.ofNat 8 (nfld (if mask.getLsbD i then fwd else mem) (8 * i) 8))

/-! ### Loads (10 R276–R279) -/

/-- An access of the thread to the line has not been performed, or a write of it has not been acknowledged: a later read of
the thread must not return an older write (11 R298). -/
def State.writesLine (s : State) (b tid line : Nat) : Bool :=
  s.homes.reqs.any (fun r => r.blk == b && s.homeLine r.line == s.homeLine line && r.spadBlk.isNone && r.parts.any (fun p => p.tid == tid) &&
    (match r.op with
      | .store | .atomic _ | .load => true
      | _ => false)) ||
  s.homes.rets.any fun r => !r.load && r.blk == b && s.homeLine r.line == s.homeLine line && !r.spad && r.part.tid == tid

/-- The L1 line a load may read: generic loads hit no read-only line and need no wider acquire (09 R247, 11 R299); LDRO hits a
line its own kernel marked. -/
def State.l1For (s : State) (k : Block) (b tid : Nat) (f : ReqForm) (g : Tgt) : Option L1Line :=
  match g with
  | .mem pa _ =>
    if s.writesLine b tid (pa / 128) then none
    else (s.l1Line k.core (pa / 128)).filter fun x =>
      if f.path == .ro then x.ro && x.launch == k.launch
      else f.path == .gen && !x.ro && !x.stale && (f.order == .rlx || (f.order == .acq && !Scope.wide f.scope))
  | _ => none

def Dst.num : Dst → Option Nat
  | .v n => some n.val
  | _ => none

/-- The L1 line that serves the lanes of one instruction on the line of a target: one that every one of them may read (10 R273). -/
def State.l1Serves (s : State) (k : Block) (b : Nat) (f : ReqForm) (ls : List (Nat × Nat × Tgt)) (g : Tgt) : Option L1Line :=
  if ls.all fun y => y.2.2.place.1 != g.place.1 || (s.l1For k b y.1 f y.2.2).isSome
  then ls.findSome? fun y => if y.2.2.place.1 == g.place.1 then s.l1For k b y.1 f y.2.2 else none else none

/-- Loads of the lanes that may act: forwarding, L1 hits and requests; the counts (10 R273–R276). -/
def State.loads (s : State) (bd : Bundle) (k : Block) (f : ReqForm) (bytes : Nat) (dst : Option Nat) (own : Bool)
    (ls : List (Nat × Nat × Tgt)) : State :=
  let hold := b2n (f.order == .acq || f.order == .sc)
  let serves := if own then fun _ => none else s.l1Serves k bd.blk f ls
  let r := ls.foldl (fun (acc : State × List (Tgt × Part)) x =>
    let s := acc.1
    match s.thread? bd.blk x.1 with
    | none => (s, acc.2)
    | some t =>
      if t.status != .issued then (s, acc.2)
      else
        let fw := s.forward bd.blk k t x.2.2 x.2.1 bytes
        let p := { mkPart s bd t x.1 x.2.1 x.2.2 bytes dst with fmask := fw.1, fdata := BitVec.ofNat 128 fw.2 }
        let s := s.modThread bd.blk x.1 fun t => { t with cntLd := t.cntLd + 1, blocked := t.blocked + hold }
        if fw.1.toNat = 2 ^ bytes - 1 then
          (s.addRet bd.blk k.core true false 0 true { p with data := p.fdata } f.order f.scope 0 none, acc.2)
        else match serves x.2.2 with
          | some l =>
            let v := mergeFwd fw.1 fw.2 (ofBytes ((l.data.drop p.off).take bytes)) bytes
            ((s.l1Hit k.core f.evict l).addRet bd.blk k.core true false l.line false { p with data := BitVec.ofNat 128 v } f.order f.scope 0 none, acc.2)
          | none => (s, acc.2 ++ [(x.2.2, p)])) (s, [])
  r.1.sendReqs bd k f r.2

/-- The form of a load. -/
def loadOp (g : Guard) (d : Dst) (m : MemF) (sp : Space) : MemOp :=
  { guard := g, addr := m.addr.val, off := m.off.toInt * m.size.bytes, bytes := m.size.bytes, space := sp
    single := m.order != .rlx, ld := true, st := false, waitW := m.order == .sc
    need := max (m.addr.val + 2) ((Dst.num d).elim 0 fun n => n + max 1 (m.size.bytes / 4)), q := false }

/-- LD (10 R276). -/
def execLd (g : Guard) (d : Dst) (m : MemF) (s : State) : Res :=
  .next (s.memOp (loadOp g d m (if m.path == .spad then .own else .virt m.path .read)) fun s bd k ls =>
    s.loads bd k ⟨.load, m.path, m.evict.val, m.order, m.scope⟩ m.size.bytes (Dst.num d) (m.path == .spad) ls)
/-- LDRO (10 R279). -/
def execLdro (g : Guard) (d : Dst) (m : MemF) (s : State) : Res :=
  .next (s.memOp (loadOp g d m (.virt .ro .read)) fun s bd k ls =>
    s.loads bd k ⟨.ldro, .ro, m.evict.val, .rlx, .thread⟩ m.size.bytes (Dst.num d) false ls)
/-- LDS (10 R278). -/
def execLds (g : Guard) (d : Dst) (m : MemF) (s : State) : Res :=
  .next (s.memOp (loadOp g d m .cluster) fun s bd k ls =>
    s.loads bd k ⟨.load, .spad, 0, m.order, m.scope⟩ m.size.bytes (Dst.num d) true ls)

/-! ### Operands from queues (12 R324–R326, R329) -/

/-- Pop the data of the lanes of a memory instruction from a queue: the lanes that have their value, the others parked or
halted (12 R324, R326). -/
def State.popData (s : State) (bd : Bundle) (q words : Nat) (lanes : List Nat) : State × List (Nat × Nat) :=
  match (if lanes.isEmpty then none else s.blocks[bd.blk]?) with
  | none => (s, [])
  | some k =>
    let o : VOp := ⟨0, [(.q (Fin.ofNat 16 q), words)], [], .none, false, false⟩
    match k.queueFault o bd.meet with
    | some c => (lanes.foldl (fun (s : State) t => s.haltLane bd t c 0) s, [])
    | none =>
      if (k.queue q).row then
        if (k.queueWait o 1).isSome then (lanes.foldl (fun (s : State) t => s.park bd.blk t bd.pc (.queue q)) s, [])
        else
          let r := k.pop q
          ((s.modBlock bd.blk fun _ => r.1).wakeQueue bd.blk q, lanes.map fun t => (t, r.2.getD (t % 8) 0))
      else
        lanes.foldl (fun (acc : State × List (Nat × Nat)) t =>
          match acc.1.blocks[bd.blk]? with
          | none => acc
          | some k =>
            if (k.queueWait o 1).isSome then (acc.1.park bd.blk t bd.pc (.queue q), acc.2)
            else let r := k.pop q; ((acc.1.modBlock bd.blk fun _ => r.1).wakeQueue bd.blk q, acc.2 ++ [(t, r.2.getD 0 0)])) (s, [])

/-! ### Stores (10 R277, R278, 08 R212) -/

/-- Buffered stores of every thread of a core (08 R212). -/
def State.bufUsed (s : State) (c : Nat) : Nat :=
  s.blocks.foldl (fun n k => if k.core == c && k.place == .live then k.threads.foldl (fun n t => n + t.stores.length) n else n) 0

/-- A relaxed store enters the buffer; the 33rd of a region is a fault, even where the buffer is full as well, and a full buffer commits
the region early (08 R212; log 84). -/
def State.bufferStore (s : State) (bd : Bundle) (core tid : Nat) (x : BufStore) : State :=
  match s.thread? bd.blk tid with
  | none => s
  | some t =>
    if 32 ≤ t.stores.length then s.haltLane bd tid Code.regionOverflow (BitVec.ofNat 64 x.addr)
    else
      let r := if 2048 ≤ s.bufUsed core then s.commitRegion bd.blk tid bd.pc else (s, true)
      if r.2 then r.1.modThread bd.blk tid fun t => { t.goto bd.pc with stores := t.stores ++ [x], cntSt := t.cntSt + 1 }
      else r.1

/-- A store's data: the value of each lane that has it. -/
def State.storeData (s : State) (bd : Bundle) (x : StData) (words : Nat) (lanes : List Nat) : State × List (Nat × Nat) :=
  match x with
  | .v n => (s, lanes.filterMap fun t => (s.thread? bd.blk t).map fun th => (t, th.regW n.val words))
  | .q n => s.popData bd n.val words lanes

def StData.isQ : StData → Bool
  | .q _ => true
  | _ => false
def StData.top : StData → Nat → Nat
  | .v n, w => n.val + w
  | .q _, _ => 0

/-- Stores of the lanes that may act: buffered when relaxed, at once otherwise (10 R275, R277). -/
def State.stores (s : State) (bd : Bundle) (k : Block) (f : ReqForm) (x : StData) (size : Size) (sts : Bool)
    (ls : List (Nat × Nat × Tgt)) : State :=
  let bytes := size.bytes
  let r := s.storeData bd x (max 1 (bytes / 4)) (ls.map (·.1))
  let hold := b2n (f.order == .sc)
  let r := ls.foldl (fun (acc : State × List (Tgt × Part)) l =>
    match r.2.find? fun y => y.1 == l.1 with
    | none => acc
    | some (_, v) =>
      let data := BitVec.ofNat 128 (v % 2 ^ (8 * bytes))
      let mmio := match l.2.2 with
        | .mmio _ => true
        | _ => false
      if f.order == .rlx && !StData.isQ x && !mmio then
        (acc.1.bufferStore bd k.core l.1 ⟨l.2.1, size, f.path, sts, data, f.evict⟩, acc.2)
      else
        let s := acc.1
        match s.thread? bd.blk l.1 with
        | none => (s, acc.2)
        | some t =>
          if t.status != .issued then (s, acc.2)
          else (s.modThread bd.blk l.1 fun t => { t with cntSt := t.cntSt + 1, blocked := t.blocked + hold },
            acc.2 ++ [(l.2.2, { mkPart s bd t l.1 l.2.1 l.2.2 bytes none with data := data })])) (r.1, [])
  r.1.sendReqs bd k f r.2

/-- The form of a store. -/
def storeOp (g : Guard) (x : StData) (m : MemF) (sp : Space) : MemOp :=
  { guard := g, addr := m.addr.val, off := m.off.toInt * m.size.bytes, bytes := m.size.bytes, space := sp
    single := m.order != .rlx || StData.isQ x, ld := false, st := true, waitW := m.order == .rel || m.order == .sc
    need := max (m.addr.val + 2) (StData.top x (max 1 (m.size.bytes / 4))), q := StData.isQ x }

/-- ST (10 R277). -/
def execSt (g : Guard) (x : StData) (m : MemF) (s : State) : Res :=
  .next (s.memOp (storeOp g x m (if m.path == .spad then .own else .virt m.path .write)) fun s bd k ls =>
    s.stores bd k ⟨.store, m.path, m.evict.val, m.order, m.scope⟩ x m.size false ls)
/-- STS (10 R278). -/
def execSts (g : Guard) (x : StData) (m : MemF) (s : State) : Res :=
  .next (s.memOp (storeOp g x m .cluster) fun s bd k ls =>
    s.stores bd k ⟨.store, .spad, 0, m.order, m.scope⟩ x m.size true ls)

/-! ### Atomics (10 R281–R284) -/

/-- The operand of an atomic for the lanes that have it, with CAS's second operand. -/
def State.atomData (s : State) (bd : Bundle) (x : Src) (words : Nat) (cas : Bool) (lanes : List Nat) : State × List (Nat × Nat × Nat) :=
  match x with
  | .v n _ => (s, lanes.filterMap fun t => (s.thread? bd.blk t).map fun th =>
      (t, th.regW n.val words, if cas then th.regW (n.val + words) words else 0))
  | .k _ => match s.blocks[bd.blk]? with
      | some k => (s, lanes.filterMap fun t => (s.thread? bd.blk t).map fun th => (t, srcRead x words k th, 0))
      | none => (s, [])
  | .q n => let r := s.popData bd n.val words lanes; (r.1, r.2.map fun y => (y.1, y.2, 0))

/-- An atomic with its operation number, the opcode of 02 R85. -/
def State.atomOp (s : State) (op : Nat) (g : Guard) (d : Dst) (m : AtomF) : State :=
  let words := m.size.bytes / 4
  let cas := op == 0x8E
  let isQ := match m.opnd with
    | .q _ => true
    | _ => false
  let ld := (Dst.num d).isSome
  let o : MemOp :=
    { guard := g, addr := m.addr.val, off := 0, bytes := m.size.bytes, space := .virt .gen .atomic, single := true, ld := ld, st := !ld
      waitW := m.order == .rel || m.order == .sc
      need := max (m.addr.val + 2) (max ((Dst.num d).elim 0 (· + words)) (srcTop m.opnd (if cas then 2 * words else words))), q := isQ }
  s.memOp o fun s bd k ls =>
    let r := s.atomData bd m.opnd words cas (ls.map (·.1))
    let hold := b2n (m.order == .acq || m.order == .sc)
    let r := ls.foldl (fun (acc : State × List (Tgt × Part)) l =>
      match r.2.find? fun y => y.1 == l.1, acc.1.thread? bd.blk l.1 with
      | some (_, v, v2), some t =>
        let s := acc.1.modThread bd.blk l.1 fun t =>
          { t with cntLd := t.cntLd + b2n ld, cntSt := t.cntSt + b2n (!ld), blocked := t.blocked + hold }
        let s := s.l1Drop k.core fun x => x.line == l.2.2.place.1 && !x.ro
        (s, acc.2 ++ [(l.2.2, { mkPart acc.1 bd t l.1 l.2.1 l.2.2 m.size.bytes (Dst.num d) with
          data := BitVec.ofNat 128 v, data2 := BitVec.ofNat 128 v2 })])
      | _, _ => acc) (r.1, [])
    r.1.sendReqs bd k ⟨.atomic op, .gen, m.evict.val, m.order, m.scope⟩ r.2

/-- 10 R282, R283. -/
def execAtomAdd (g : Guard) (d : Dst) (m : AtomF) (s : State) : Res := .next (s.atomOp 0x85 g d m)
/-- 10 R282, R283. -/
def execAtomMin (g : Guard) (d : Dst) (m : AtomF) (s : State) : Res := .next (s.atomOp 0x86 g d m)
/-- 10 R282, R283. -/
def execAtomMax (g : Guard) (d : Dst) (m : AtomF) (s : State) : Res := .next (s.atomOp 0x87 g d m)
/-- 10 R282, R283. -/
def execAtomMinu (g : Guard) (d : Dst) (m : AtomF) (s : State) : Res := .next (s.atomOp 0x88 g d m)
/-- 10 R282, R283. -/
def execAtomMaxu (g : Guard) (d : Dst) (m : AtomF) (s : State) : Res := .next (s.atomOp 0x89 g d m)
/-- 10 R282, R283. -/
def execAtomAnd (g : Guard) (d : Dst) (m : AtomF) (s : State) : Res := .next (s.atomOp 0x8A g d m)
/-- 10 R282, R283. -/
def execAtomOr (g : Guard) (d : Dst) (m : AtomF) (s : State) : Res := .next (s.atomOp 0x8B g d m)
/-- 10 R282, R283. -/
def execAtomXor (g : Guard) (d : Dst) (m : AtomF) (s : State) : Res := .next (s.atomOp 0x8C g d m)
/-- 10 R282, R283. -/
def execAtomExch (g : Guard) (d : Dst) (m : AtomF) (s : State) : Res := .next (s.atomOp 0x8D g d m)
/-- 10 R282, R283. -/
def execAtomCas (g : Guard) (d : Dst) (m : AtomF) (s : State) : Res := .next (s.atomOp 0x8E g d m)
/-- 10 R282, R283. -/
def execAtomFadd (g : Guard) (d : Dst) (m : AtomF) (s : State) : Res := .next (s.atomOp 0x8F g d m)
/-- 10 R282, R283. -/
def execAtomFmin (g : Guard) (d : Dst) (m : AtomF) (s : State) : Res := .next (s.atomOp 0x90 g d m)
/-- 10 R282, R283. -/
def execAtomFmax (g : Guard) (d : Dst) (m : AtomF) (s : State) : Res := .next (s.atomOp 0x91 g d m)

/-! ### Fences, prefetch, cache control and persistence (10 R285–R291) -/

/-- A singleton without an address: it commits the open regions, and waits at the instruction while `wait` holds for a lane
that acts. -/
def State.plainSingle (s : State) (g : Guard) (wait : State → Bundle → Nat → Bool) (go : State → Bundle → Block → List Nat → State) : State :=
  s.onBundle fun bd =>
    if (s.active bd g).any (fun t => ((s.thread? bd.blk t).map (fun x => x.blocked != 0)).getD false) then s
    else
      let s := s.commitLanes bd g
      if (s.active bd g).any (fun t => wait s bd t) then s
      else match s.blocks[bd.blk]? with
        | some k => (go s bd k (s.active bd g)).endPlain bd
        | none => s

/-- The thread's loads and atomics have not all landed: an atomic without a return has once its home has performed it, and its
acknowledgement may still be on its way (log 93). -/
def State.loadsPending (s : State) (b tid : Nat) : Bool :=
  ((s.thread? b tid).map fun t => t.cntLd != 0).getD false || s.homes.reqs.any fun r => r.blk == b && r.parts.any (fun p => p.tid == tid) &&
    (match r.op with
      | .atomic _ => true
      | _ => false)

/-- FENCE (10 R285): a seq_cst fence takes a timestamp for each lane (11 R305). -/
def execFence (g : Guard) (o : Order) (sc : Scope) (s : State) : Res :=
  .next (s.plainSingle g (fun s bd t =>
      ((o == .acq || o == .sc) && s.loadsPending bd.blk t) || ((o == .rel || o == .sc) && s.writesPending bd.blk t))
    fun s _ k ls => ls.foldl (fun (s : State) _ =>
      let s := if o == .acq || o == .sc then s.acquireL1 k.core sc else s
      if o == .sc then s.modCore k.core fun c => { c with clk := c.clk + 1 } else s) s)

/-- The form of an instruction on the line of an address. -/
def lineOp (g : Guard) (addr : Fin 1536) (off : BitVec 14) (size : Size) (st : Bool) : MemOp :=
  { guard := g, addr := addr.val, off := off.toInt * size.bytes, bytes := 0, space := .virt .gen .read, single := true, ld := false
    st := st, waitW := false, need := addr.val + 2, q := false }

/-- A prefetch's target: a miss is walked at once when the walker has room, else the prefetch is dropped (10 R286). -/
def State.prefTgt (s : State) (k : Block) (ea : Nat) : State × Tgt :=
  if s.walkFull (some k.core) (s.ctxOf k) ea then (s, .miss)
  else (s.tlbTouch (some k.core) (s.ctxOf k) ea, s.tgtOf false (s.xlateAt (some k.core) (s.ctxOf k) ea .read))
/-- PREF (10 R286): a lane whose prefetch would fault drops it. While a walk needs another package's table the bundle stays. -/
def execPref (g : Guard) (addr : Fin 1536) (off : BitVec 14) (ro : Bool) (size : Size) (evict : Fin 8) (s : State) : Res :=
  .next <| s.onBundle fun bd =>
    let o := lineOp g addr off size false
    if (s.active bd g).any (fun t => ((s.thread? bd.blk t).map (fun x => x.blocked != 0)).getD false) then s
    else match s.blocks[bd.blk]? with
      | none => s
      | some k =>
        let ls := (s.active bd g).filterMap fun t => (k.threads[t]?).bind fun th =>
          if th.regs < o.need then none else some (t, th, o.ea k th)
        match ls.findSome? fun x => if s.walkFull (some k.core) (s.ctxOf k) x.2.2 then none
            else match s.xlateAt (some k.core) (s.ctxOf k) x.2.2 .read with
              | .wait ea => some ea
              | _ => none with
        | some ea => s.askWalk ea
        | none =>
          let r := ls.foldl (fun (acc : State × List (Tgt × Part)) x =>
            match acc.1.prefTgt k x.2.2 with
            | (s, .mem pa c) => (s, acc.2 ++ [(.mem pa c, mkPart s bd x.2.1 x.1 x.2.2 (.mem pa c) 0 none)])
            | (s, _) => (s, acc.2)) (s, [])
          (r.1.sendReqs bd k ⟨.pref ro, if ro then .ro else .gen, evict.val, .rlx, .thread⟩ r.2).endPlain bd

/-- CCTL.ROINV (10 R287). -/
def execCctlRoinv (g : Guard) (s : State) : Res :=
  .next (s.plainSingle g (fun _ _ _ => false) fun s _ k ls => if ls.isEmpty then s else s.l1Drop k.core (·.ro))
/-- CCTL.L1INV (10 R287). -/
def execCctlL1inv (g : Guard) (s : State) : Res :=
  .next (s.plainSingle g (fun _ _ _ => false) fun s _ k ls => if ls.isEmpty then s else s.l1Drop k.core fun _ => true)
/-- CCTL.L1LINE invalidates the superblock of the address (10 R287). -/
def execCctlL1line (g : Guard) (addr : Fin 1536) (off : BitVec 14) (size : Size) (s : State) : Res :=
  .next (s.memOp { lineOp g addr off size false with space := .virt .ro .read } fun s _ k ls =>
    ls.foldl (fun (s : State) l => match l.2.2 with
      | .mem pa _ => s.l1Drop k.core fun x => x.line / 4 == pa / 512
      | _ => s) s)
/-- An operation on a line at its home, counted in CNT.ST (10 R274). A target outside memory is left to the home. -/
def State.lineReqs (s : State) (bd : Bundle) (k : Block) (op : ReqOp) (ls : List (Nat × Nat × Tgt)) : State :=
  let r := ls.foldl (fun (acc : State × List (Tgt × Part)) l =>
    match acc.1.thread? bd.blk l.1 with
    | none => acc
    | some t => (acc.1.modThread bd.blk l.1 fun t => { t with cntSt := t.cntSt + 1 },
        acc.2 ++ [(l.2.2, mkPart acc.1 bd t l.1 l.2.1 l.2.2 0 none)])) (s, [])
  r.1.sendReqs bd k ⟨op, .gen, 0, .rlx, .thread⟩ r.2
/-- The form of CCTL.L2WB and L2INV: their targets outside memory complete with no effect, so nothing but a missing page or
a forbidden one stops them (10 R287). -/
def State.cctlHome (s : State) (op : ReqOp) (g : Guard) (addr : Fin 1536) (off : BitVec 14) (size : Size) : State :=
  s.memOp { lineOp g addr off size true with space := .virt .ro .read } fun s bd k ls =>
    s.lineReqs bd k op (ls.filter fun x => match x.2.2 with
      | .mem _ _ => true
      | _ => false)
/-- CCTL.L2WB (10 R287). -/
def execCctlL2wb (g : Guard) (addr : Fin 1536) (off : BitVec 14) (size : Size) (s : State) : Res := .next (s.cctlHome .l2wb g addr off size)
/-- CCTL.L2INV (10 R287). -/
def execCctlL2inv (g : Guard) (addr : Fin 1536) (off : BitVec 14) (size : Size) (s : State) : Res := .next (s.cctlHome .l2inv g addr off size)
/-- PWB (10 R290): MMIO raises PROT_FAULT and a hole PHYS_HOLE. -/
def execPwb (g : Guard) (addr : Fin 1536) (off : BitVec 14) (size : Size) (inv : Bool) (s : State) : Res :=
  .next (s.memOp (lineOp g addr off size true) fun s bd k ls => s.lineReqs bd k (.pwb inv) ls)
/-- PBAR (10 R291): wait for the persist writes in scope, then advance the epoch. -/
def execPbar (g : Guard) (pod : Bool) (s : State) : Res :=
  .next (s.plainSingle g (fun _ _ _ => false) fun s bd _ ls => ls.foldl (fun (s : State) t =>
    if s.persistOut bd.blk t pod then s.park bd.blk t bd.pc (.pbar pod)
    else s.modThread bd.blk t fun th => { th with epoch := th.epoch + 1 }) s)

end Sys2Proof.Machine
end

