-- ==== Sys2Proof/Machine/QueueInstr.lean ====
section
/-! DEFINITION. The thread-side queue instructions QLEN, QTRY, QCLOSE, QEOS (spec/12 R333, R334). -/

namespace Sys2Proof.Machine

/-- A queue instruction: a singleton for each lane that acts; a queue that is not carved raises QUEUE_STATE (12 R332). -/
def State.queueOp (s : State) (o : VOp) (q : Nat) (release : Bool)
    (go : State → Bundle → Block → List Nat → State) : State :=
  s.onBundle fun bd =>
    let s := (s.outOfBounds bd o).foldl (fun (s : State) t => s.haltLane bd t Code.regBounds 0) s
    let s := s.commitLanes bd o.guard
    let ls := s.active bd o.guard
    if release && ls.any (fun t => s.writesPending bd.blk t) then s
    else match s.blocks[bd.blk]? with
      | none => s
      | some k =>
        if (k.queue q).carved then (go s bd k ls).endPlain bd
        else (ls.foldl (fun (s : State) t => s.haltLane bd t Code.queueState 0) s).endPlain bd

/-- QLEN (12 R334). -/
def execQlen (g : Guard) (d : Dst) (q : Fin 16) (free : Bool) (s : State) : Res :=
  .next (s.queueOp (.w1 g d []) q.val false fun s bd k ls =>
    let c := k.queue q.val
    ls.foldl (fun (s : State) t => s.modThread bd.blk t fun th =>
      th.put (.reg d 1) (.word (if free then c.cap - c.count else c.count))) s)

/-- The fault of a QTRY: another width than 32 bits, ROW mode outside a meet bundle (12 R325, R326, R334; log 50). -/
def Carve.tryFault (c : Carve) (meet : Bool) : Option Nat :=
  if c.width != 0 then some Code.queueState else if c.row && !meet then some Code.illegalClause else none

/-- QTRY, pop form (12 R334). -/
def execQtryPop (g : Guard) (d : Dst) (q : Fin 16) (p : Fin 8) (s : State) : Res :=
  .next (s.queueOp (.w1 g d []) q.val false fun s bd k ls =>
    match (k.queue q.val).tryFault bd.meet with
    | some c => ls.foldl (fun (s : State) t => s.haltLane bd t c 0) s
    | none =>
      let give := fun (s : State) (t : Nat) (v : Option Nat) => s.modThread bd.blk t fun th => match v with
        | some v => (th.put (.reg d 1) (.word v)).setP p.val true
        | none => th.setP p.val false
      if (k.queue q.val).row then
        if ls.isEmpty then s
        else if (k.queue q.val).count = 0 then ls.foldl (fun (s : State) t => give s t none) s
        else
          let r := k.pop q.val
          (ls.foldl (fun (s : State) t => give s t (r.2[t % 8]?)) (s.modBlock bd.blk fun _ => r.1)).wakeQueue bd.blk q.val
      else ls.foldl (fun (s : State) t =>
        match s.blocks[bd.blk]? with
        | none => s
        | some k =>
          if (k.queue q.val).count = 0 then give s t none
          else
            let r := k.pop q.val
            (give (s.modBlock bd.blk fun _ => r.1) t (r.2[0]?)).wakeQueue bd.blk q.val) s)

/-- QTRY, push form (12 R334). A push is a release (12 R330). -/
def execQtryPush (g : Guard) (q : Fin 16) (a : Src) (p : Fin 8) (s : State) : Res :=
  let o : VOp := ⟨g, [(a, 1)], [], .none, false, false⟩
  .next (s.queueOp o q.val true fun s bd k ls =>
    let views := laneViews (ownOps bd o k) o
    let val := fun (t : Nat) => (views.getD (t % 8) LaneIn.none).src 0
    match (k.queue q.val).tryFault bd.meet with
    | some c => ls.foldl (fun (s : State) t => s.haltLane bd t c 0) s
    | none =>
      if (k.queue q.val).closed then ls.foldl (fun (s : State) t => s.haltLane bd t Code.queueState 0) s
      else if (k.queue q.val).row then
        if ls.isEmpty then s
        else
          let ok := decide ((k.queue q.val).count < (k.queue q.val).cap)
          let s := if ok then (s.modBlock bd.blk fun k => k.push q.val ((List.range 8).map fun i =>
              match ls.find? fun t => t % 8 == i with
              | some t => val t
              | none => 0)).wakeQueue bd.blk q.val else s
          ls.foldl (fun (s : State) t => s.modThread bd.blk t (·.setP p.val ok)) s
      else ls.foldl (fun (s : State) t =>
        let ok := ((s.blocks[bd.blk]?).map fun k => decide ((k.queue q.val).count < (k.queue q.val).cap)).getD false
        let s := if ok then (s.modBlock bd.blk fun k => k.push q.val [val t]).wakeQueue bd.blk q.val else s
        s.modThread bd.blk t (·.setP p.val ok)) s)

/-- QCLOSE (12 R334, R328). -/
def execQclose (g : Guard) (q : Fin 16) (s : State) : Res :=
  .next (s.queueOp ⟨g, [], [], .none, false, false⟩ q.val false fun s bd _ ls =>
    if ls.isEmpty then s else (s.modBlock bd.blk fun k => k.modQ q.val fun c => { c with closed := true }).wakeQueue bd.blk q.val)

/-- QEOS (12 R327, R334). -/
def execQeos (g : Guard) (p : Fin 8) (q : Fin 16) (s : State) : Res :=
  .next (s.queueOp ⟨g, [], [], .pred p.val, false, false⟩ q.val false fun s bd k ls =>
    ls.foldl (fun (s : State) t => s.modThread bd.blk t (·.setP p.val (k.queue q.val).eos)) s)

end Sys2Proof.Machine
end

