-- ==== Sys2Proof/Machine/Sync.lean ====
section
/-! DEFINITION. The numbered barriers, the cluster barriers and WAIT, in both streams (spec/16 R439–R447). SIGNAL stands in
`Uniform`. -/

namespace Sys2Proof.Machine

/-! ### Cluster barriers (16 R447) -/

def Cbar.fresh (l u : Nat) : Cbar := ⟨l, u, false, false, [], []⟩
/-- The pair of a CLUSTER unit; both open with phase 0 until an arrival. -/
def State.cbarOf (s : State) (l u : Nat) : Cbar := (s.front.cbars.find? fun c => c.launch == l && c.unit == u).getD (Cbar.fresh l u)
def State.setCbar (s : State) (c : Cbar) : State :=
  s.modFront fun f => { f with cbars := c :: f.cbars.filter fun x => !(x.launch == c.launch && x.unit == c.unit) }
/-- The blocks of a unit, by handle: a saved or a halted block still belongs to it. -/
def State.unitBlocks (s : State) (l u : Nat) : List Nat :=
  (List.range s.blocks.length).filter fun b => match s.blocks[b]? with
    | some k => k.launch == l && k.unit == u && k.place != .discarded
    | none => false

/-- The completion of a cluster barrier is a CLUSTER-scope acquire by each waiter (16 R447, 09 R246). -/
def State.unitAcquire (s : State) (bs : List Nat) : State :=
  bs.foldl (fun (s : State) b => match s.resident? b with
    | some k => s.acquireL1 k.core .cluster
    | none => s) s

/-- Complete the thread barrier of a unit when every thread that has not exited has arrived. -/
def State.testTbar (s : State) (l u : Nat) : State :=
  let c := s.cbarOf l u
  let bs := s.unitBlocks l u
  let all := bs.all fun b => match s.blocks[b]? with
    | some k => (k.threads.zipIdx).all fun x => !x.1.live || c.tarr.contains (b, x.2)
    | none => true
  if all then (bs.foldl (fun (s : State) b => s.wake b fun p => p == .cbar c.tphase)
    (s.setCbar { c with tphase := !c.tphase, tarr := [] })).unitAcquire bs
  else s
/-- Complete the sequencer barrier of a unit when every sequencer whose stream has not ended has arrived. -/
def State.testSbar (s : State) (l u : Nat) : State :=
  let c := s.cbarOf l u
  let bs := s.unitBlocks l u
  let all := bs.all fun b => match s.blocks[b]? with
    | some k => k.seq.ended || c.sarr.contains b
    | none => true
  if all then (bs.foldl (fun (s : State) b => s.modBlock b fun k =>
      { k with seq := if k.seq.wait == .cbar c.sphase then { k.seq with wait := .none } else k.seq })
    (s.setCbar { c with sphase := !c.sphase, sarr := [] })).unitAcquire bs
  else s

/-- A block that is resident again: a waiter whose cluster barrier's phase has completed since it was saved goes on, with the acquire of
that completion (16 R446, R447). -/
def State.cbarDue (s : State) (b : Nat) : State :=
  match s.blocks[b]? with
  | none => s
  | some k =>
    let c := s.cbarOf k.launch k.unit
    let due := fun (t : Thread) => t.status == .parked (.cbar !c.tphase)
    let seqDue := k.seq.wait == .cbar !c.sphase
    let t := s.modThreads b fun t => if due t then t.wakeUp s.cycle else t
    let t := if seqDue then t.modSeq b fun q => { q with wait := .none } else t
    if seqDue || k.threads.any due then t.acquireL1 k.core .cluster else t

/-! ### The forms of SYNC instructions -/

/-- A SYNC instruction of the thread stream: a singleton region; a release waits at the instruction for the acknowledgement
of the lanes' earlier writes (16 R443, R445, R447; 11 R300). -/
def State.syncOp (s : State) (o : VOp) (release : Bool) (go : State → Bundle → Block → Nat → State) : State :=
  s.onBundle fun bd =>
    let s := (s.outOfBounds bd o).foldl (fun (s : State) t => s.haltLane bd t Code.regBounds 0) s
    let s := s.commitLanes bd o.guard
    if release && (s.active bd o.guard).any (fun t => s.writesPending bd.blk t) then s
    else match s.blocks[bd.blk]? with
      | some k => (s.eachLane bd (fun (s : State) t => go s bd k t) (s.active bd o.guard)).endPlain bd
      | none => s

/-- A SYNC instruction in the stream that meets it: both streams admit them (16 R443). -/
def State.inStream (s : State) (g : Guard) (seq : Nat → Block → State) (thr : State) : State :=
  match s.cur with
  | .sequencer _ => s.onSeq g seq
  | _ => thr

/-! ### Numbered barriers (16 R441–R446) -/

def Barrier.zero : Barrier := ⟨some 0, 0, false, 0⟩
/-- Barriers at block start: B0 expects ALL, the others 0 (16 R441). -/
def startBars : List Barrier := ⟨none, 0, false, 0⟩ :: List.replicate 15 Barrier.zero
def Block.bar (k : Block) (i : Nat) : Barrier := k.bars.getD i Barrier.zero
def State.barPhase (s : State) (b i : Nat) : Bool := ((s.blocks[b]?).map fun k => (k.bar i).phase).getD false

/-- An arrival of a thread or of the sequencer; nothing where it raises BAR_STATE (16 R444). -/
def State.arrive (s : State) (b i : Nat) (tid : Option Nat) : Option State :=
  match s.blocks[b]? with
  | none => some s
  | some k =>
    let before := match tid with
      | some t => ((k.threads[t]?).map fun th => th.arrb.getLsbD i).getD false
      | none => true
    if (k.bar i).expected == none && before then none
    else
      let bit := BitVec.ofNat 16 (2 ^ i)
      let s := match tid with
        | some t => s.modThread b t fun th => { th with arrb := th.arrb ||| bit }
        | none => s.modBlock b fun k => { k with seqArr := k.seqArr ||| bit }
      some ((s.modBlock b fun k => { k with bars := upd k.bars i fun x => { x with arrived := (x.arrived + 1) % 65536 } }).testBarrier b i)

/-- The sequencer waits for a barrier, its PC at the next instruction (16 R446). -/
def State.seqWaitOn (s : State) (b : Nat) (w : SeqWait) : State := (s.seqNext b).modSeq b fun q => { q with wait := w }

/-- BAR.ARRIVE: D takes the phase before the arrival. -/
def execBarArrive (g : Guard) (d : Dst) (i : Fin 16) (s : State) : Res :=
  .next <| s.inStream g
    (fun b _ => match s.arrive b i.val none with
      | some s => s.seqNext b
      | none => s.haltSeq b Code.barState 0)
    (s.syncOp (.w1 g d []) true fun s bd _ t =>
      let p := s.barPhase bd.blk i.val
      match s.arrive bd.blk i.val (some t) with
      | some s => s.modThread bd.blk t fun th => th.put (.reg d 1) (.word (b2n p))
      | none => s.haltLane bd t Code.barState 0)

/-- The source of BAR.WAIT and BAR.EXPECT, if any. -/
def ParSel.src : ParSel → List (Src × Nat)
  | .imm _ => []
  | .reg a _ => [(a, 1)]

/-- BAR.WAIT. -/
def execBarWait (g : Guard) (i : Fin 16) (p : ParSel) (s : State) : Res :=
  let par := fun (k : Block) (t : Thread) => match p with
    | .imm x => x
    | .reg a _ => nbit (srcRead a 1 k t) 0
  let parK := fun (k : Block) => match p with
    | .imm x => x
    | .reg (.k h) _ => (k.khalf h.val).getLsbD 0
    | .reg _ _ => false
  .next <| s.inStream g
    (fun b k => if s.barPhase b i.val == parK k then s.seqWaitOn b (.barrier i.val (parK k)) else s.seqNext b)
    (s.syncOp ⟨g, ParSel.src p, [], .none, false, false⟩ false fun s bd k t =>
      match s.thread? bd.blk t with
      | some th => if s.barPhase bd.blk i.val == par k th then s.parkAfter bd t (.barrier i.val (par k th)) else s
      | none => s)

/-- BAR.SYNC. -/
def execBarSync (g : Guard) (i : Fin 16) (s : State) : Res :=
  .next <| s.inStream g
    (fun b _ =>
      let p := s.barPhase b i.val
      match s.arrive b i.val none with
      | some s => if s.barPhase b i.val == p then s.seqWaitOn b (.barrier i.val p) else s.seqNext b
      | none => s.haltSeq b Code.barState 0)
    (s.syncOp ⟨g, [], [], .none, false, false⟩ true fun s bd _ t =>
      let p := s.barPhase bd.blk i.val
      match s.arrive bd.blk i.val (some t) with
      | some s => if s.barPhase bd.blk i.val == p then s.parkAfter bd t (.barrier i.val p) else s
      | none => s.haltLane bd t Code.barState 0)

/-- What BAR.EXPECT does with its value; nothing where it raises BAR_STATE. -/
def State.expect (s : State) (b i : Nat) (kind : ExpKind) (v : Nat) : Option State :=
  let set := fun (f : Barrier → Barrier) => some ((s.modBlock b fun k => { k with bars := upd k.bars i f }).testBarrier b i)
  match kind with
  | .bytes => set fun x => { x with pending := x.pending + BitVec.ofNat 64 v }
  | .arrivals => if 4097 < v then none else set fun x => { x with expected := some v }
  | .all => set fun x => { x with expected := none }

/-- BAR.EXPECT. -/
def execBarExpect (g : Guard) (i : Fin 16) (kind : ExpKind) (a : Option Src) (imm : BitVec 21) (s : State) : Res :=
  let ofK := fun (k : Block) => match a with
    | some (.k h) => (k.khalf h.val).toNat
    | _ => 0
  .next <| s.inStream g
    (fun b k => match s.expect b i.val kind (imm.toNat + ofK k) with
      | some s => s.seqNext b
      | none => s.haltSeq b Code.barState 0)
    (s.syncOp ⟨g, (a.map fun x => (x, 1)).toList, [], .none, false, false⟩ false fun s bd k t =>
      match s.thread? bd.blk t with
      | some th => match s.expect bd.blk i.val kind (imm.toNat + (a.map fun x => srcRead x 1 k th).getD 0) with
        | some s => s
        | none => s.haltLane bd t Code.barState 0
      | none => s)

/-! ### CBAR and WAIT (16 R440, R447) -/

/-- CBAR: arrive at the unit's barrier of this stream and wait for its phase. -/
def execCbar (g : Guard) (s : State) : Res :=
  .next <| s.inStream g
    (fun b k =>
      let c := s.cbarOf k.launch k.unit
      let s := (s.setCbar { c with sarr := b :: c.sarr }).testSbar k.launch k.unit
      if (s.cbarOf k.launch k.unit).sphase == c.sphase then s.seqWaitOn b (.cbar c.sphase) else s.seqNext b)
    (s.syncOp ⟨g, [], [], .none, false, false⟩ true fun s bd k t =>
      let c := s.cbarOf k.launch k.unit
      let s := (s.setCbar { c with tarr := (bd.blk, t) :: c.tarr }).testTbar k.launch k.unit
      if (s.cbarOf k.launch k.unit).tphase == c.tphase then s.parkAfter bd t (.cbar c.tphase) else s)

/-- WAIT: a thread parks at the instruction until its counters allow it; the sequencer stays at it. -/
def execWait (g : Guard) (ld st cp tl : Fin 64) (s : State) : Res :=
  .next <| s.inStream g
    (fun b k => if (cp.val == 63 || decide (k.cntCp ≤ cp.val)) && (tl.val == 63 || decide (k.cntTl ≤ tl.val)) then s.seqNext b else s)
    (s.syncOp ⟨g, [], [], .none, false, false⟩ false fun s bd k t =>
      match s.thread? bd.blk t with
      | some th => if th.meets k ld.val st.val cp.val tl.val 63 then s else s.park bd.blk t bd.pc (.wait ld.val st.val cp.val tl.val)
      | none => s)

end Sys2Proof.Machine
end

