-- ==== Sys2Proof/Machine/Control.lean ====
section
/-! DEFINITION. The control instructions and the system registers (spec/08 R203–R209, R223, R226, R230; spec/04 R110–R113, R123,
R124; spec/01 R23, R27), and the events THREAD_END and SLEEP_WAKE. -/

namespace Sys2Proof.Machine

/-! ### Transfers (08 R204) -/

/-- Send the lanes that act to a target, the others to the next clause. -/
def State.transfer (s : State) (bd : Bundle) (acts : List Nat) (tgt : Nat → Goto) : State :=
  s.endInstr bd fun t => if acts.contains t then some (tgt t) else none
/-- The header `imm` words from a clause's header. -/
def relTarget (bd : Bundle) (imm : BitVec 28) : DWord := bd.hdr + imm.signExtend 64 * 8

/-- BRA (08 R204). -/
def execBra (g : Guard) (imm : BitVec 28) (s : State) : Res :=
  .next (s.onBundle fun bd => s.transfer bd (s.active bd g) fun _ => .hdr (relTarget bd imm))
/-- BRX and RET: each lane's 64-bit operand after its pattern (08 R204). -/
def State.jumpReg (s : State) (g : Guard) (a : Src) : State :=
  s.onBundle fun bd =>
    let o : VOp := ⟨g, [(a, 2)], [], .none, false, false⟩
    match s.blocks[bd.blk]? with
    | none => s
    | some k =>
      let views := laneViews (ownOps bd o k) o
      let s := (s.outOfBounds bd o).foldl (fun (s : State) t => s.haltLane bd t Code.regBounds 0) s
      s.transfer bd (s.active bd g) fun t => .hdr (BitVec.ofNat 64 ((views.getD (t % 8) LaneIn.none).src 0))
/-- BRX (08 R204). -/
def execBrx (g : Guard) (a : Src) (s : State) : Res := .next (s.jumpReg g a)
/-- RET (08 R204). -/
def execRet (g : Guard) (a : Src) (s : State) : Res := .next (s.jumpReg g a)
/-- CALL: the link is the header of the next clause (08 R204). -/
def execCall (g : Guard) (d : Dst) (imm : BitVec 28) (s : State) : Res :=
  .next <| s.onBundle fun bd =>
    let o : VOp := ⟨g, [], [], .reg d 2, false, false⟩
    let s := (s.outOfBounds bd o).foldl (fun (s : State) t => s.haltLane bd t Code.regBounds 0) s
    let acts := s.active bd g
    let s := acts.foldl (fun (s : State) t => s.modThread bd.blk t fun th => th.put (.reg d 2) (.word bd.after.toNat)) s
    s.transfer bd acts fun _ => .hdr (relTarget bd imm)

/-! ### EXIT, REGION, YIELD, SLEEP (08 R205, R206, R209) -/

/-- EXIT: the region commits, and the thread waits at the EXIT for its counters (08 R205). -/
def execExit (g : Guard) (s : State) : Res :=
  .next <| s.onBundle fun bd =>
    let s := s.commitLanes bd g
    ((s.active bd g).foldl (fun (s : State) t => s.modThread bd.blk t fun th => { th with status := .exiting }) s).endPlain bd

/-- Return a thread's chunks at its exit, first to its block's reserve (04 R111), and retry the queued requests. -/
def State.exitChunks (s : State) (b t : Nat) : State :=
  match s.blocks[b]?, s.thread? b t with
  | some k, some th => ((s.freeChunks b (th.regs / 64)).modThread b t fun th => { th with v := [] }).retryGrow k.core
  | _, _ => s

/-- A barrier that waits for ALL is tested again when a thread exits (16 R442). -/
def State.testBarriers (s : State) (b : Nat) : State := (List.range 16).foldl (fun (s : State) i =>
  match (s.blocks[b]?).bind (·.bars[i]?) with
  | some x => if x.expected == none then s.testBarrier b i else s
  | none => s) s

/-- THREAD_END: a thread whose EXIT waits ends when its counters are 0 (08 R205; 04 R111, R119). -/
def execThreadEnd (b t : Nat) (s : State) : Res :=
  .next <| match s.resident? b, s.thread? b t with
    | some k, some th =>
      if th.status == .exiting && th.cntLd == 0 && th.cntSt == 0 && k.halt.isNone then
        ((s.exitChunks b t).modThread b t fun th => { th with
          status := .exited, slotTag := th.slotTag + 1, grant := if th.grown then th.grant + 1 else th.grant, grants := [] }).testBarriers b |>.testTbar k.launch k.unit
      else s
    | _, _ => s

/-- REGION (08 R206). -/
def execRegion (g : Guard) (s : State) : Res :=
  .next <| s.onBundle fun bd => (s.commitLanes bd g).endPlain bd
/-- YIELD (08 R206). -/
def execYield (g : Guard) (s : State) : Res :=
  .next <| s.onBundle fun bd => ((s.active bd g).foldl (fun (s : State) t => s.modThread bd.blk t fun th => { th with late := true }) s).endPlain bd
/-- SLEEP; SLEEP 0 is YIELD (08 R209). -/
def execSleep (g : Guard) (n : BitVec 20) (s : State) : Res :=
  .next <| s.onBundle fun bd => ((s.active bd g).foldl (fun (s : State) t =>
    if n = 0 then s.modThread bd.blk t fun th => { th with late := true }
    else s.parkAfter bd t (.sleep (s.clock.toNat + n.toNat))) s).endPlain bd
/-- SLEEP_WAKE: a sleeping thread whose deadline has passed re-enters the Erg (08 R209), with its octet if it parked with it (01 R42). -/
def execSleepWake (b t : Nat) (s : State) : Res :=
  .next <| match s.resident? b, s.thread? b t with
    | some _, some th => match th.status with
      | .parked (.sleep d) =>
        if d ≤ s.clock.toNat then s.modThread b t (·.wakeUp s.cycle) else s
      | _ => s
    | _, _ => s

/-! ### TRAP and BKPT (08 R226, R230) -/

/-- TRAP parks the thread for its reply; the record is written by SYSCALL_RECORD_WRITE (08 R226). -/
def execTrap (g : Guard) (n : BitVec 16) (s : State) : Res :=
  .next <| s.onBundle fun bd =>
    let s := s.commitLanes bd g
    ((s.active bd g).foldl (fun (s : State) t =>
      s.parkAfter bd t (.syscall none n.toNat (((s.thread? bd.blk t).map fun th => th.v.take 8).getD []))) s).endPlain bd

/-- The launch's queue has debugging enabled (08 R230, 13 R359). -/
def State.debugOn (s : State) (k : Block) : Bool := (s.queue (s.queueOf k)).act.ctrl.getLsbD 2
/-- BKPT: a debug stop where debugging is on, no effect otherwise; the lanes stop after it (08 R230, R232). -/
def execBkpt (g : Guard) (n : BitVec 16) (s : State) : Res :=
  .next <| s.onBundle fun bd =>
    let acts := s.active bd g
    match s.blocks[bd.blk]? with
    | none => s
    | some k =>
      if s.debugOn k && !acts.isEmpty then (s.endPlain bd).haltBlock bd.blk Code.breakpoint true 0 acts[0]? bd.pc 0 n.toNat
      else s.endPlain bd

/-! ### UTRET (08 R223, R224) -/

/-- The source of a UTRET form. -/
def utretSrcs : UtretMode → List (Src × Nat)
  | .subst a => [(a, 1)]
  | .substW64 a => [(a, 2)]
  | _ => []
/-- Registers that UTRET.SUBST writes. -/
def substWords : UtretMode → Nat
  | .substW64 _ => 2
  | _ => 1
/-- What a thread's UDST and UCAUSE name as the destination of UTRET.SUBST (08 R223). -/
def Thread.substDst (t : Thread) (words : Nat) : DstOp :=
  let u := t.udst.toNat
  if t.ucause.getLsbD 12 then .pred (u % 8)
  else if h : u < 1536 then .reg (.v ⟨u, h⟩) words
  else if h : u - 1536 < 16 then .reg (.q ⟨u - 1536, h⟩) words
  else .none
/-- The operands of a UTRET for one thread. -/
def Thread.utretOp (t : Thread) (g : Guard) (m : UtretMode) : VOp :=
  ⟨g, utretSrcs m, [], if (utretSrcs m).isEmpty then .none else t.substDst (substWords m), false, false⟩
/-- A SUBST that pushes is a release of its lane (12 R330). -/
def Thread.substPush (t : Thread) (m : UtretMode) : Bool := (t.utretOp 0 m).pushOf.isSome
/-- What UTRET.SUBST writes: bit 0 of A into a predicate, A into a register (08 R223). -/
def Thread.substOut (t : Thread) (v : Nat) : LaneOut :=
  if t.ucause.getLsbD 12 then LaneOut.ofPred (t.udst.toNat % 8) (nbit v 0) else .word v

/-- The fatal fault of a lane's UTRET, found before it has any effect (04 R108, 08 R223, 12 R325–R327). -/
def State.utretFault (s : State) (bd : Bundle) (g : Guard) (m : UtretMode) (tid : Nat) : Option (Nat × DWord) :=
  match s.blocks[bd.blk]?, s.thread? bd.blk tid with
  | some k, some t =>
    let o := t.utretOp g m
    if !t.intrap then some (Code.utretNoTrap, 0)
    else if substWords m == 2 && (t.udst.getLsbD 0 || t.ucause.getLsbD 12) then some (Code.illegalEncoding, 0)
    else if t.regs < o.dst.bound then some (Code.regBounds, 0)
    else match k.queueFault o bd.meet with
      | some c => some (c, 0)
      | none => match (s.trapReturn bd tid (m == .retry)).2 with
        | .inr e => some e
        | .inl _ => none
  | _, _ => none

/-- A queue in ROW mode. -/
def Block.isRow (k : Block) (q : Nat) : Bool := (k.queue q).carved && (k.queue q).row
/-- The operands of an instruction that name queues in WORD mode, lane by lane (12 R324). -/
def Block.wordOnly (k : Block) (o : VOp) : VOp :=
  { o with
    srcs := o.srcs.filter fun x => match x.1 with
      | .q n => !k.isRow n.val
      | _ => false
    dst := if (o.pushOf.map fun x => k.isRow x.1) == some true then .none else o.dst }

/-- One lane's UTRET: its pop, the substitution, its push, the return. It parks where a WORD-mode queue lacks an entry or a slot. -/
def State.utretLane (s : State) (bd : Bundle) (g : Guard) (m : UtretMode) (tid v : Nat) : State × Option Goto :=
  match s.blocks[bd.blk]?, s.thread? bd.blk tid with
  | some k, some t =>
    let o := t.utretOp g m
    let w := k.wordOnly o
    match k.queueWait w 1 with
    | some q => (s.park bd.blk tid bd.pc (.queue q), none)
    | none =>
      let r := k.popLane w.srcs [0]
      let v := r.2.headD v
      let s := (s.modBlock bd.blk fun _ => r.1).modThread bd.blk tid fun t => t.put o.dst (t.substOut v)
      let s := match w.pushOf with
        | some (q, _) => s.modBlock bd.blk fun k => k.push q [v]
        | none => s
      match (s.wakeQueues bd.blk w.queues).trapReturn bd tid (m == .retry) with
      | (s, .inl g) => (s, some g)
      | (s, .inr _) => (s, none)
  | _, _ => (s, none)

/-- The lanes' UTRETs in ascending home-lane order, with where each goes. -/
def State.utretLanes (s : State) (bd : Bundle) (g : Guard) (m : UtretMode) (val : Nat → Nat) (acts : List Nat) : State × List (Nat × Goto) :=
  acts.foldl (fun (acc : State × List (Nat × Goto)) t =>
    let x := acc.1.utretLane bd g m t (val t)
    (x.1, acc.2 ++ (x.2.map fun gt => (t, gt)).toList)) (s, [])

/-- The ROW-mode queues that the lanes of a UTRET pop and push (12 R326). -/
def State.utretRowQs (s : State) (bd : Bundle) (m : UtretMode) (acts : List Nat) : List Nat × List Nat :=
  match s.blocks[bd.blk]? with
  | none => ([], [])
  | some k =>
    let dst := fun (t : Nat) => ((k.threads[t]?).bind fun th => (th.utretOp 0 m).pushOf).map (·.1)
    ((((⟨0, utretSrcs m, [], .none, false, false⟩ : VOp).popsOf.map (·.1)).filter fun q => k.isRow q && !acts.isEmpty),
     ((acts.filterMap dst).filter k.isRow).eraseDups)

/-- The rows that the lanes of a UTRET in a meet bundle pop and push (12 R326), and the value of each lane. -/
def State.utretRows (s : State) (bd : Bundle) (m : UtretMode) (val : Nat → Nat) (acts : List Nat) : State × (Nat → Nat) :=
  let qs := s.utretRowQs bd m acts
  match s.blocks[bd.blk]? with
  | none => (s, val)
  | some k =>
    let r := qs.1.foldl (fun (acc : Block × (Nat → Nat)) q => let r := acc.1.pop q; (r.1, fun (t : Nat) => r.2.getD (t % 8) 0)) (k, val)
    let pushes := fun (q t : Nat) => ((k.threads[t]?).map fun th => ((th.utretOp 0 m).pushOf.map (·.1)) == some q).getD false
    ((s.modBlock bd.blk fun _ => qs.2.foldl (fun k q => k.push q ((List.range 8).map fun i =>
      match acts.find? fun t => t % 8 == i && pushes q t with
      | some t => r.2 t
      | none => 0)) r.1).wakeQueues bd.blk (qs.1 ++ qs.2), r.2)

/-- The queue that keeps the octet of a UTRET waiting: a ROW-mode queue without a row or a slot, or the one at which a lane
parked. -/
def State.utretLacks (s s' : State) (bd : Bundle) (m : UtretMode) (acts : List Nat) : Option Nat :=
  let qs := s.utretRowQs bd m acts
  let k := (s.blocks[bd.blk]?).elim (fun _ => Carve.zero 0) Block.queue
  match (qs.1.find? fun q => !(k q).canPop 1), qs.2.find? fun q => !(k q).canPush (countp qs.1 (· == q)) 1 with
  | some q, _ | none, some q => some q
  | none, none => acts.findSome? fun t => (s'.thread? bd.blk t).bind fun th => match th.status with
    | .parked (.queue q) => some q
    | _ => none

/-- UTRET (08 R223): a lane that raises a fault has no effect, and its region is discarded (08 R232); the others end theirs, since a
new one begins at the resume point (08 R210). In a meet bundle the octet completes the instruction as one (log 76). -/
def execUtret (g : Guard) (m : UtretMode) (s : State) : Res :=
  .next <| s.onBundle fun bd =>
    let o : VOp := ⟨g, utretSrcs m, [], .none, false, false⟩
    match s.blocks[bd.blk]? with
    | none => s
    | some k =>
      let views := laneViews (ownOps bd o k) o
      let val := fun (t : Nat) => (views.getD (t % 8) LaneIn.none).src 0
      let s := (s.outOfBounds bd o).foldl (fun (s : State) t => s.haltLane bd t Code.regBounds 0) s
      let s := (s.active bd g).foldl (fun (s : State) t => match s.utretFault bd g m t with
        | some e => s.haltLane bd t e.1 e.2
        | none => s) s
      let s := s.commitLanes bd g
      let acts := s.active bd g
      if acts.any (fun t => ((s.thread? bd.blk t).map fun th => th.substPush m).getD false && s.writesPending bd.blk t) then s
      else
        let go := if bd.meet then s.utretRows bd m val acts else (s, val)
        let r := go.1.utretLanes bd g m go.2 acts
        match (if bd.meet then s.utretLacks r.1 bd m acts else none) with
        | some q => (acts.foldl (fun (s : State) t => s.park bd.blk t bd.pc (.queue q)) s).endPlain bd
        | none => r.1.endInstr bd fun t => (r.2.find? fun x => x.1 == t).map (·.2)

/-! ### System registers (04 R123–R125) -/

/-- The block level of a launch: the one with domain BLOCK (01 R24). -/
def Launch.blockLevel (l : Launch) : Nat := (l.lrec.levels.findIdx? fun x => x.2.1 == 2).getD 0
/-- LVIDX n of a thread: from its TID below the block level, from the block above (01 R23, R27). -/
def State.lvidx (s : State) (k : Block) (tid : Option Nat) (n : Nat) : Nat :=
  let below := match s.launch? k with
    | some l => decide (n < l.blockLevel)
    | none => false
  if below then match tid with
    | some t => t / (((k.ext.take n).map (·.toNat)).foldl (· * ·) 1) % max 1 (k.ext.getD n 1).toNat
    | none => 0
  else (k.lvidx.getD n 0).toNat
/-- The tag of a thread's latest extended grant: that of the last one it holds, else the tag as it has advanced since; 0 if it has
never grown (04 R125; log 3). -/
def Thread.grantNow (t : Thread) : BitVec 4 :=
  match t.grants.getLast? with
  | some g => g.2.2
  | none => if t.grown then t.grant else 0
/-- GEN (04 R125). -/
def Thread.gen (t : Thread) (k : Block) : Nat := t.slotTag.toNat + t.grantNow.toNat * 16 + k.gen.toNat * 256
/-- The value of a system register for a thread, or for the sequencer where no thread is given (04 R123). -/
def State.sysread (s : State) (k : Block) (tid : Option Nat) (n : Nat) : Nat :=
  let th := fun (f : Thread → Nat) => ((tid.bind fun t => k.threads[t]?).map f).getD 0
  if 0x010 ≤ n && n ≤ 0x017 then s.lvidx k tid (n - 0x010)
  else if 0x018 ≤ n && n ≤ 0x01F then (k.ext.getD (n - 0x018) 1).toNat
  else match n with
    | 0x000 => tid.getD 0
    | 0x001 => tid.getD 0 / 8
    | 0x002 => k.bid.toNat
    | 0x020 => s.logical k.core
    | 0x021 => clusterOf k.core
    | 0x022 => dieOf k.core
    | 0x023 => s.pkg
    | 0x024 => cslotOf k.core
    | 0x030 => th (·.flags.toNat)
    | 0x031 => th (·.utvec.toNat)
    | 0x032 => th (·.uepc.toNat)
    | 0x033 => th (·.uepco.toNat)
    | 0x034 => th (·.uspecit.toNat)
    | 0x035 => th (·.ucause.toNat)
    | 0x036 => th (·.ulanes.toNat)
    | 0x037 => th (·.udst.toNat)
    | 0x040 => s.clock.toNat
    | 0x041 => s.regs.stepno.toNat
    | 0x050 => th (·.cntLd)
    | 0x051 => th (·.cntSt)
    | 0x052 => k.cntCp
    | 0x053 => k.cntTl
    | 0x060 => th (·.gen k)
    | 0x061 => ((s.cores[k.core]?).map (·.dropcnt.toNat)).getD 0
    | 0x062 => th (·.regs)
    | _ => 0

/-- Registers that a system register takes (04 R124). -/
def sysWords (n : BitVec 12) : Nat := if ((sysreg n.toNat).map (·.wide)).getD false then 2 else 1
/-- RDSR (04 R124): a queue destination is pushed (02 R64), and the instruction then stands alone: it reads what the regions before
it have committed (08 R211). -/
def execRdsr (g : Guard) (d : Dst) (n : BitVec 12) (s : State) : Res :=
  let s := match d with
    | .q _ => s.onBundle fun bd => s.commitLanes bd g
    | _ => s
  .next <| s.onBundle fun bd =>
    match s.blocks[bd.blk]? with
    | none => s
    | some k => s.vec ⟨g, [], [], .reg d (sysWords n), false, false⟩ fun _ =>
        (List.range 8).map fun i => .word ((bd.laneAt i).elim 0 fun t => s.sysread k (some t) n.toNat)

/-- WRSR stands alone (08 R208): a queue source is popped (02 R69). -/
def execWrsr (g : Guard) (n : BitVec 12) (a : Src) (s : State) : Res :=
  .next <| (s.onBundle fun bd => s.commitLanes bd g).vecMap ⟨g, [(a, sysWords n)], [], .sys n.toNat, false, false⟩ fun x => .word (x.src 0)

/-! ### GROW and SHRINK (04 R110–R113, 08 R207) -/

/-- Grant a request of some threads or queue it (04 R110): an earlier request in the queue bars the pool. -/
def State.growReq (s : State) (b core n : Nat) (ts : List Nat) : State × Bool :=
  let c := s.askChunks b n ts
  let free := ((s.cores[core]?).map fun x => x.growq.isEmpty && !x.vacating).getD false
  match s.takeChunks b c free with
  | some s => (s.grantGrow b n ts, true)
  | none => (s.modCore core fun k => { k with
      growq := insertGrow ⟨s.cycle, b, ((s.blocks[b]?).map (·.ticket)).getD 0, n, ts⟩ k.growq }, false)
/-- Lanes in ascending order of TID. -/
def byTid : List Nat → List Nat
  | [] => []
  | t :: ts =>
    let rest := byTid ts
    rest.filter (· < t) ++ t :: rest.filter (t ≤ ·)
/-- GROW (04 R110, R113; 08 R207). The requests of one instruction are served in order of TID. -/
def execGrow (g : Guard) (n : BitVec 11) (s : State) : Res :=
  .next <| s.onBundle fun bd =>
    let s := s.commitLanes bd g
    match s.blocks[bd.blk]? with
    | none => s
    | some k =>
      let maxr := ((s.launch? k).map (·.lrec.maxregs)).getD 1536
      let regs := fun (s : State) (t : Nat) => ((s.thread? bd.blk t).map Thread.regs).getD 0
      let s := (s.active bd g).foldl (fun (s : State) t =>
        if regs s t < n.toNat && maxr < n.toNat then s.haltLane bd t Code.regOvercommit 0 else s) s
      let ls := byTid ((s.active bd g).filter fun t => regs s t < n.toNat)
      let waitAll := fun (s : State) (ts : List Nat) => ts.foldl (fun (s : State) t => s.parkAfter bd t (.grow n.toNat)) s
      let s :=
        if ls.isEmpty then s
        else if bd.meet then
          let r := s.growReq bd.blk k.core n.toNat ls
          if r.2 then r.1 else waitAll r.1 ls
        else ls.foldl (fun (s : State) t =>
          let r := s.growReq bd.blk k.core n.toNat [t]
          if r.2 then r.1 else waitAll r.1 [t]) s
      s.endPlain bd

/-- SHRINK (04 R111, 08 R207). While no tag value is free it waits at the instruction (log 3). -/
def execShrink (g : Guard) (n : BitVec 11) (s : State) : Res :=
  .next <| s.onBundle fun bd =>
    let s := s.commitLanes bd g
    let th := fun (s : State) (t : Nat) => (s.thread? bd.blk t).filter fun th => n.toNat < th.regs
    match s.blocks[bd.blk]? with
    | none => s
    | some k =>
      if (s.active bd g).any fun t => ((th s t).map fun x => (s.nextGrant bd.blk t x n.toNat).isNone).getD false then s
      else ((s.active bd g).foldl (fun (s : State) t =>
        match th s t with
        | none => s
        | some x =>
          let held := s.heldChunks bd.blk t n.toNat
          let tag := (s.nextGrant bd.blk t x n.toNat).getD 0
          (((s.modThread bd.blk t (·.shrinkTo n.toNat tag)).modCore k.core fun c => { c with held := c.held ++ held }).freeChunks bd.blk
            ((x.regs - n.toNat) / 64 - held.length)).retryGrow k.core) s).endPlain bd

end Sys2Proof.Machine
end

