-- ==== Sys2Proof/Machine/RegMap.lean ====
section
/-! DEFINITION. The map of the control BAR: the register at each offset (spec/17 R466–R471, R475, R478, R508, spec/12 R356, spec/13
R359, spec/15 R421–R435, spec/16 R453, R459, R464). -/

namespace Sys2Proof.Machine

/-- A register of the control BAR. Indices are those of its table; `gap` is a reserved or read-as-zero place that a block assigns. -/
inductive Reg where
  | gap | devid | rev | lcountCopy | bootstat | apbase | linkdown | mailbox (i : Nat)
  | pkgctl | faqbase | faqsize | faqcons | faqprod | faqmsi | faqstat | migold | mignew | migpte | migcmd | resident
  | srbase | srsize | srcons | srprod | rpbase | srwake | srmsi
  | msixAddr (row : Nat) | msixData (row : Nat) | msixCtl (row : Nat) | pba (i : Nat)
  | clpart (i : Nat) | qpart (q : Nat)
  | pwrcap | env | pwrstat | pwrmsi | idlew | opt (c : Nat) | fsafe | pfloor (p : Nat) | clpool (i : Nat) | clfreq (i : Nat) | rblim (i : Nat)
  | fwctl | ageEntry (i : Nat) | mthr | agemsi | dcfg | dcfgmap (i : Nat)
  | ctx (n : Nat) | mirbase | mirsize | mirinv | mirhit | mirmiss | mirused | aggbase | ramp (d : Nat) | harv (d : Nat) | lcount
  | ltab (i : Nat) | route (p : Nat) | badpage (i : Nat) | bpcount | bpcmd
  | seifctl | seifstat | capstep | man (k : Nat) | seifSrc (i : Nat) | seifLen (i : Nat) | seifDst (i k : Nat)
  | rbdesc | rbctl | rbstat | rbserve | rbquota | rbserved | rbdone
  | lclock (c : Nat) | dropcnt (c : Nat) | slotWord (c j w : Nat) | eccCorr (n : Nat) | eccUncorr (n : Nat) | eccThr (n : Nat)
  | l2clk (i : Nat) | scmclk (i : Nat) | qtotal (q w : Nat)
  | qrbase (q : Nat) | qrsize (q : Nat) | qprio (q : Nat) | qctrl (q : Nat) | qmsi (q : Nat) | qctx (q : Nat) | qrd (q : Nat)
  | qstat (q : Nat) | qreset (q : Nat) | qwake (q : Nat) | haltbase (q : Nat) | haltsize (q : Nat) | haltused (q : Nat)
  | savebase (q : Nat) | savesize (q : Nat) | pdelay (q : Nat)
  deriving DecidableEq, Repr

/-- A register with the offset at which it starts and its bytes. -/
structure RegAt where
  reg  : Reg
  base : Nat
  len  : Nat
  deriving DecidableEq, Repr

/-- The entry of a field table that covers a byte. -/
def findReg (tbl : List (Nat × Nat × Reg)) (blk off : Nat) : Option RegAt :=
  (tbl.find? fun x => decide (x.1 ≤ off) && decide (off < x.1 + x.2.1)).map fun x => ⟨x.2.2, blk + x.1, x.2.1⟩
/-- An element of an array of registers. -/
def elemReg (blk off lo step len : Nat) (f : Nat → Reg) : Option RegAt :=
  let i := (off - lo) / step
  if (off - lo) % step < len then some ⟨f i, blk + lo + step * i, len⟩ else none
/-- An offset lies in an array of `n` elements. -/
def inArr (off lo step n : Nat) : Bool := decide (lo ≤ off) && decide (off < lo + step * n)

def idTable : List (Nat × Nat × Reg) :=
  [(0, 4, .devid), (4, 4, .rev), (8, 4, .lcountCopy), (0xC, 4, .bootstat), (0x100, 8, .apbase), (0x108, 4, .linkdown)]
def pkgTable : List (Nat × Nat × Reg) :=
  [(0, 4, .pkgctl), (0x20, 8, .faqbase), (0x28, 4, .faqsize), (0x2C, 4, .faqcons), (0x30, 4, .faqprod), (0x34, 2, .faqmsi),
   (0x36, 2, .faqstat), (0x40, 8, .migold), (0x48, 8, .mignew), (0x50, 8, .migpte), (0x58, 4, .migcmd), (0x60, 8, .resident)]
def srTable : List (Nat × Nat × Reg) :=
  [(0, 8, .srbase), (8, 4, .srsize), (0xC, 4, .srcons), (0x10, 4, .srprod), (0x18, 8, .rpbase), (0x20, 4, .srwake), (0x24, 2, .srmsi)]
def pwrTable : List (Nat × Nat × Reg) :=
  [(0, 4, .pwrcap), (4, 4, .env), (8, 4, .pwrstat), (0xC, 2, .pwrmsi), (0x10, 4, .idlew), (0x80, 1, .fsafe), (0x400, 4, .fwctl)]
def sysTable : List (Nat × Nat × Reg) :=
  [(0x80, 8, .mirbase), (0x88, 8, .mirsize), (0x90, 8, .mirinv), (0x98, 8, .mirhit), (0xA0, 8, .mirmiss), (0xA8, 8, .mirused),
   (0x100, 8, .aggbase), (0x240, 4, .lcount), (0xC000, 4, .bpcount), (0xC008, 8, .bpcmd)]
def seifTable : List (Nat × Nat × Reg) :=
  [(0, 4, .seifctl), (4, 4, .seifstat), (8, 4, .capstep), (0x10, 8, .man 0), (0x18, 8, .man 1), (0x400, 8, .rbdesc), (0x408, 4, .rbctl),
   (0x40C, 4, .rbstat), (0x410, 4, .rbserve), (0x418, 8, .rbquota), (0x420, 8, .rbserved), (0x428, 8, .rbdone)]
def queueTable (q : Nat) : List (Nat × Nat × Reg) :=
  [(0, 8, .qrbase q), (8, 1, .qrsize q), (9, 1, .qprio q), (0xA, 2, .qctrl q), (0xC, 2, .qmsi q), (0xE, 1, .qctx q), (0xF, 1, .gap),
   (0x10, 4, .qrd q), (0x14, 4, .qstat q), (0x18, 4, .qreset q), (0x20, 4, .qwake q), (0x28, 8, .haltbase q), (0x30, 4, .haltsize q),
   (0x34, 4, .haltused q), (0x38, 8, .savebase q), (0x40, 8, .savesize q), (0x48, 4, .pdelay q), (0x4C, 0xB4, .gap)]

/-- A vector's entry of the MSI-X table: address, data, vector control (17 R470; log 62). -/
def msixReg (blk off row : Nat) : Option RegAt :=
  let lo := off / 16 * 16
  some (if off % 16 < 8 then ⟨.msixAddr row, blk + lo, 8⟩ else if off % 16 < 12 then ⟨.msixData row, blk + lo + 8, 4⟩
    else ⟨.msixCtl row, blk + lo + 12, 4⟩)
def sysReg (o : Nat) : Option RegAt :=
  let blk := 0x200000
  if inArr o 0 8 16 then elemReg blk o 0 8 8 .ctx
  else if inArr o 0x180 8 8 then elemReg blk o 0x180 8 8 .ramp
  else if inArr o 0x200 8 8 then elemReg blk o 0x200 8 8 .harv
  else if inArr o 0x400 2 288 then elemReg blk o 0x400 2 2 .ltab
  else if inArr o 0x1000 8 1024 then elemReg blk o 0x1000 8 8 .route
  else if inArr o 0x4000 8 4096 then elemReg blk o 0x4000 8 8 .badpage
  else findReg sysTable blk o
def pwrReg (o : Nat) : Option RegAt :=
  let blk := 0x100000
  if inArr o 0x40 8 8 then elemReg blk o 0x40 8 2 .opt
  else if inArr o 0x100 8 9 then elemReg blk o 0x100 8 8 .pfloor
  else if inArr o 0x200 1 72 then elemReg blk o 0x200 1 1 .clpool
  else if inArr o 0x300 1 72 then elemReg blk o 0x300 1 1 .clfreq
  else if inArr o 0x380 1 72 then elemReg blk o 0x380 1 1 .rblim
  else findReg pwrTable blk o
def ageReg (o : Nat) : Option RegAt :=
  let blk := 0x180000
  if inArr o 0 8 72 then elemReg blk o 0 8 8 .ageEntry
  else if inArr o 0x500 1 36 then elemReg blk o 0x500 1 1 .dcfgmap
  else findReg [(0x300, 1, .mthr), (0x304, 2, .agemsi), (0x400, 8, .dcfg)] blk o
def seifReg (o : Nat) : Option RegAt :=
  let blk := 0x300000
  if inArr o 0x100 32 16 then
    let i := (o - 0x100) / 32
    let b := blk + 0x100 + 32 * i
    some (match (o - 0x100) % 32 / 8 with
      | 0 => ⟨.seifSrc i, b, 8⟩ | 1 => ⟨.seifLen i, b + 8, 8⟩ | 2 => ⟨.seifDst i 0, b + 16, 8⟩ | _ => ⟨.seifDst i 1, b + 24, 8⟩)
  else findReg seifTable blk o
def cntReg (o : Nat) : Option RegAt :=
  let blk := 0x400000
  if inArr o 0 0x400 288 then
    let c := o / 0x400
    let r := o % 0x400
    let b := blk + 0x400 * c
    if r < 8 then some ⟨.lclock c, b, 8⟩
    else if r < 12 then some ⟨.dropcnt c, b + 8, 4⟩
    else if inArr r 0x100 16 32 then some ⟨.slotWord c ((r - 0x100) / 16) (r % 16 / 4), b + r / 4 * 4, 4⟩
    else none
  else if inArr o 0x48000 16 5 then
    let n := (o - 0x48000) / 16
    let b := blk + 0x48000 + 16 * n
    some (match o % 16 / 4 with
      | 0 => ⟨.eccCorr n, b, 4⟩ | 1 => ⟨.eccUncorr n, b + 4, 4⟩ | 2 => ⟨.eccThr n, b + 8, 4⟩ | _ => ⟨.gap, b + 12, 4⟩)
  else if inArr o 0x49000 8 384 then elemReg blk o 0x49000 8 8 .l2clk
  else if inArr o 0x49C00 8 2 then elemReg blk o 0x49C00 8 8 .scmclk
  else if inArr o 0x50000 16 4096 then
    let q := (o - 0x50000) / 16
    some ⟨if o % 16 / 4 = 3 then .gap else .qtotal q (o % 16 / 4), blk + o / 4 * 4, 4⟩
  else none
/-- The register at a byte of the control BAR; nothing where no block assigns it (17 R466). -/
def regAt (off : Nat) : Option RegAt :=
  if off < 0x1000 then
    if 0x800 ≤ off then some ⟨.mailbox (off - 0x800), off, 1⟩
    else match findReg idTable 0 off with
      | some r => some r
      | none => some ⟨.gap, off, 1⟩
  else if 0x1000000 ≤ off && decide (off < 0x1100000) then
    findReg (queueTable ((off - 0x1000000) / 256)) (off / 256 * 256) (off % 256)
  else if 0x30000 ≤ off && decide (off < 0x38000) then msixReg 0x30000 (off - 0x30000) ((off - 0x30000) / 16)
  else if 0x38000 ≤ off && decide (off < 0x38100) then some ⟨.pba (off - 0x38000), off, 1⟩
  else if off / 0x10000 = 1 then findReg pkgTable 0x10000 (off % 0x10000)
  else if off / 0x10000 = 2 then findReg srTable 0x20000 (off % 0x10000)
  else if inArr off 0x80000 1 72 then elemReg 0 off 0x80000 1 1 .clpart
  else if inArr off 0x80100 1 4096 then elemReg 0 off 0x80100 1 1 .qpart
  else if off / 0x80000 = 2 then pwrReg (off - 0x100000)
  else if off / 0x80000 = 3 then ageReg (off - 0x180000)
  else if off / 0x100000 = 2 then sysReg (off - 0x200000)
  else if off / 0x100000 = 3 then seifReg (off - 0x300000)
  else if off / 0x100000 = 4 then cntReg (off - 0x400000)
  else none

/-- The registers an access covers, in ascending offset. -/
def regsIn (at' : Nat → Option RegAt) (off size : Nat) : List RegAt := ((List.range size).filterMap fun i => at' (off + i)).eraseDups

end Sys2Proof.Machine
end

