-- ==== Sys2Proof/Machine/Access.lean ====
section
/-! DEFINITION. Accesses of the sequencer, the engines and the front end: bytes read and written at their homes by virtual or
scratchpad address, on this package or another (spec/09 R248, R257–R259, R263, R266; spec/11 R309; spec/14 R395, R404; spec/17 R474). -/

namespace Sys2Proof.Machine

/-- What an access comes to. `wait`: an answer of another package has not come. -/
inductive EAns where
  | ok | wait | absent (va : Nat) | fatal (code va : Nat)
  deriving DecidableEq, Repr

/-- Who accesses memory, how, the core whose TLB translates and whose L1 must not keep what is written (09 R259, 11 R309), the clock
of a seq_cst access (11 R305), whether a read takes poisoned bytes as they are (09 R263), and whether it is a load or store of the
sequencer, which the L1 takes part in (14 R395). -/
structure Eng where
  who  : List Nat
  via  : Via
  core : Option Nat
  clk  : Option DWord := none
  raw  : Bool := false
  cached : Bool := false
  deriving DecidableEq, Repr

/-- Where one line's part of an access is performed. -/
inductive Place1 where
  | here (p : Phys) (code : Bool) | there (pa : Nat) (code : Bool) | walk (ea : Nat) | stop (a : EAns)
  deriving DecidableEq, Repr

/-- A range cut at the lines, given enough parts. -/
def pieces (a : Nat) : Nat → Nat → List (Nat × Nat)
  | 0, _ => []
  | f + 1, n => if n = 0 then [] else (a, min n (128 - a % 128)) :: pieces (a + min n (128 - a % 128)) f (n - min n (128 - a % 128))
def lines (a n : Nat) : List (Nat × Nat) := pieces a (n / 128 + 2) n

/-- What an engine's access to a device offset raises: PHYS_HOLE where no block assigns it (09 R257, 17 R466; log 58). -/
def mmioCode (off : Nat) : Nat := if (regsIn regAt off 4).isEmpty then Code.physHole else Code.protFault
/-- The place of a part: PATH 3 outside SCM and a forbidden page are PROT_FAULT, holes PHYS_HOLE (09 R257, 10 R288; log 58). While it
needs a walk that has no room, it waits (09 R259). -/
def State.place1 (s : State) (e : Eng) (va : Nat) (a : Acc) : Place1 :=
  if s.walkFull e.core e.via.ctx va then .stop .wait
  else match s.xlateAt e.core e.via.ctx va a with
  | .ok pa code => match s.phys pa with
    | .hbm x => if e.via.persist.isSome then .stop (.fatal Code.protFault va) else .here (.hbm x) code
    | .scm x => .here (.scm x) code
    | .remote _ => match localPhys (pa % 2 ^ 42) with
      | .hbm _ => if e.via.persist.isSome then .stop (.fatal Code.protFault va) else .there pa code
      | .scm _ => .there pa code
      | .mmio off => .stop (.fatal (mmioCode off) va)
      | _ => .stop (.fatal Code.physHole va)
    | .mmio off => .stop (.fatal (mmioCode off) va)
    | .hole => .stop (.fatal Code.physHole va)
  | .absent => .stop (.absent va)
  | .prot => .stop (.fatal Code.protFault va)
  | .lost => .stop (.fatal Code.linkLost va)
  | .wait ea => .walk ea
  | .miss => .stop .wait

/-- The first part that stops an access. -/
def stops (ps : List Place1) : Option EAns := ps.findSome? fun p => match p with
  | .stop a => some a
  | _ => none

/-- The translations of an access: each line's page is used in, or filled into, the TLB of its core (09 R259). -/
def State.tlbLines (s : State) (e : Eng) (va n : Nat) : State :=
  (lines va n).foldl (fun (s : State) x => if s.walkFull e.core e.via.ctx x.1 then s else s.tlbTouch e.core e.via.ctx x.1) s

/-- Perform the parts of a read in order; the answer is a wait while another package has not answered. -/
def State.readParts (s : State) (e : Eng) : List (Place1 × Nat × Nat) → State × EAns × List Byte
  | [] => (s, .ok, [])
  | (p, va, n) :: rest =>
    let one : State × EAns × List Byte := match p with
      | .here ph _ => match ph with
        | .hbm x | .scm x =>
          if !e.raw && s.poisoned (s.homeAddr x) then (s, .fatal Code.memPoison va, [])
          else let r := s.homeRead ph e.via n; (r.1, .ok, r.2)
        | _ => (s, .ok, [])
      | .there pa _ => match s.ask e.who pa fun rid => .read rid (pa % 2 ^ 42) n e.clk with
        | (s, .data b) => (s, .ok, (b ++ List.replicate n 0).take n)
        | (s, .lost) => (s, .fatal Code.linkLost va, [])
        | (s, .poison) => (s, .fatal Code.memPoison va, [])
        | (s, .pending) => (s, .wait, [])
      | .walk ea => (s.askWalk ea, .wait, [])
      | .stop a => (s, a, [])
    let more := one.1.readParts e rest
    (more.1, if one.2.1 == .ok then more.2.1 else one.2.1, one.2.2 ++ more.2.2)

/-- Read bytes by virtual address, and keep the answers of other packages for the rest of the operation. -/
def State.readKeep (s : State) (e : Eng) (va n : Nat) : State × EAns × List Byte :=
  let ps := (lines va n).map fun x => (s.place1 e x.1 .read, x.1, x.2)
  let s := s.tlbLines e va n
  match stops (ps.map (·.1)) with
  | some a => (s, a, [])
  | none => s.readParts e ps
/-- Read bytes by virtual address. -/
def State.readVa (s : State) (e : Eng) (va n : Nat) : State × EAns × List Byte :=
  let r := s.readKeep e va n
  if r.2.1 == .ok then (r.1.asked e.who, r.2) else r

/-- Perform the parts of a write that lie on other packages; the answer is a wait while one has not acknowledged. -/
def State.writeThere (s : State) (e : Eng) : List (Place1 × Nat × List Byte) → State × EAns
  | [] => (s, .ok)
  | (p, va, bs) :: rest =>
    let one : State × EAns := match p with
      | .there pa _ => match s.ask e.who pa fun rid => .write rid (pa % 2 ^ 42) bs e.via.persist e.clk with
        | (s, .data _) | (s, .poison) => (s, .ok)
        | (s, .lost) => (s, .fatal Code.linkLost va)
        | (s, .pending) => (s, .wait)
      | .walk ea => (s.askWalk ea, .wait)
      | .stop a => (s, a)
      | .here _ _ => (s, .ok)
    let more := one.1.writeThere e rest
    (more.1, if one.2 == .ok then more.2 else one.2)

/-- An engine's write leaves no line in the L1 of the core it acts for, but for a read-only one (09 R247, 11 R309; log 46). -/
def State.engDrop (s : State) (e : Eng) (pa : Nat) : State :=
  match e.core.filter fun _ => !e.cached with
  | some c => s.l1Drop c fun l => l.line == pa / 128 && !l.ro
  | none => s
/-- The 52-bit address of a local one. -/
def State.globalPa (s : State) (a : Nat) : Nat := s.pkg * 2 ^ 42 + a

/-- Write the parts of this package at their homes. -/
def State.writeHere (s : State) (e : Eng) (ps : List (Place1 × Nat × List Byte)) : State :=
  ps.foldl (fun (s : State) x => match x.1 with
    | .here (.hbm a) code => (s.homeWrite (.hbm a) { e.via with code := code } x.2.2).engDrop e (s.globalPa a)
    | .here (.scm a) code => (s.homeWrite (.scm a) { e.via with code := code } x.2.2).engDrop e (s.globalPa a)
    | .there pa code => (if code then s.mirDrop (fun _ => false) (· == pa / 2 ^ 16) else s).engDrop e pa
    | _ => s) s

/-- The parts of a byte list at an address. -/
def cut (va : Nat) (bs : List Byte) : List (Nat × List Byte) :=
  (lines va bs.length).map fun x => (x.1, (bs.drop (x.1 - va)).take x.2)

/-- Write bytes by virtual address, and keep the answers of other packages: nothing is written while a part cannot be, nor on this
package while another one has not acknowledged its part. -/
def State.writeKeep (s : State) (e : Eng) (va : Nat) (bs : List Byte) : State × EAns :=
  let ps := (cut va bs).map fun x => (s.place1 e x.1 .write, x.1, x.2)
  let s := s.tlbLines e va bs.length
  match stops (ps.map (·.1)) with
  | some a => (s, a)
  | none =>
    let r := s.writeThere e ps
    if r.2 == .ok then (r.1.writeHere e ps, .ok) else r
/-- What keeps a write of `n` bytes from its place; an entry of another package's table that its translation needs is asked for. -/
def State.canWrite (s : State) (e : Eng) (va n : Nat) : State × Option EAns :=
  let ps := (lines va n).map fun x => s.place1 e x.1 .write
  match stops ps, ps.findSome? (fun p => match p with
    | .walk ea => some ea
    | _ => none) with
  | some a, _ => (s, some a)
  | none, some ea => (s.askWalk ea, some .wait)
  | none, none => (s, none)
/-- Write bytes by virtual address. -/
def State.writeVa (s : State) (e : Eng) (va : Nat) (bs : List Byte) : State × EAns :=
  let r := s.writeKeep e va bs
  if r.2 == .ok then (r.1.asked e.who, .ok) else r

/-- Read bytes of a block's scratchpad address (10 R278): PATH 1 when `own`, else a cluster address (log 54). -/
def State.readSpad (s : State) (b : Nat) (own : Bool) (ea n : Nat) : EAns × List Byte :=
  match (if own then s.ownSpad b ea n else s.spadTarget b ea n) with
  | some (o, off) => match s.blocks[o]? with
    | some k =>
      if (lines off n).any fun x => k.spadPoison.contains (x.1 / 128) then (.fatal Code.memPoison ea, [])
      else (.ok, Memory.bytes k.spad off n)
    | none => (.fatal Code.spadBounds ea, [])
  | none => (.fatal Code.spadBounds ea, [])

/-- Write bytes at a scratchpad address. -/
def State.writeSpad (s : State) (b : Nat) (own : Bool) (ea : Nat) (bs : List Byte) : State × EAns :=
  match (if own then s.ownSpad b ea bs.length else s.spadTarget b ea bs.length) with
  | some (o, off) => ((cut off bs).foldl (fun (s : State) x => s.modBlock o fun k => k.spadPut x.1 x.2) s, .ok)
  | none => (s, .fatal Code.spadBounds ea)

/-- The engine access of a block: its context and chain, its core's L1. -/
def State.engOf (s : State) (b : Nat) (who : List Nat) : Eng :=
  match s.blocks[b]? with
  | some k => { who := who, via := s.viaOf k, core := some k.core }
  | none => { who := who, via := Via.plain 0, core := none }

/-! ### Accesses of the device itself, by physical address -/

/-- The place of a part by physical address. -/
def State.placePhys (s : State) (pa : Nat) : Place1 :=
  match s.phys pa with
  | .hbm x => .here (.hbm x) false
  | .scm x => .here (.scm x) false
  | .remote _ => match localPhys (pa % 2 ^ 42) with
    | .hbm _ | .scm _ => .there pa false
    | _ => .stop (.fatal Code.physHole pa)
  | .mmio off => .stop (.fatal (mmioCode off) pa)
  | .hole => .stop (.fatal Code.physHole pa)
def devEng (who : List Nat) : Eng := { who := who, via := Via.plain 0, core := none }
/-- A part lies in a poisoned line. -/
def State.partPoisoned (s : State) (p : Place1) : Bool :=
  match p with
  | .here (.hbm a) _ | .here (.scm a) _ => s.poisoned (s.homeAddr a)
  | _ => false
/-- Read bytes by physical address for an agent, and keep the answers of other packages for the rest of the operation. -/
def State.readPhys (s : State) (e : Eng) (pa n : Nat) : State × EAns × List Byte :=
  let ps := (lines pa n).map fun x => (s.placePhys x.1, x.1, x.2)
  match stops (ps.map (·.1)) with
  | some a => (s, a, [])
  | none => s.readParts e ps
/-- Read bytes by physical address, and keep the answers of other packages for the rest of the operation. -/
def State.readPaKeep (s : State) (who : List Nat) (pa n : Nat) : State × EAns × List Byte := s.readPhys (devEng who) pa n
/-- Read bytes by physical address. -/
def State.readPa (s : State) (who : List Nat) (pa n : Nat) : State × EAns × List Byte :=
  let r := s.readPaKeep who pa n
  if r.2.1 == .ok then (r.1.asked who, r.2) else r
/-- Write several byte lists by physical address, as persist writes where `pers` is set and the place is SCM; nothing is written on
this package while another one has not acknowledged its part. -/
def State.writePas (s : State) (who : List Nat) (pers : Bool) (ws : List (Nat × List Byte)) : State × EAns :=
  let e := { devEng who with via := { Via.plain 0 with persist := if pers then some (none, 0) else none } }
  let ps := (ws.flatMap fun w => cut w.1 w.2).map fun x => (s.placePhys x.1, x.1, x.2)
  match stops (ps.map (·.1)) with
  | some a => (s, a)
  | none =>
    let r := s.writeThere e ps
    if r.2 == .ok then ((r.1.writeHere e ps).asked who, .ok) else r
/-- Write bytes by physical address. -/
def State.writePa (s : State) (who : List Nat) (pers : Bool) (pa : Nat) (bs : List Byte) : State × EAns := s.writePas who pers [(pa, bs)]
/-- A range of physical addresses that reaches memory in every line (13 R359). -/
def State.reaches (s : State) (pa n : Nat) : Bool :=
  (lines pa n).all fun x => match s.placePhys x.1 with
    | .stop _ => false
    | _ => true
/-- The place of a record of the device: memory that is not poisoned (09 R261, 13 R364). -/
def State.recordOk (s : State) (pa n : Nat) : Bool := s.reaches pa n && (lines pa n).all fun x => !s.partPoisoned (s.placePhys x.1)

end Sys2Proof.Machine
end

