-- ==== Sys2Proof/Machine/Float.lean ====
section
/-! DEFINITION. Floating-point values, decoding, exact arithmetic and rounding (spec/06 R156–R168, spec/07 R182–R189). -/

namespace Sys2Proof.Machine

/-! ### Values and formats -/

/-- A decoded value: NaN, infinity, or (−1)^neg × m × 2^e exactly. -/
inductive FVal where
  | nan (signalling : Bool) | inf (neg : Bool) | fin (neg : Bool) (m : Nat) (e : Int)
  deriving DecidableEq, Repr

/-- A format: precision, exponent of the smallest normal, the magnitude code of the largest finite value, the weight of the
sign bit (0: unsigned), the code of +∞ where there is one, and the NaN code. A magnitude code of exponent field f and
trailing field m is f × 2^(p − 1) + m in every format of R156, R162 and R163. -/
structure Fmt where
  p : Nat
  emin : Int
  maxCode : Nat
  signW : Nat
  inf : Option Nat
  nan : Nat
  deriving DecidableEq, Repr

/-- 06 R156, R157. -/
def fp32 : Fmt := ⟨24, -126, 0x7F7FFFFF, 2 ^ 31, some 0x7F800000, 0x7FC00000⟩
def fp16 : Fmt := ⟨11, -14, 0x7BFF, 2 ^ 15, some 0x7C00, 0x7E00⟩
def bf16 : Fmt := ⟨8, -126, 0x7F7F, 2 ^ 15, some 0x7F80, 0x7FC0⟩

/-- The value of a magnitude code. -/
def Fmt.mag (f : Fmt) (code : Nat) : Nat × Int :=
  let t := f.p - 1
  if code / 2 ^ t = 0 then (code % 2 ^ t, f.emin - t) else (2 ^ t + code % 2 ^ t, f.emin - t + (code / 2 ^ t - 1 : Nat))

/-- Decode a bit pattern of FP32, FP16 or BF16 (06 R156, R157). -/
def Fmt.decode (f : Fmt) (bits : Nat) : FVal :=
  let neg := bits / f.signW % 2 == 1
  let c := bits % f.signW
  let inf := f.inf.getD 0
  if c = inf then .inf neg
  else if inf < c then .nan (c < f.nan)
  else .fin neg (f.mag c).1 (f.mag c).2

/-! ### Rounding (06 R159–R161) -/

/-- `2^k` as a pair of factors for numerator and denominator. -/
def scale2 (k : Int) : Nat × Nat := if 0 ≤ k then (2 ^ k.toNat, 1) else (1, 2 ^ (-k).toNat)
/-- m1 × 2^e1 < m2 × 2^e2. -/
def dyLt (m1 : Nat) (e1 : Int) (m2 : Nat) (e2 : Int) : Bool :=
  decide (m1 * (scale2 (e1 - e2)).1 < m2 * (scale2 (e1 - e2)).2)
/-- ⌊log2 (n/d)⌋ of a positive rational. -/
def ilog2 (n d : Nat) : Int :=
  let e : Int := (n.log2 : Int) - d.log2
  if n * (scale2 (-e)).1 < d * (scale2 (-e)).2 then e - 1 else e

/-- Round n/d to an integer in a mode; `odd` says whether the code of the lower candidate is odd. -/
def rndNat (rm : Rm) (neg : Bool) (n d : Nat) (odd : Nat → Bool) : Nat :=
  let q := n / d
  let r := n % d
  let up := match rm with
    | .rne => decide (d < 2 * r) || (2 * r == d && odd q)
    | .rtz => false
    | .rdn => neg && r != 0
    | .rup => !neg && r != 0
  if up then q + 1 else q

/-- A magnitude rounded into a format: value m × 2^e, and what R160 asks of it. -/
structure Rounded where
  m : Nat
  e : Int
  inexact : Bool
  tooBig : Bool
  tiny : Bool
  deriving DecidableEq, Repr

/-- Round (n/d) at a quantum 2^q of a format; ties go to the even code (06 R159). -/
def Fmt.atQuantum (f : Fmt) (rm : Rm) (neg : Bool) (n d : Nat) (q : Int) : Nat :=
  let s := scale2 (-q)
  rndNat rm neg (n * s.1) (d * s.2) fun m => ((m : Int) + (q - (f.emin - (f.p - 1 : Nat))) * 2 ^ (f.p - 1)) % 2 != 0

/-- Round a magnitude n/d > 0: overflow and tininess are judged with the exponent range unbounded (06 R159, R160). -/
def Fmt.roundMag (f : Fmt) (rm : Rm) (neg : Bool) (n d : Nat) : Rounded :=
  let e0 := ilog2 n d
  let t : Int := (f.p - 1 : Nat)
  let qu := e0 - t
  let mu := f.atQuantum rm neg n d qu
  let q := max e0 f.emin - t
  let m := f.atQuantum rm neg n d q
  let s := scale2 (-q)
  ⟨m, q, m * (d * s.2) != n * s.1, dyLt (f.mag f.maxCode).1 (f.mag f.maxCode).2 mu qu, dyLt mu qu 1 f.emin⟩

/-- The code of a rounded magnitude. -/
def Fmt.code (f : Fmt) (r : Rounded) : Nat := r.m + (r.e - (f.emin - (f.p - 1 : Nat))).toNat * 2 ^ (f.p - 1)
def Fmt.signed (f : Fmt) (neg : Bool) (c : Nat) : Nat := c + b2n neg * f.signW
/-- The outcome of an overflow is an infinity (06 R159). -/
def overInf (rm : Rm) (neg : Bool) : Bool :=
  match rm with
  | .rne => true
  | .rtz => false
  | .rdn => neg
  | .rup => !neg

/-- Round an exact magnitude n/d with a sign into an IEEE format, with its flags (06 R159, R160). -/
def Fmt.round (f : Fmt) (rm : Rm) (neg : Bool) (n d : Nat) : Nat × Raised :=
  if n = 0 then (f.signed neg 0, .none)
  else
    let r := f.roundMag rm neg n d
    if r.tooBig then (f.signed neg (if overInf rm neg then f.inf.getD 0 else f.maxCode), .of ||| .nx)
    else (f.signed neg (f.code r),
      if r.inexact then (if r.tiny then .uf ||| .nx else .nx) else .none)

/-- Round m × 2^e. -/
def Fmt.roundDy (f : Fmt) (rm : Rm) (neg : Bool) (m : Nat) (e : Int) : Nat × Raised :=
  f.round rm neg (m * (scale2 e).1) (scale2 e).2

/-! ### NaNs and operations (06 R157, 07 R184–R188) -/

def FVal.isNan : FVal → Bool
  | .nan _ => true
  | _ => false
def FVal.isSnan : FVal → Bool
  | .nan s => s
  | _ => false
def FVal.isZero : FVal → Bool
  | .fin _ m _ => m == 0
  | _ => false
def FVal.isInf : FVal → Bool
  | .inf _ => true
  | _ => false
def FVal.neg? : FVal → Bool
  | .inf n => n
  | .fin n _ _ => n
  | .nan _ => false
def FVal.flip : FVal → FVal
  | .inf n => .inf !n
  | .fin n m e => .fin (!n) m e
  | x => x
/-- The canonical NaN, with NV for a signalling input (06 R157). -/
def Fmt.nanOf (f : Fmt) (xs : List FVal) : Nat × Raised := (f.nan, if xs.any FVal.isSnan then .nv else .none)
def Fmt.invalid (f : Fmt) : Nat × Raised := (f.nan, .nv)
def Fmt.infinity (f : Fmt) (neg : Bool) : Nat := f.signed neg (f.inf.getD 0)

/-- The exact sum of two finite values, as a signed multiple of 2^e. -/
def dySum (n1 : Bool) (m1 : Nat) (e1 : Int) (n2 : Bool) (m2 : Nat) (e2 : Int) : Int × Int :=
  let e := min e1 e2
  let a : Int := m1 * (2 : Int) ^ (e1 - e).toNat
  let b : Int := m2 * (2 : Int) ^ (e2 - e).toNat
  ((if n1 then -a else a) + (if n2 then -b else b), e)

/-- The rounded sum of two finite values, with the sign of an exact zero (06 R161). -/
def Fmt.addFin (f : Fmt) (rm : Rm) (n1 : Bool) (m1 : Nat) (e1 : Int) (n2 : Bool) (m2 : Nat) (e2 : Int) : Nat × Raised :=
  let r := dySum n1 m1 e1 n2 m2 e2
  if r.1 = 0 then (f.signed (if n1 == n2 then n1 else rm == .rdn) 0, .none)
  else f.roundDy rm (decide (r.1 < 0)) r.1.natAbs r.2

/-- 07 R184. -/
def Fmt.add (f : Fmt) (rm : Rm) (x y : FVal) : Nat × Raised :=
  match x, y with
  | .nan _, _ | _, .nan _ => f.nanOf [x, y]
  | .inf a, .inf b => if a == b then (f.infinity a, .none) else f.invalid
  | .inf a, .fin _ _ _ => (f.infinity a, .none)
  | .fin _ _ _, .inf b => (f.infinity b, .none)
  | .fin n1 m1 e1, .fin n2 m2 e2 => f.addFin rm n1 m1 e1 n2 m2 e2
def Fmt.sub (f : Fmt) (rm : Rm) (x y : FVal) : Nat × Raised := f.add rm x y.flip
def Fmt.mul (f : Fmt) (rm : Rm) (x y : FVal) : Nat × Raised :=
  let s := x.neg? ^^ y.neg?
  match x, y with
  | .nan _, _ | _, .nan _ => f.nanOf [x, y]
  | .fin _ m1 e1, .fin _ m2 e2 => f.roundDy rm s (m1 * m2) (e1 + e2)
  | _, _ => if x.isZero || y.isZero then f.invalid else (f.infinity s, .none)
def Fmt.div (f : Fmt) (rm : Rm) (x y : FVal) : Nat × Raised :=
  let s := x.neg? ^^ y.neg?
  match x, y with
  | .nan _, _ | _, .nan _ => f.nanOf [x, y]
  | .inf _, .inf _ => f.invalid
  | .inf _, .fin _ _ _ => (f.infinity s, .none)
  | .fin _ _ _, .inf _ => (f.signed s 0, .none)
  | .fin _ m1 e1, .fin _ m2 e2 =>
    if m2 = 0 then (if m1 = 0 then f.invalid else (f.infinity s, .dz))
    else f.round rm s (m1 * (scale2 (e1 - e2)).1) (m2 * (scale2 (e1 - e2)).2)
/-- 07 R185: one rounding, RNE. NV for 0 × ∞ whatever z holds. -/
def Fmt.fma (f : Fmt) (x y z : FVal) : Nat × Raised :=
  let s := x.neg? ^^ y.neg?
  let bad := (x.isZero && y.isInf) || (x.isInf && y.isZero)
  match x, y, z with
  | .nan _, _, _ | _, .nan _, _ => f.nanOf [x, y, z]
  | _, _, .nan sz => (f.nan, if bad || sz then .nv else .none)
  | .fin _ m1 e1, .fin _ m2 e2, .fin n3 m3 e3 => f.addFin .rne s (m1 * m2) (e1 + e2) n3 m3 e3
  | .fin _ _ _, .fin _ _ _, .inf c => (f.infinity c, .none)
  | _, _, .inf c => if bad || s != c then f.invalid else (f.infinity c, .none)
  | _, _, .fin _ _ _ => if bad then f.invalid else (f.infinity s, .none)

/-- x < y of two values that are not NaN; −0 and +0 are equal here. -/
def FVal.lt (x y : FVal) : Bool :=
  match x, y with
  | .inf a, .inf b => a && !b
  | .inf a, _ => a
  | _, .inf b => !b
  | .fin n1 m1 e1, .fin n2 m2 e2 => decide ((dySum n1 m1 e1 (!n2) m2 e2).1 < 0)
  | _, _ => false

/-- FMIN and FMAX of two patterns (07 R186): −0 is smaller than +0, equals give x. -/
def Fmt.minMax (f : Fmt) (isMax : Bool) (a b : Nat) : Nat × Raised :=
  let x := f.decode a
  let y := f.decode b
  let fl := if x.isSnan || y.isSnan then Raised.nv else Raised.none
  let less := x.lt y || (x.isZero && y.isZero && x.neg? && !y.neg?)
  let more := y.lt x || (x.isZero && y.isZero && !x.neg? && y.neg?)
  (if x.isNan && y.isNan then f.nan else if x.isNan then b else if y.isNan then a
   else if (if isMax then less else more) then b else a, fl)

/-- 07 R187. -/
def Fmt.compare (f : Fmt) (c : FCmp) (a b : Nat) : Bool × Raised :=
  let x := f.decode a
  let y := f.decode b
  let un := x.isNan || y.isNan
  let sig := if x.isSnan || y.isSnan then Raised.nv else Raised.none
  let any := if un then Raised.nv else Raised.none
  match c with
  | .eq => (!un && !x.lt y && !y.lt x, sig)
  | .ne => (un || x.lt y || y.lt x, sig)
  | .lt => (!un && x.lt y, any)
  | .le => (!un && !y.lt x, any)
  | .gt => (!un && y.lt x, any)
  | .ge => (!un && !x.lt y, any)
  | .num => (!un, sig)
  | .nan => (un, sig)

/-- Integer square root by Newton steps from above; the fuel bounds them. -/
def isqrtFrom (n : Nat) : Nat → Nat → Nat
  | 0, x => x
  | k + 1, x => let y := (x + n / x) / 2; if y < x then isqrtFrom n k y else x
def isqrt (n : Nat) : Nat := if n = 0 then 0 else isqrtFrom n (n.log2 + 8) (2 ^ (n.log2 / 2 + 1))

/-- FSQRT (07 R188): the root to 64 extra bits, with a sticky half unit where it is not exact. -/
def Fmt.sqrt (f : Fmt) (rm : Rm) (x : FVal) : Nat × Raised :=
  match x with
  | .nan _ => f.nanOf [x]
  | .inf n => if n then f.invalid else (f.infinity false, .none)
  | .fin n m e =>
    if m = 0 then (f.signed n 0, .none)
    else if n then f.invalid
    else
      let (m, e) := if e % 2 = 0 then (m, e) else (2 * m, e - 1)
      let r := isqrt (m * 2 ^ 128)
      f.roundDy rm false (2 * r + b2n (r * r != m * 2 ^ 128)) (e / 2 - 65)

/-- FRND (07 R188). -/
def Fmt.integral (f : Fmt) (rm : Rm) (bits : Nat) : Nat × Raised :=
  match f.decode bits with
  | .nan s => (f.nan, if s then .nv else .none)
  | .inf _ => (bits, .none)
  | .fin n m e =>
    if 0 ≤ e || m = 0 then (bits, .none)
    else
      let q := rndNat rm n m (2 ^ (-e).toNat) fun k => k % 2 == 1
      ((f.roundDy .rne n q 0).1, if q * 2 ^ (-e).toNat = m then .none else .nx)

/-- FSCALE (07 R188). An exponent past ±1,000 overflows or underflows every finite value alike. -/
def Fmt.scaleBy (f : Fmt) (rm : Rm) (x : FVal) (k : Int) : Nat × Raised :=
  match x with
  | .nan _ => f.nanOf [x]
  | .inf n => (f.infinity n, .none)
  | .fin n m e => f.roundDy rm n m (e + max (-1000) (min 1000 k))

/-- FCLASS (07 R189). -/
def classOf (bits : Nat) : Nat :=
  match fp32.decode bits with
  | .inf n => if n then 1 else 2 ^ 7
  | .nan s => if s then 2 ^ 8 else 2 ^ 9
  | .fin n m _ =>
    let sub := decide (m < 2 ^ 23)
    if m = 0 then (if n then 8 else 16) else if n then (if sub then 4 else 2) else (if sub then 32 else 64)

/-- The value of a pattern after ABS and NEG (07 R182), for elements of `w` bits. -/
def fmod (abs neg : Bool) (w v : Nat) : Nat :=
  let v := if abs then v % 2 ^ (w - 1) else v
  if neg then (BitVec.ofNat w v ^^^ BitVec.ofNat w (2 ^ (w - 1))).toNat else v

/-! ### Conversions (06 R165–R168) -/

/-- Round any value into an IEEE format (06 R168). -/
def Fmt.convert (f : Fmt) (rm : Rm) (x : FVal) : Nat × Raised :=
  match x with
  | .nan _ => f.nanOf [x]
  | .inf n => (f.infinity n, .none)
  | .fin n m e => f.roundDy rm n m e

/-- A value into an integer range (06 R166, R167). -/
def toInt (lo hi : Int) (rm : Rm) (x : FVal) : Int × Raised :=
  match x with
  | .nan _ => (0, .nv)
  | .inf n => (if n then lo else hi, .nv ||| .nx)
  | .fin n m e =>
    let s := scale2 e
    let q := rndNat rm n (m * s.1) s.2 fun k => k % 2 == 1
    let v : Int := if n then -q else q
    if v < lo then (lo, .nv ||| .nx) else if hi < v then (hi, .nv ||| .nx)
    else (v, if q * s.2 = m * s.1 then .none else .nx)

/-! ### binary8 (06 R162–R166, R170) -/

/-- The element formats a block can name. -/
inductive BFmt where
  | b8 (f : Fmt) | int8 | uint8
  deriving DecidableEq, Repr

/-- The format an FMT byte names, unless it is reserved (06 R162–R164, R170). -/
def bfmt (x : Nat) : Option BFmt :=
  let p := x % 8
  let u := nbit x 3
  let i := nbit x 4
  if x / 32 % 8 != 0 then none
  else if p = 0 then (if i then none else some (if u then .uint8 else .int8))
  else if u then some (.b8 ⟨p, 1 - 2 ^ (8 - p), if i then 0xFD else 0xFE, 0, if i then some 0xFE else none, 0xFF⟩)
  else some (.b8 ⟨p, 1 - 2 ^ (7 - p), if i then 0x7E else 0x7F, 0x80, if i then some 0x7F else none, 0x80⟩)

/-- Decode an element code (06 R162, R163, R155). -/
def BFmt.decode (f : BFmt) (c : Nat) : FVal :=
  match f with
  | .int8 => .fin (decide (128 ≤ c)) (sval 8 c).natAbs 0
  | .uint8 => .fin false c 0
  | .b8 f =>
    if c = f.nan then .nan false
    else
      let neg := f.signW != 0 && decide (f.signW ≤ c)
      let a := if neg then c - f.signW else c
      if f.inf == some a then .inf neg else .fin neg (f.mag a).1 (f.mag a).2

/-- Encode a value into binary8 (06 R165, R166, R161; log 49). -/
def Fmt.enc8 (f : Fmt) (rm : Rm) (ovf : Bool) (x : FVal) : Nat × Raised :=
  let sgn := fun (n : Bool) (c : Nat) => if c = 0 then 0 else f.signed n c
  match x with
  | .nan s => (f.nan, if s then .nv else .none)
  | .inf n =>
    if n && f.signW = 0 then (f.nan, .nv)
    else if !ovf then (sgn n f.maxCode, .none)
    else match f.inf with
      | some c => (sgn n c, .none)
      | none => (f.nan, .nv)
  | .fin n m e =>
    if m = 0 then (0, .none)
    else
      let r := f.roundMag rm n (m * (scale2 e).1) (scale2 e).2
      if n && f.signW = 0 && r.m != 0 then (f.nan, .nv)
      else if r.tooBig then
        if !ovf || !overInf rm n then (sgn n f.maxCode, .of ||| .nx)
        else match f.inf with
          | some c => (sgn n c, .of ||| .nx)
          | none => (f.nan, .nv)
      else (sgn n (f.code r), if r.inexact then (if r.tiny then .uf ||| .nx else .nx) else .none)

/-- enc_f of 07: into the format an FMT byte names. -/
def BFmt.enc (f : BFmt) (rm : Rm) (ovf : Bool) (x : FVal) : Nat × Raised :=
  match f with
  | .b8 f => f.enc8 rm ovf x
  | .int8 => let r := toInt (-128) 127 rm x; ((BitVec.ofInt 8 r.1).toNat, r.2)
  | .uint8 => let r := toInt 0 255 rm x; ((BitVec.ofInt 8 r.1).toNat, r.2)

/-- Multiply by a power of two, exactly. -/
def FVal.scale (x : FVal) (k : Int) : FVal :=
  match x with
  | .fin n m e => .fin n m (e + k)
  | x => x

/-- The NaN code of a block's format (07 R197). -/
def BFmt.nan : BFmt → Nat
  | .b8 f => f.nan
  | _ => 0

/-- rne of a magnitude to the format's precision does not exceed its largest finite value (06 R176, 07 R196). -/
def BFmt.fits (f : BFmt) (m : Nat) (e : Int) : Bool :=
  if m = 0 then true
  else
    let n := m * (scale2 e).1
    let d := (scale2 e).2
    match f with
    | .b8 f => !(f.roundMag .rne false n d).tooBig
    | .int8 => decide (rndNat .rne false n d (fun k => k % 2 == 1) ≤ 127)
    | .uint8 => decide (rndNat .rne false n d (fun k => k % 2 == 1) ≤ 255)

/-- The scale ASTORE and BSCALE choose: the smallest s of 0–254 that fits, else 254 (06 R176, 07 R196). -/
def BFmt.scaleFor (f : BFmt) (m : Nat) (e : Int) : Nat :=
  ((List.range 255).find? fun (s : Nat) => f.fits m (e + 127 - s)).getD 254

end Sys2Proof.Machine
end

