-- ==== Sys2Proof/Machine/Approx.lean ====
section
/-! DEFINITION. The approximated functions (spec/07 R190, R191). The spec bounds their results and leaves the bits to a
reference model it does not hold: `Config.approx` stands for that model, and its value is kept where it lies within the bound
of R190, the nearest FP32 value otherwise (log 15). The exact values are evaluated in fixed point, far finer than any bound. -/

namespace Sys2Proof.Machine

/-- ⌊π × 2^400⌋ and ⌊ln 2 × 2^192⌋. -/
def piFix : Nat := 0x3243f6a8885a308d313198a2e03707344a4093822299f31d0082efa98ec4e6c89452821e638d01377be5466cf34e90c6cc0ac
def ln2Fix : Nat := 0xb17217f7d1cf79abc9e3b39803f2f6af40f343267298b62d
/-- The unit of the fixed-point evaluations. -/
def fixOne : Nat := 2 ^ 192

/-- ⌊(−1)^neg × m × 2^e × 2^s⌋. -/
def toFix (s : Nat) (neg : Bool) (m : Nat) (e : Int) : Int :=
  let v : Int := if neg then -m else m
  if 0 ≤ e + s then v * 2 ^ (e + s).toNat else Int.fdiv v (2 ^ (-(e + s)).toNat)

/-- A power series whose term k is the term before, times x, over `den k`. -/
def series (x : Int) (den : Nat → Nat) : Nat → Nat → Int → Int → Int
  | 0, _, _, acc => acc
  | f + 1, k, term, acc =>
    let t := Int.tdiv (term * x) (fixOne * den k)
    series x den f (k + 1) t (acc + t)
/-- e^y for 0 ≤ y < 1. -/
def expFix (y : Nat) : Nat := (series y (fun k => k + 1) 64 0 fixOne fixOne).toNat
def sinFix (r : Int) : Int :=
  series (-(Int.fdiv (r * r) fixOne)) (fun k => (2 * k + 2) * (2 * k + 3)) 40 0 r r
def cosFix (r : Int) : Int :=
  series (-(Int.fdiv (r * r) fixOne)) (fun k => (2 * k + 1) * (2 * k + 2)) 40 0 fixOne fixOne
/-- atanh z, for 0 ≤ z ≤ 1/3. -/
def atanhFix (z : Nat) : Nat → Nat → Nat → Nat → Nat
  | 0, _, _, acc => acc
  | f + 1, k, p, acc => atanhFix z f (k + 1) (p * z / fixOne * z / fixOne) (acc + p / (2 * k + 1))

/-- A signed rational value. -/
structure Real where
  neg : Bool
  n : Nat
  d : Nat
  deriving DecidableEq, Repr

def Real.ofFix (s : Nat) (v : Int) : Real := ⟨decide (v < 0), v.natAbs, 2 ^ s⟩

/-- 2^x. -/
def exp2Real (neg : Bool) (m : Nat) (e : Int) : Real :=
  let x := toFix 192 neg m e
  let k := Int.fdiv x fixOne
  let y := (x - k * fixOne).toNat * ln2Fix / fixOne
  ⟨false, expFix y * (scale2 (k - 192)).1, (scale2 (k - 192)).2⟩
/-- log2 of m × 2^e. -/
def log2Real (m : Nat) (e : Int) : Real :=
  let l := m.log2
  let z := (m - 2 ^ l) * fixOne / (m + 2 ^ l)
  let ln := 2 * atanhFix z 64 0 z 0
  Real.ofFix 192 ((e + l) * fixOne + (ln * fixOne / ln2Fix : Nat))
/-- tanh of m × 2^e, up to its sign. -/
def tanhReal (neg : Bool) (m : Nat) (e : Int) : Real :=
  if dyLt m e 1 (-12) then
    let k := (-e).toNat
    ⟨neg, 15 * m * 2 ^ (4 * k) - 5 * m ^ 3 * 2 ^ (2 * k) + 2 * m ^ 5, 15 * 2 ^ (5 * k)⟩
  else if !dyLt m e 32 0 then ⟨neg, 2 ^ 90 - 1, 2 ^ 90⟩
  else
    let y := (toFix 192 false (2 * m) e).toNat
    let v := expFix (y % ln2Fix) * 2 ^ (y / ln2Fix)
    ⟨neg, v - fixOne, v + fixOne⟩
/-- sin or cos. -/
def trigReal (isCos : Bool) (neg : Bool) (m : Nat) (e : Int) : Real :=
  let x := toFix 400 neg m e
  let k := Int.fdiv (4 * x + piFix) (2 * piFix)
  let r := Int.fdiv (x - Int.fdiv (k * piFix) 2) (2 ^ 208)
  let j := (k + (if isCos then 1 else 0)) % 4
  Real.ofFix 192 (if j = 0 then sinFix r else if j = 1 then cosFix r else if j = 2 then -(sinFix r) else -(cosFix r))
/-- x − 2πk rounded to FP32, k the integer nearest x / 2π (07 R191). -/
def reduceTrig (neg : Bool) (m : Nat) (e : Int) : Nat :=
  let x := toFix 400 neg m e
  let k := Int.fdiv (x + piFix) (2 * piFix)
  let r := x - k * (2 * piFix)
  (fp32.roundDy .rne (decide (r < 0)) r.natAbs (-400)).1

/-- An ulp of FP32 at a value's magnitude, as an exponent of 2 (07 R190). -/
def Real.ulp (v : Real) : Int := (if v.n = 0 then -126 else max (ilog2 v.n v.d) (-126)) - 23

/-- |c − v| is at most the bound 2^b, with the slack of the evaluation. -/
def Real.within (v : Real) (c : FVal) (bn bd : Nat) : Bool :=
  match c with
  | .fin neg m e =>
    let cn : Int := m * (scale2 e).1
    let diff := (if neg then -cn else cn) * v.d - (if v.neg then -1 else 1) * v.n * ((scale2 e).2 : Int)
    decide (diff.natAbs * bd * 2 ^ 40 ≤ bn * (scale2 e).2 * v.d * (2 ^ 40 + 1))
  | _ => false

/-- The delivered value: the reference model's, where it lies within `k` ulp (or 2^abs where that is larger). -/
def Real.pick (v : Real) (fn : Nat) (x : Word) (k : Nat) (abs : Option Int) : Nat × Raised :=
  let u := v.ulp
  let b := match abs with
    | some a => if dyLt k u 1 a then scale2 a else (k * (scale2 u).1, (scale2 u).2)
    | none => (k * (scale2 u).1, (scale2 u).2)
  let c := (Config.approx fn x).toNat
  let near := fp32.round .rne v.neg v.n v.d
  let tiny := v.n != 0 && (fp32.roundMag .rne v.neg v.n v.d).tiny
  (if v.within (fp32.decode c) b.1 b.2 then c else near.1, if tiny then .uf ||| .nx else .nx)

/-- m × 2^e is a power of two, whose exponent is given. -/
def powTwo (m : Nat) (e : Int) : Option Int := if m = 2 ^ m.log2 && m != 0 then some (e + m.log2) else none

/-- FRCP (07 R190). -/
def frcp (x : Word) : Nat × Raised :=
  match fp32.decode x.toNat with
  | .nan s => (fp32.nan, if s then .nv else .none)
  | .inf n => (fp32.signed n 0, .none)
  | .fin n m e =>
    if m = 0 then (fp32.infinity n, .dz)
    else
      let v : Real := ⟨n, (scale2 (-e)).1, m * (scale2 (-e)).2⟩
      if (fp32.roundMag .rne n v.n v.d).tooBig then (fp32.infinity n, .of ||| .nx)
      else if (powTwo m e).isSome then fp32.round .rne n v.n v.d
      else v.pick 0x47 x 1 none

/-- FRSQ (07 R190). -/
def frsq (x : Word) : Nat × Raised :=
  match fp32.decode x.toNat with
  | .nan s => (fp32.nan, if s then .nv else .none)
  | .inf n => if n then fp32.invalid else (0, .none)
  | .fin n m e =>
    if m = 0 then (fp32.infinity n, .dz)
    else if n then fp32.invalid
    else
      let (m2, e2) := if e % 2 = 0 then (m, e) else (2 * m, e - 1)
      let r := isqrt (2 ^ 256 / m2)
      let v : Real := ⟨false, r * (scale2 (-(e2 / 2) - 128)).1, (scale2 (-(e2 / 2) - 128)).2⟩
      match powTwo m e with
      | some k => if k % 2 = 0 then fp32.round .rne false (scale2 (-(k / 2))).1 (scale2 (-(k / 2))).2 else v.pick 0x48 x 1 none
      | none => v.pick 0x48 x 1 none

/-- FEXP2 (07 R190). -/
def fexp2 (x : Word) : Nat × Raised :=
  match fp32.decode x.toNat with
  | .nan s => (fp32.nan, if s then .nv else .none)
  | .inf n => (if n then 0 else fp32.infinity false, .none)
  | .fin n m e =>
    if m = 0 then (0x3F800000, .none)
    else if !n && !dyLt m e 128 0 then (fp32.infinity false, .of ||| .nx)
    else if n && !dyLt m e 150 0 then (0, .uf ||| .nx)
    else
      let k := toFix 0 n m e
      if 0 ≤ e || m % 2 ^ (-e).toNat = 0 then fp32.round .rne false (scale2 k).1 (scale2 k).2
      else (exp2Real n m e).pick 0x4B x (if n && dyLt 126 0 m e then 0 else 2) (if n && dyLt 126 0 m e then some (-149) else none)

/-- FLOG2 (07 R190). -/
def flog2 (x : Word) : Nat × Raised :=
  match fp32.decode x.toNat with
  | .nan s => (fp32.nan, if s then .nv else .none)
  | .inf n => if n then fp32.invalid else (fp32.infinity false, .none)
  | .fin n m e =>
    if m = 0 then (fp32.infinity true, .dz)
    else if n then fp32.invalid
    else match powTwo m e with
      | some k => fp32.round .rne (decide (k < 0)) k.natAbs 1
      | none => (log2Real m e).pick 0x4C x 2 (if !dyLt m e 1 (-1) && dyLt m e 2 0 then some (-22) else none)

/-- FSIN and FCOS of a finite value no larger than 1,024 (07 R190). -/
def trig (isCos : Bool) (x : Word) (n : Bool) (m : Nat) (e : Int) : Nat × Raised :=
  if m = 0 then (if isCos then (0x3F800000, .none) else (fp32.signed n 0, .none))
  else (trigReal isCos n m e).pick (if isCos then 0x4E else 0x4D) x 2 (some (-24))

/-- FSIN and FCOS (07 R190, R191). -/
def fsinCos (isCos : Bool) (x : Word) : Nat × Raised :=
  match fp32.decode x.toNat with
  | .nan s => (fp32.nan, if s then .nv else .none)
  | .inf _ => fp32.invalid
  | .fin n m e =>
    if dyLt 1024 0 m e then
      let r := reduceTrig n m e
      match fp32.decode r with
      | .fin n m e => ((trig isCos (BitVec.ofNat 32 r) n m e).1, .nx)
      | _ => (fp32.nan, .nx)
    else trig isCos x n m e

/-- FTANH (07 R190). -/
def ftanh (x : Word) : Nat × Raised :=
  match fp32.decode x.toNat with
  | .nan s => (fp32.nan, if s then .nv else .none)
  | .inf n => (fp32.signed n 0x3F800000, .none)
  | .fin n m e => if m = 0 then (fp32.signed n 0, .none) else (tanhReal n m e).pick 0x4F x 1 none

end Sys2Proof.Machine
end

