-- ==== Sys2Proof/Machine/Tiles.lean ====
section
/-! DEFINITION. Tiles and accumulators: TALLOC, TFREE, TLOAD, TSTORE, TSET, AALLOC, AFREE, ACLR, ASTORE, ALOAD, and the row by row
progress and completion of their transfers (spec/14 R397–R410, spec/06 R173, R176). -/

namespace Sys2Proof.Machine

/-! ### Tiles of a block (14 R399, R400) -/

def Tile.none : Tile := ⟨.unbound, 0, .fp32, 0⟩
def Block.tile (k : Block) (i : Nat) : Tile := k.tiles.getD i Tile.none
def State.modTile (s : State) (b i : Nat) (f : Tile → Tile) : State := s.modBlock b fun k => { k with tiles := upd k.tiles i f }
def State.setTile (s : State) (b i : Nat) (x : TileState) : State := s.modTile b i fun t => { t with state := x }
/-- A writer, TSET or TFREE may take the tile: EMPTY or READY with no read hold. -/
def Tile.takable (t : Tile) : Bool := (t.state == .empty || t.state == .ready) && t.holds == 0
def Tile.bound (t : Tile) : Bool := t.state != .unbound
/-- A K register that KPITCH names, or the row size where it names K0 (14 R401, R409). -/
def Block.pitch (k : Block) (n row : Nat) : DWord := if n = 0 then BitVec.ofNat 64 row else k.kreg n

/-- TALLOC (14 R401). -/
def execTalloc (g : Guard) (t : Fin 64) (ty : Ty) (koff : Fin 128) (s : State) : Res :=
  .next <| s.onSeq g fun b k =>
    let off := (k.kreg koff.val).toNat
    if (k.tile t.val).bound || k.spadBytes / 16384 ≤ countp k.tiles Tile.bound then s.haltSeq b Code.tileState 0
    else if off % 128 != 0 || k.spadBytes < off + 8192 then s.haltSeq b Code.spadBounds (BitVec.ofNat 64 off)
    else (s.modTile b t.val fun _ => ⟨.empty, off, ty, 0⟩).seqNext b
/-- TFREE (14 R400, R401). -/
def execTfree (g : Guard) (t : Fin 64) (s : State) : Res :=
  .next <| s.onSeq g fun b k =>
    if !(k.tile t.val).bound then s.haltSeq b Code.tileState 0
    else if (k.tile t.val).takable then (s.modTile b t.val fun _ => Tile.none).seqNext b else s
/-- TSET (14 R400, R401). -/
def execTset (g : Guard) (t : Fin 64) (s : State) : Res :=
  .next <| s.onSeq g fun b k =>
    if !(k.tile t.val).bound then s.haltSeq b Code.tileState 0
    else if (k.tile t.val).takable then (s.setTile b t.val .ready).seqNext b else s

/-! ### Transfers in progress (14 R402–R404) -/

/-- Start a transfer: CNT.TL rises and the sequencer goes on. -/
def State.startXfer (s : State) (b : Nat) (x : Nat → Xfer) : State :=
  let (s, id) := s.newId
  (s.modBlock b fun k => { k with cntTl := k.cntTl + 1, xfers := k.xfers ++ [x id] }).seqNext b
def State.xfer? (s : State) (b id : Nat) : Option Xfer := (s.blocks[b]?).bind fun k => k.xfers.find? fun x => x.id == id
def State.modXfer (s : State) (b id : Nat) (f : Xfer → Xfer) : State :=
  s.modBlock b fun k => { k with xfers := k.xfers.map fun x => if x.id == id then f x else x }
def State.dropXfer (s : State) (b id : Nat) : State := s.modBlock b fun k => { k with xfers := k.xfers.filter fun x => x.id != id }
/-- CNT.TL falls by one. -/
def State.lowerTl (s : State) (b : Nat) : State := s.modBlock b fun k => { k with cntTl := k.cntTl - 1 }
/-- A transfer that a fatal fault ends: its block halts, the tiles stand as they are (14 R392, R404). -/
def State.failXfer (s : State) (b id code va : Nat) : State := ((s.haltEngine b code va).dropXfer b id).lowerTl b
/-- The AGENT of an engine's record that has no slot number of its own: the spec names none (log 17). -/
def freeAgent (id : Nat) : Nat := (Config.freeValue (2 ^ 64 + id)).toNat % 65536
/-- A transfer stalls on a page that is not present (14 R404). -/
def State.stallXfer (s : State) (b id va : Nat) (a : Acc) : State :=
  (s.modXfer b id fun x => { x with faultVa := some va }).faultRecord b 3 (freeAgent id) va a
/-- What an access of a transfer comes to: go on, wait, stall or fail. -/
def State.xferAns (s : State) (b id : Nat) (a : Acc) (r : EAns) (go : State) : State :=
  match r with
  | .ok => go
  | .wait => s
  | .absent va => s.stallXfer b id va a
  | .fatal c va => (s.asked [4, b, id]).failXfer b id c va

def State.xferEng (s : State) (b id : Nat) : Eng := s.engOf b [4, b, id]
def Xfer.rowAddr (x : Xfer) : Nat := (x.addr + BitVec.ofNat 64 x.row * x.pitch).toNat
/-- Read one row of a transfer from memory or a cluster scratchpad address. -/
def State.xferRead (s : State) (b : Nat) (x : Xfer) (n : Nat) : State × EAns × List Byte :=
  if x.spad then (s, s.readSpad b false x.rowAddr n) else s.readVa (s.xferEng b x.id) x.rowAddr n
def State.xferWrite (s : State) (b : Nat) (x : Xfer) (bs : List Byte) : State × EAns :=
  if x.spad then s.writeSpad b false x.rowAddr bs else s.writeVa (s.xferEng b x.id) x.rowAddr bs
/-- The block and tile a target names still stand as they did at issue (04 R119, R120). -/
def State.targetLive (s : State) (t : Nat × Nat × BitVec 4) : Bool :=
  match s.resident? t.1 with
  | some k => k.gen == t.2.2
  | none => false
/-- Place a row in the tiles of the targets that still stand. -/
def State.putRow (s : State) (ts : List (Nat × Nat × BitVec 4)) (row : Nat) (bs : List Byte) : State :=
  ts.foldl (fun (s : State) t => if s.targetLive t then
    s.modBlock t.1 fun k => k.spadPut ((k.tile t.2.1).offset + 128 * row) bs else s) s
/-- Turn the targets READY; a late return to a block that is gone is dropped and counted (04 R120, R122). -/
def State.readyTargets (s : State) (ts : List (Nat × Nat × BitVec 4)) : State :=
  ts.foldl (fun (s : State) t =>
    if s.targetLive t then s.setTile t.1 t.2.1 .ready
    else match s.blocks[t.1]? with
      | some k => s.modCore k.core fun c => { c with dropcnt := satAdd c.dropcnt 1 }
      | none => s) s
def State.subBar (s : State) (b : Nat) (bar : Option Nat) (bytes : Nat) : State :=
  match bar with
  | some i => s.subPending b i bytes
  | none => s

/-- The blocks of 64 bytes of a row hold a reserved FMT (06 R170, R172). -/
def rowFmtBad (bs : List Byte) : Bool :=
  (bfmt (bs.getD 0 0).toNat).isNone || (bfmt (bs.getD 64 0).toNat).isNone

/-- The peers a TLOAD multicasts to, in ascending core order: their handle, or nothing where no block stands (14 R402). -/
def State.mcastBlocks (s : State) (b : Nat) (k : Block) (m : BitVec 4) : List Nat :=
  (List.range 4).filterMap fun c => if c = cslotOf k.core then some b else if m.getLsbD c then s.peer b c else none

/-- TLOAD (14 R402). -/
def execTload (g : Guard) (t : Fin 64) (mcast : BitVec 4) (ksrc kpitch : Fin 128) (spad baren : Bool) (bar : Fin 16) (s : State) : Res :=
  .next <| s.onSeq g fun b k =>
    let ts := s.mcastBlocks b k mcast
    let tiles := ts.map fun o => ((s.blocks[o]?).map fun x => x.tile t.val).getD Tile.none
    if tiles.any fun x => !x.bound then s.haltSeq b Code.tileState 0
    else if tiles.any (fun x => !x.takable) || k.cntTl == 63 then s
    else
      let tg := ts.map fun o => (o, t.val, ((s.blocks[o]?).map (·.gen)).getD 0)
      (ts.foldl (fun (s : State) o => s.setTile o t.val .filling) s).startXfer b fun id =>
        ⟨id, .tload, tg, 0, false, spad, k.kreg ksrc.val, k.pitch kpitch.val 128, 0, if baren then some bar.val else none,
          (k.tile t.val).ty, 0, k.gen, none⟩
/-- TSTORE (14 R403). -/
def execTstore (g : Guard) (t : Fin 64) (kdst kpitch : Fin 128) (spad baren : Bool) (bar : Fin 16) (s : State) : Res :=
  .next <| s.onSeq g fun b k =>
    if !(k.tile t.val).bound then s.haltSeq b Code.tileState 0
    else if (k.tile t.val).state != .ready || k.cntTl == 63 then s
    else (s.modTile b t.val fun x => { x with state := .draining, holds := x.holds + 1 }).startXfer b fun id =>
      ⟨id, .tstore, [(b, t.val, k.gen)], 0, false, spad, k.kreg kdst.val, k.pitch kpitch.val 128, 0,
        if baren then some bar.val else none, (k.tile t.val).ty, 0, k.gen, none⟩

/-- An event of a transfer of one kind: passed over where there is none such, or it is stalled. -/
def State.onXfer (s : State) (b id : Nat) (kind : XferKind) (f : Xfer → Block → State) : State :=
  match s.resident? b, s.xfer? b id with
  | some k, some x => if x.kind == kind && x.faultVa.isNone then f x k else s
  | _, _ => s

/-- TLOAD_COMPLETION: the next row, and after the last the completion in the order of 14 R402 (log 52). -/
def execTloadCompletion (b n : Nat) (s : State) : Res :=
  .next <| s.onXfer b n .tload fun x _ =>
    if x.row < 64 then
      let r := s.xferRead b x 128
      r.1.xferAns b n .read r.2.1
        (if x.ty == .b8 && rowFmtBad r.2.2 then r.1.failXfer b n Code.blockFormat x.rowAddr
         else (r.1.putRow x.targets x.row r.2.2).modXfer b n fun x => { x with row := x.row + 1 })
    else (((s.readyTargets x.targets).subBar b x.bar 8192).lowerTl b).dropXfer b n
/-- TSTORE_COMPLETION: the next row, and after the last the completion (14 R403). -/
def execTstoreCompletion (b n : Nat) (s : State) : Res :=
  .next <| s.onXfer b n .tstore fun x k =>
    let t := (x.targets.headD (b, 0, 0)).2.1
    if x.row < 64 then
      let d := s.readSpad b true ((k.tile t).offset + 128 * x.row) 128
      match d.1 with
      | .ok =>
        let r := s.xferWrite b x d.2
        r.1.xferAns b n .write r.2 (r.1.modXfer b n fun x => { x with row := x.row + 1 })
      | a => s.xferAns b n .read a s
    else (((s.modTile b t fun y => { y with state := .ready, holds := y.holds - 1 }).subBar b x.bar 8192).lowerTl b).dropXfer b n

/-! ### Accumulators (14 R407, R408, 08 R240) -/

def Block.acc (k : Block) (h : Nat) : Option (Nat × BitVec 4) := (k.accs[h]?).join
def State.bank? (s : State) (k : Block) : Option Bank := (s.cores[k.core]?).bind fun c => c.banks[k.bank]?
/-- The bank of the block is active, and no switch away from it is under way. -/
def State.bankActive (s : State) (k : Block) : Bool :=
  match s.cores[k.core]? with
  | some c => c.active == k.bank && c.switching.isNone
  | none => false
def State.modAccTile (s : State) (k : Block) (i : Nat) (f : AccTile → AccTile) : State :=
  s.modCore k.core fun c => { c with banks := upd c.banks k.bank fun x => { x with tiles := upd x.tiles i f } }
/-- The words of a handle's tile. -/
def State.accWords (s : State) (k : Block) (h : Nat) : List Word :=
  match k.acc h with
  | some (i, _) => (((s.bank? k).bind fun x => x.tiles[i]?).map (·.words)).getD []
  | none => []
def State.setAccWords (s : State) (b h : Nat) (ws : List Word) : State :=
  match s.blocks[b]? with
  | some k => match k.acc h with
    | some (i, _) => s.modAccTile k i fun x => { x with words := ws }
    | none => s
  | none => s
/-- 4,096 zero words. -/
def zeroAcc : List Word := List.replicate 4096 0
/-- An instruction of the block on the handle, issued before `id`, has not taken effect (14 R408). -/
def State.accBefore (s : State) (b h id : Nat) : Bool :=
  match s.blocks[b]? with
  | some k => k.xfers.any (fun x => (x.kind == .aload || x.kind == .astore) && x.handle == h && decide (x.id < id)) ||
      (((s.cores[k.core]?).map (·.mmas)).getD []).any fun m => m.blk == b && m.handle == h && decide (m.id < id)
  | none => false
/-- An instruction on the handle has not taken effect. -/
def State.accBusy (s : State) (b h : Nat) : Bool := s.accBefore b h s.homes.nextId
def State.maxacc (s : State) (k : Block) : Nat := ((s.launch? k).map (·.lrec.maxacc)).getD 16

/-- An accumulator instruction of a mapped handle: it waits for its bank and for `ready` (14 R407, R396). -/
def State.accOp (s : State) (g : Guard) (h : Fin 16) (ready : Nat → Block → Bool) (go : Nat → Block → State) : State :=
  s.onSeq g fun b k =>
    if (k.acc h.val).isNone then s.haltSeq b Code.accState 0
    else if s.bankActive k && ready b k then go b k else s

/-- AALLOC (14 R407). -/
def execAalloc (g : Guard) (h : Fin 16) (s : State) : Res :=
  .next <| s.onSeq g fun b k =>
    if (k.acc h.val).isSome then s.haltSeq b Code.accState 0
    else if s.maxacc k ≤ countp k.accs (·.isSome) then s.haltSeq b Code.accOvercommit 0
    else if !s.bankActive k then s
    else match ((s.bank? k).map fun x => x.tiles.findIdx? fun t => t.owner.isNone).join with
      | some i =>
        let tag := ((((s.bank? k).bind fun x => x.tiles[i]?).map (·.tag)).getD 0)
        ((s.modAccTile k i fun t => { t with owner := some (b, h.val), words := zeroAcc }).modBlock b fun k =>
          { k with accs := upd k.accs h.val fun _ => some (i, tag) }).seqNext b
      | none => s
/-- AFREE (14 R407; 04 R119). -/
def execAfree (g : Guard) (h : Fin 16) (s : State) : Res :=
  .next <| s.accOp g h (fun b _ => !s.accBusy b h.val) fun b k =>
    match k.acc h.val with
    | some (i, _) => ((s.modAccTile k i fun t => { owner := none, tag := t.tag + 1, words := [] }).modBlock b fun k =>
        { k with accs := upd k.accs h.val fun _ => none }).seqNext b
    | none => s
/-- ACLR takes effect in issue order: it waits for the earlier instructions on the handle (14 R406, R408). -/
def execAclr (g : Guard) (h : Fin 16) (s : State) : Res :=
  .next <| s.accOp g h (fun b _ => !s.accBusy b h.val) fun b _ => (s.setAccWords b h.val zeroAcc).seqNext b

/-- ALOAD (14 R410). An address under SPACE 0 that is not a multiple of 4 raises MISALIGNED (log 18). -/
def execAload (g : Guard) (h : Fin 16) (_ : Bool) (kaddr kpitch : Fin 128) (spad : Bool) (s : State) : Res :=
  .next <| s.accOp g h (fun _ k => k.cntTl != 63) fun b k =>
    let p := k.pitch kpitch.val 256
    if !spad && ((k.kreg kaddr.val).toNat % 4 != 0 || p.toNat % 4 != 0) then s.haltSeq b Code.misaligned (k.kreg kaddr.val)
    else s.startXfer b fun id => ⟨id, .aload, [], h.val, false, spad, k.kreg kaddr.val, p, 0, none, .fp32, 0, ((k.acc h.val).map (·.2)).getD 0, none⟩

/-- Bytes of a row that ASTORE writes (14 R409). -/
def astoreRow (ty : Ty) : Nat :=
  match ty with
  | .fp32 | .int32 => 256
  | _ => 128
/-- ASTORE (14 R409). -/
def execAstore (g : Guard) (h : Fin 16) (d : AstDst) (ty : Ty) (fmt : Byte) (s : State) : Res :=
  .next <| match d with
    | .rows kaddr kpitch spad => s.accOp g h (fun _ k => k.cntTl != 63) fun b k =>
        s.startXfer b fun id => ⟨id, .astore, [], h.val, false, spad, k.kreg kaddr.val, k.pitch kpitch.val (astoreRow ty), 0, none, ty, fmt, k.gen, none⟩
    | .tile t => s.onSeq g fun b k =>
        if (k.acc h.val).isNone then s.haltSeq b Code.accState 0
        else if !(k.tile t.val).bound then s.haltSeq b Code.tileState 0
        else if (k.tile t.val).ty != ty then s.haltSeq b Code.illegalEncoding 0
        else if !s.bankActive k || k.cntTl == 63 || !(k.tile t.val).takable then s
        else (s.setTile b t.val .filling).startXfer b fun id =>
          ⟨id, .astore, [(b, t.val, k.gen)], h.val, true, false, 0, 0, 0, none, ty, fmt, k.gen, none⟩

/-- ALOAD_COMPLETION: the next row once the handle's earlier instructions are done, and after the last CNT.TL falls (14 R410). A return
whose grant tag is no longer the accumulator's is dropped and counted (04 R119, R120). -/
def execAloadCompletion (b n : Nat) (s : State) : Res :=
  .next <| s.onXfer b n .aload fun x k =>
    if s.accBefore b x.handle n then s
    else if (k.acc x.handle).map (·.2) != some x.tag then
      ((s.modCore k.core fun c => { c with dropcnt := satAdd c.dropcnt 1 }).lowerTl b).dropXfer b n
    else if x.row < 64 then
      let r := s.xferRead b x 256
      let ws := (List.range 64).map fun j => BitVec.ofNat 32 (ofBytes ((r.2.2.drop (4 * j)).take 4))
      let old := s.accWords k x.handle
      r.1.xferAns b n .read r.2.1 ((r.1.setAccWords b x.handle (old.take (64 * x.row) ++ ws ++ old.drop (64 * x.row + 64))).modXfer b n fun x =>
        { x with row := x.row + 1 })
    else (s.lowerTl b).dropXfer b n

/-! ### ASTORE's conversions (14 R409, 06 R176) -/

/-- Whether a finite word becomes infinite in a 16-bit format. -/
def narrow (f : Fmt) (w : Nat) : Nat × Nat :=
  let x := fp32.decode w
  let r := (f.convert .rne x).1
  (r, b2n (!x.isNan && !x.isInf && (f.decode r).isInf))

/-- The largest finite magnitude of a block's elements (06 R176). -/
def largest (xs : List FVal) : Nat × Int :=
  xs.foldl (fun (acc : Nat × Int) x => match x with
    | .fin _ m e => if dyLt acc.1 acc.2 m e then (m, e) else acc
    | _ => acc) (0, 0)

/-- One element under a chosen scale, with its overflow count (06 R176). An element below zero of an unsigned target is 0x00,
−∞ too (log 19). -/
def encElem (f : BFmt) (sc : Nat) (x : FVal) : Nat × Nat :=
  let uns := match f with
    | .b8 f => f.signW == 0
    | .uint8 => true
    | .int8 => false
  let top := fun (neg : Bool) => match f with
    | .b8 f => f.signed neg f.maxCode
    | .int8 => (BitVec.ofInt 8 (if neg then -127 else 127)).toNat
    | .uint8 => 255
  match x with
  | .nan _ => (f.nan, 0)
  | .inf n =>
    if n && uns then (0, 0)
    else match f with
      | .b8 q => match q.inf with
        | some c => (q.signed n c, 0)
        | none => (top n, 1)
      | _ => (top n, 1)
  | .fin n m e =>
    if n && uns then (0, 0)
    else if !f.fits m (e + 127 - sc) then (top n, 1)
    else ((f.enc .rne false (.fin n m (e + 127 - sc))).1, 0)

/-- One 64-byte block of 62 elements, zeros where the row has fewer, with its overflow count (06 R170, R176). A NaN in an integer block
makes every byte 0, and the elements that overflow still count (log 81). -/
def encBlock (fmt : Nat) (ws : List Nat) : List Byte × Nat :=
  match bfmt fmt with
  | none => ([], 0)
  | some f =>
    let xs := ((ws ++ List.replicate 62 0).take 62).map fp32.decode
    let int := match f with
      | .b8 _ => false
      | _ => true
    let sc := f.scaleFor (largest xs).1 (largest xs).2
    let es := xs.map (encElem f sc)
    let n := (es.map (·.2)).foldl (· + ·) 0
    if int && xs.any FVal.isNan then
      (BitVec.ofNat 8 fmt :: 0xFF :: List.replicate 62 0, n)
    else (BitVec.ofNat 8 fmt :: BitVec.ofNat 8 sc :: es.map fun e => BitVec.ofNat 8 e.1, n)

/-- A converted row of an ASTORE with its overflow count (14 R409). -/
def convRow (ty : Ty) (fmt : Nat) (ws : List Word) : List Byte × Nat :=
  let half := fun (f : Fmt) =>
    let rs := ws.map fun w => narrow f w.toNat
    (rs.flatMap fun r => toBytes r.1 2, (rs.map (·.2)).foldl (· + ·) 0)
  match ty with
  | .fp16 => half fp16
  | .bf16 => half bf16
  | .b8 =>
    let a := encBlock fmt ((ws.take 62).map (·.toNat))
    let b := encBlock fmt ((ws.drop 62).map (·.toNat))
    (a.1 ++ b.1, a.2 + b.2)
  | _ => (ws.flatMap fun w => toBytes w.toNat 4, 0)

/-- Row `r` of an accumulator's words. -/
def accRow (ws : List Word) (r : Nat) : List Word := (List.range 64).map fun j => ws.getD (64 * r + j) 0

/-- ASTORE_COMPLETION: the next row once the handle's earlier instructions are done, and after the last the counters, the tile
and CNT.TL (14 R409). -/
def execAstoreCompletion (b n : Nat) (s : State) : Res :=
  .next <| s.onXfer b n .astore fun x k =>
    if s.accBefore b x.handle n then s
    else
      let ws := s.accWords k x.handle
      if x.row < 64 then
        let bs := (convRow x.ty x.fmt.toNat (accRow ws x.row)).1
        if x.dtile then (s.putRow x.targets x.row bs).modXfer b n fun x => { x with row := x.row + 1 }
        else
          let r := s.xferWrite b x bs
          r.1.xferAns b n .write r.2 (r.1.modXfer b n fun x => { x with row := x.row + 1 })
      else
        let count := ((List.range 64).map fun r => (convRow x.ty x.fmt.toNat (accRow ws r)).2).foldl (· + ·) 0
        let s := s.modBlock b fun k => { k with mxovf := satAdd k.mxovf count }
        ((if x.dtile then s.readyTargets x.targets else s).lowerTl b).dropXfer b n

end Sys2Proof.Machine
end

