-- ==== Sys2Proof/Machine/Matrix.lean ====
section
/-! DEFINITION. MMA, the matrix unit, the Barchan limiter and the accumulator bank switch (spec/14 R411–R416, spec/06 R173–R175,
spec/08 R231, R240). -/

namespace Sys2Proof.Machine

/-! ### The arithmetic of MMA (06 R174, R175) -/

/-- A sum kept exactly, with what R175 asks of its products. -/
structure ChunkSum where
  nan : Bool
  pos : Bool
  neg : Bool
  val : Int
  exp : Int
  allNeg : Bool
  deriving DecidableEq, Repr

def ChunkSum.zero : ChunkSum := ⟨false, false, false, 0, 0, true⟩
/-- Add one exact product. -/
def ChunkSum.add (c : ChunkSum) (x y : FVal) : ChunkSum :=
  let s := x.neg? ^^ y.neg?
  match x, y with
  | .fin _ m1 e1, .fin _ m2 e2 =>
    let e := min c.exp (e1 + e2)
    let p : Int := (m1 * m2 : Nat) * (2 : Int) ^ (e1 + e2 - e).toNat
    { c with val := c.val * (2 : Int) ^ (c.exp - e).toNat + (if s then -p else p), exp := e
             allNeg := c.allNeg && s && m1 * m2 == 0 }
  | .nan _, _ | _, .nan _ => { c with nan := true }
  | _, _ => if x.isZero || y.isZero then { c with nan := true } else if s then { c with neg := true } else { c with pos := true }

/-- rne32 of a chunk's sum times 2^k, and whether the rounding overflowed (06 R159, R175). -/
def ChunkSum.round (c : ChunkSum) (k : Int) : Nat × Bool :=
  if c.nan || (c.pos && c.neg) then (fp32.nan, false)
  else if c.pos then (fp32.infinity false, false)
  else if c.neg then (fp32.infinity true, false)
  else if c.val = 0 then (fp32.signed c.allNeg 0, false)
  else
    let r := fp32.roundDy .rne (decide (c.val < 0)) c.val.natAbs (c.exp + k)
    (r.1, r.2.getLsbD 2)

/-- One element's input for a chunk: its pairs of operands, and the scales of the two blocks. -/
structure Chunk where
  pairs : List (FVal × FVal)
  scale : Option (Nat × Nat)
  deriving DecidableEq, Repr

/-- The floating-point chunks of one element from `acc`: the new word, and whether a rounding overflowed. -/
def mmaFp (acc : Nat) (cs : List Chunk) : Nat × Bool :=
  cs.foldl (fun (a : Nat × Bool) c =>
    let sum := c.pairs.foldl (fun (x : ChunkSum) p => x.add p.1 p.2) ChunkSum.zero
    let r := match c.scale with
      | none => sum.round 0
      | some (x, y) => if x = 255 || y = 255 then (fp32.nan, false) else sum.round ((x : Int) + y - 254)
    let t := fp32.add .rne (fp32.decode a.1) (fp32.decode r.1)
    (t.1, a.2 || r.2 || t.2.getLsbD 2)) (acc, false)

/-- The integer chunks of one element: the new word, and whether an exact sum left INT32. -/
def mmaInt (acc : Nat) (cs : List (List (Int × Int))) : Nat × Bool :=
  cs.foldl (fun (a : Nat × Bool) c =>
    let sum := s32 a.1 + (c.map fun p => p.1 * p.2).foldl (· + ·) 0
    (w32 sum, a.2 || decide (sum < -2 ^ 31) || decide (2 ^ 31 ≤ sum))) (acc, false)

/-- What an element adds to MXNAN, MXINF and MXOVF: at most one count (06 R175). -/
def mmaCount (before after : Nat) (infIn : Bool) (big : Bool) : Nat × Nat × Nat :=
  let x := fp32.decode before
  let y := fp32.decode after
  let fin := !x.isNan && !x.isInf
  if !x.isNan && y.isNan then (1, 0, 0)
  else if fin && y.isInf && infIn then (0, 1, 0)
  else if fin && y.isInf && big then (0, 0, 1)
  else (0, 0, 0)

/-- The bytes of a tile. -/
def Block.tileByte (k : Block) (t : Tile) (i : Nat) : Nat := (Memory.get k.spad (t.offset + i)).toNat
def Block.tileHalf (k : Block) (t : Tile) (i : Nat) : Nat := Memory.read k.spad (t.offset + i) 2

/-- The elements of one 64-byte block (06 R170, R171), without its scale. A block whose FMT has become reserved since the MMA's head check
holds NaNs (log 82). -/
def Block.tileBlock (k : Block) (t : Tile) (i : Nat) : List FVal :=
  match bfmt (k.tileByte t i) with
  | some f => (List.range 62).map fun j => f.decode (k.tileByte t (i + 2 + j))
  | none => List.replicate 62 (.nan false)

/-- The operand tiles of an MMA (14 R411). -/
structure MmaTiles where
  a  : Block
  ta : Tile
  b  : Block
  tb : Tile
  deriving DecidableEq, Repr

/-- One element of the result with its counts (06 R173–R175). -/
def MmaTiles.elem (x : MmaTiles) (ty : Ty) (i j acc : Nat) : Nat × Nat × Nat × Nat :=
  match ty with
  | .fp16 | .bf16 =>
    let f := if ty == .fp16 then fp16 else bf16
    let cs := (List.range 4).map fun c => (⟨(List.range 16).map fun n =>
      (f.decode (x.a.tileHalf x.ta (128 * i + 2 * (16 * c + n))), f.decode (x.b.tileHalf x.tb (128 * (16 * c + n) + 2 * j))), none⟩ : Chunk)
    let r := mmaFp acc cs
    (r.1, mmaCount acc r.1 (cs.any fun c => c.pairs.any fun p => p.1.isInf || p.2.isInf) r.2)
  | .b8 =>
    let cs := (List.range 2).map fun c => (⟨(x.a.tileBlock x.ta (128 * i + 64 * c)).zip (x.b.tileBlock x.tb (128 * j + 64 * c)),
      some (x.a.tileByte x.ta (128 * i + 64 * c + 1), x.b.tileByte x.tb (128 * j + 64 * c + 1))⟩ : Chunk)
    let r := mmaFp acc cs
    (r.1, mmaCount acc r.1 (cs.any fun c => c.pairs.any fun p => p.1.isInf || p.2.isInf) r.2)
  | _ =>
    let rd := fun (k : Block) (t : Tile) (n : Nat) => if t.ty == .int8 then sval 8 (k.tileByte t n) else (k.tileByte t n : Int)
    let cs := (List.range 4).map fun c => (List.range 32).map fun n => (rd x.a x.ta (128 * i + 32 * c + n), rd x.b x.tb (128 * j + 32 * c + n))
    let r := mmaInt acc cs
    (r.1, 0, 0, b2n r.2)

/-- All 4,096 words of the result with the sums of the counts. -/
def MmaTiles.run (x : MmaTiles) (ty : Ty) (acc : List Word) : List Word × Nat × Nat × Nat :=
  let es := (List.range 4096).map fun n => x.elem ty (n / 64) (n % 64) (acc.getD n 0).toNat
  (es.map fun e => BitVec.ofNat 32 e.1, es.foldl (fun (n : Nat × Nat × Nat) e =>
    (n.1 + e.2.1, n.2.1 + e.2.2.1, n.2.2 + e.2.2.2)) (0, 0, 0))

/-! ### MMA at issue (14 R411, R412) -/

/-- The block whose tile an operand names. -/
def State.mmaBlock (s : State) (b : Nat) (x : TileOp) : Option Nat := if x.own then some b else s.peer b x.core.val
/-- The types match the MMA's TYPE (14 R411). -/
def mmaTypes (ty : Ty) (a b : Tile) : Bool :=
  let int := fun (t : Tile) => t.ty == .int8 || t.ty == .uint8
  match ty with
  | .int8 => int a && int b
  | t => a.ty == t && b.ty == t
/-- An operand names the cluster's core whose harvest bit is clear (02 R82). -/
def State.harvested (s : State) (k : Block) (x : TileOp) : Bool := !x.own && !s.regs.harv.getD (k.core / 4 * 4 + x.core.val) false

/-- MMA: it takes its read holds, raises CNT.TL and joins the core's matrix queue (14 R411, R412). -/
def execMma (g : Guard) (h : Fin 16) (a b : TileOp) (ty : Ty) (clr : Bool) (s : State) : Res :=
  .next <| s.onSeq g fun blk k =>
    if s.harvested k a || s.harvested k b then s.haltSeq blk Code.illegalEncoding 0
    else if (k.acc h.val).isNone then s.haltSeq blk Code.accState 0
    else match s.mmaBlock blk a, s.mmaBlock blk b with
      | some ba, some bb =>
        let ta := ((s.blocks[ba]?).map fun x => x.tile a.tile.val).getD Tile.none
        let tb := ((s.blocks[bb]?).map fun x => x.tile b.tile.val).getD Tile.none
        if !ta.bound || !tb.bound || !mmaTypes ty ta tb then s.haltSeq blk Code.tileState 0
        else if ta.state != .ready || tb.state != .ready || !s.bankActive k || k.cntTl == 63 then s
        else
          let hold := fun (t : Tile) => { t with holds := t.holds + 1 }
          let (s, id) := s.newId
          ((((s.modTile ba a.tile.val hold).modTile bb b.tile.val hold).modBlock blk fun k => { k with cntTl := k.cntTl + 1 }).modCore k.core fun c =>
            { c with mmas := c.mmas ++ [⟨id, blk, h.val, ba, a.tile.val, bb, b.tile.val, ty, clr⟩] }).seqNext blk
      | _, _ => s.haltSeq blk Code.tileState 0

/-! ### The unit's queue (14 R412, R413; 08 R231) -/

def State.mmaTiles (s : State) (m : Mma) : Option MmaTiles :=
  match s.blocks[m.aBlk]?, s.blocks[m.bBlk]? with
  | some a, some b => some ⟨a, a.tile m.aTile, b, b.tile m.bTile⟩
  | _, _ => none
/-- A B8 MMA whose tiles hold a reserved FMT (14 R412). -/
def State.mmaFmtBad (s : State) (m : Mma) : Bool :=
  m.ty == .b8 && match s.mmaTiles m with
    | some x => (List.range 128).any fun i => (bfmt (x.a.tileByte x.ta (64 * i))).isNone || (bfmt (x.b.tileByte x.tb (64 * i))).isNone
    | none => false
/-- The MMA leaves the queue: its holds are released and CNT.TL falls. -/
def State.mmaLeave (s : State) (c : Nat) (m : Mma) : State :=
  let free := fun (t : Tile) => { t with holds := t.holds - 1 }
  (((s.modTile m.aBlk m.aTile free).modTile m.bBlk m.bTile free).lowerTl m.blk).modCore c fun k =>
    { k with mmas := k.mmas.filter fun x => x.id != m.id }
/-- An unstarted MMA of a block at a fatal halt is never started (08 R231). -/
def State.mmaDead (s : State) (m : Mma) : Bool :=
  match s.blocks[m.blk]? with
  | some k => match k.halt with
    | some h => !h.debug
    | none => false
  | none => true

/-- Drop from the head of a core's queue what never starts, and halt the block of a reserved FMT (14 R412, 08 R231). -/
def State.mmaClean (s : State) (c : Nat) : Nat → State
  | 0 => s
  | n + 1 => match (((s.cores[c]?).map (·.mmas)).getD []).head? with
    | some m =>
      if s.mmaDead m then (s.mmaLeave c m).mmaClean c n
      else if s.mmaFmtBad m then ((s.haltEngine m.blk Code.blockFormat 0).mmaLeave c m).mmaClean c n
      else s
    | none => s
/-- The MMA that a core's unit may start: the head of its queue, with no earlier transfer on its handle. -/
def State.mmaHead (s : State) (c : Nat) : Option Mma :=
  ((((s.cores[c]?).map (·.mmas)).getD []).head?).filter fun m => !s.accBefore m.blk m.handle m.id
/-- Clean the head, and say whether an MMA can start. -/
def State.mmaNext (s : State) (c : Nat) : State × Bool :=
  let s := s.mmaClean c ((((s.cores[c]?).map (·.mmas)).getD []).length)
  (s, (s.mmaHead c).isSome)

def State.setUnit (s : State) (c : Nat) (u : MxUnit) : State := s.modCore c fun k => { k with unit := u }

/-- START_GRANT_REQUEST: an idle unit with an MMA at the head of its queue requests a grant (14 R412, R415). -/
def execStartGrantRequest (c : Nat) (s : State) : Res :=
  .next <| if ((s.cores[c]?).map (·.unit)) == some .idle then
    let r := s.mmaNext c
    if r.2 then r.1.setUnit c (.requesting s.cycle) else r.1
  else s

/-! ### Barchan (14 R415, R416) -/

/-- Entry `i` of a ramp table. -/
def rampEntry (r : DWord) (i : Nat) : Nat := fld r (3 * i) 3
/-- A start entry of 0 is taken as 1; from step 8 a unit runs at 4. -/
def startActivity (r : DWord) (step : Nat) : Nat := if 8 ≤ step then 4 else max 1 (rampEntry r step)
/-- A common multiple of every frequency, in which a cycle's work is counted exactly. -/
def cycleUnit : Nat := (List.range 84).foldl (fun n i => Nat.lcm n (i + 1)) 1
/-- The frequency target of the die's step clock: the highest of its awake clusters (14 R415). -/
def State.stepFreq (s : State) (die : Nat) : Nat :=
  (List.range 9).foldl (fun m i => if s.power.asleep.getD (9 * die + i) false then m else max m (s.power.freq.getD (9 * die + i) 0)) 0
/-- The work a step does at an activity: four die cycles of the unit's own clock, by its quarters (14 R415, R416). -/
def State.stepDone (s : State) (c q : Nat) : Nat :=
  q * s.power.freq.getD (clIndex c) 0 * (cycleUnit / max 1 (s.stepFreq (dieOf c)))
/-- 32 cycles' worth of MACs. -/
def fullWork : Nat := 32 * cycleUnit

/-- The unit starts its next MMA at once, runs the fillers of the table then in force, or is idle (14 R413, R415, R416; 15 R435). -/
def State.unitAfter (s : State) (c step : Nat) : State :=
  let r := s.mmaNext c
  let ramp := s.regs.ramps.getD (dieOf c) 0
  if r.2 then r.1.setUnit c (.active step 0)
  else if rampEntry ramp 8 = 0 then r.1.setUnit c .idle
  else r.1.modCore c fun k => { k with unit := .filler 0, ramp := ramp }

/-- The MMA at the head retires: result, counts, holds and CNT.TL together (14 R413). -/
def State.retireMma (s : State) (c step : Nat) : State :=
  match (((s.cores[c]?).map (·.mmas)).getD []).head? with
  | some m => match s.blocks[m.blk]?, s.mmaTiles m with
    | some k, some x =>
      let r := x.run m.ty (if m.clr then zeroAcc else s.accWords k m.handle)
      let s := s.setAccWords m.blk m.handle r.1
      let s := s.modBlock m.blk fun k => { k with
        mxnan := satAdd k.mxnan r.2.1, mxinf := satAdd k.mxinf r.2.2.1, mxovf := satAdd k.mxovf r.2.2.2 }
      (s.mmaLeave c m).unitAfter c step
    | _, _ => (s.mmaLeave c m).unitAfter c step
  | none => s.setUnit c .idle

/-- MMA_RETIRE: the MMA that has done its MACs retires (14 R413). -/
def State.mmaRetire (s : State) (c : Nat) : State :=
  match ((s.cores[c]?).map (·.unit) : Option MxUnit) with
  | some (.active step work) => if fullWork ≤ work then s.retireMma c step else s
  | _ => s
def execMmaRetire (c : Nat) (s : State) : Res := .next (s.mmaRetire c)

/-- What the step that ends does for one unit; a finished MMA retires first. -/
def State.unitStep (s : State) (c : Nat) : State :=
  let s := s.mmaRetire c
  match s.cores[c]? with
  | some k => match k.unit with
    | .active step work => s.setUnit c (.active (step + 1) (work + s.stepDone c (startActivity k.ramp step)))
    | .filler step =>
      let r := s.mmaNext c
      if r.2 then r.1.setUnit c (.active 8 0)
      else r.1.setUnit c (if 7 ≤ step || rampEntry k.ramp (9 + step) == 0 then .idle else .filler (step + 1))
    | .requesting _ => let r := s.mmaNext c; if r.2 then r.1 else r.1.setUnit c .idle
    | _ => s
  | none => s

/-- The core whose request the die grants: the oldest, ties to the lower logical core (14 R415). -/
def State.grantee (s : State) (die : Nat) : Option Nat :=
  ((List.range 36).map (36 * die + ·)).foldl (fun (best : Option (Nat × Nat × Nat)) c =>
    match ((s.cores[c]?).map (·.unit) : Option MxUnit) with
    | some (.requesting t) => match best with
      | some (_, u, l) => if t < u || (t == u && decide (s.logical c < l)) then some (c, t, s.logical c) else best
      | none => some (c, t, s.logical c)
    | _ => best) none |>.map (·.1)

/-- BARCHAN_STEP: at each boundary of 4 die cycles the die's units advance, and at most one start is granted under the table
then in force (14 R415, R416; 15 R435). -/
def execBarchanStep (die : Nat) (s : State) : Res :=
  .next <| if s.cycle % 4 != 0 || decide (8 ≤ die) || decide (s.cycle / 4 < s.barchan.getD die 0) then s
  else
    let s := ((List.range 36).map (36 * die + ·)).foldl (fun (s : State) c => s.unitStep c) s
    let s := match s.grantee die with
      | some c => s.modCore c fun k => { k with unit := .active 0 0, ramp := s.regs.ramps.getD die 0 }
      | none => s
    { s with barchan := upd s.barchan die fun _ => s.cycle / 4 + 1 }

/-! ### The bank switch (08 R240) -/

/-- The sequencer of a block stands at an accumulator instruction whose other conditions hold. -/
def State.accReady (s : State) (b : Nat) (k : Block) : Bool :=
  if !s.seqMoves b k || k.seq.idx == 0 then false
  else match s.fetchWord k false k.seq.pc with
    | .ok w => match decode w with
      | .ok (.aalloc g _) => g.val = 0 || k.kreg g.val != 0
      | .ok (.afree g h) | .ok (.aclr g h) => (g.val = 0 || k.kreg g.val != 0) && !s.accBusy b h.val
      | .ok (.aload g _ _ _ _ _) => (g.val = 0 || k.kreg g.val != 0) && k.cntTl != 63
      | .ok (.astore g _ d _ _) => (g.val = 0 || k.kreg g.val != 0) && k.cntTl != 63 && match d with
        | .tile t => (k.tile t.val).takable
        | _ => true
      | .ok (.mma g _ x y _ _) => (g.val = 0 || k.kreg g.val != 0) && k.cntTl != 63 &&
        [x, y].all fun o => match s.mmaBlock b o with
          | some p => ((s.blocks[p]?).map fun q => (q.tile o.tile.val).state == .ready).getD false
          | none => true
      | _ => false
    | _ => false
/-- The blocks of a core whose context holds one of its banks. -/
def State.bankBlocks (s : State) (c bank : Nat) : List Nat :=
  (List.range s.blocks.length).filter fun b => match s.resident? b with
    | some k => k.core == c && k.bank == bank
    | none => false
def State.anyReady (s : State) (c bank : Nat) : Bool :=
  (s.bankBlocks c bank).any fun b => match s.resident? b with
    | some k => s.accReady b k
    | none => false
/-- Every MMA, ALOAD and ASTORE of a bank's context is done. -/
def State.bankDrained (s : State) (c bank : Nat) : Bool :=
  let bs := s.bankBlocks c bank
  (((s.cores[c]?).map (·.mmas)).getD []).all (fun m => !bs.contains m.blk) &&
  bs.all fun b => ((s.blocks[b]?).map fun k => k.xfers.all fun x => x.kind == .tload || x.kind == .tstore).getD true

/-- BANK_SWITCH: the switch begins when only the other context is ready, waits for the drain, takes 64 cycles, and then the
other bank is active (08 R240). -/
def execBankSwitch (c : Nat) (s : State) : Res :=
  .next <| match s.cores[c]? with
    | none => s
    | some k =>
      let set := fun (d : Option Nat) => s.modCore c fun k => { k with switching := d }
      let drain := if s.bankDrained c k.active then set (some (s.cycle + 64)) else set (some 0)
      match k.switching with
      | none => if !s.anyReady c k.active && s.anyReady c (1 - k.active) then drain else s
      | some d =>
        if d = 0 then drain
        else if d ≤ s.cycle then s.modCore c fun k => { k with active := 1 - k.active, switching := none } else s

end Sys2Proof.Machine
end

