-- ==== Sys2Proof/Machine/Copies.lean ====
section
/-! DEFINITION. Queue carving (QCFG, QREL), the copy commands, CPYCAN, and the copy engines' units and completions
(spec/12 R320–R322, R345–R354). -/

namespace Sys2Proof.Machine

/-! ### Carving (12 R320–R322) -/

def Block.maxq (s : State) (k : Block) : Nat := ((s.launch? k).map (·.lrec.maxq)).getD 16
/-- The storage of a carve. -/
def Carve.span (c : Carve) : Nat × Nat := (c.offset, c.offset + c.cap * c.esz)

/-- QCFG (12 R320, R321). -/
def execQcfg (g : Guard) (q : Fin 16) (ka : Fin 128) (row : Bool) (width : Fin 3) (cap : BitVec 16) (s : State) : Res :=
  .next <| s.onSeq g fun b k =>
    let c : Carve := { Carve.zero (k.queue q.val).tag with
      carved := true, offset := (k.kreg ka.val).toNat, cap := cap.toNat, row := row, width := width.val }
    let sp := c.span
    if (k.queue q.val).carved || Block.maxq s k ≤ countp k.queues (·.carved) || c.offset % 64 != 0 || k.spadBytes < sp.2 ||
      k.queues.any (fun x => x.carved && decide (x.span.1 < sp.2) && decide (sp.1 < x.span.2))
    then s.haltSeq b Code.queueState 0
    else ((s.modBlock b fun k => k.modQ q.val fun _ => c).wakeQueue b q.val).seqNext b

/-- The header of a stream program. -/
def progHdr (x : Stream) : Nat := (x.prog.headD 0).toNat
/-- The queue of a running stream, unless it fills a tile. -/
def Stream.queue (x : Stream) : Option Nat := if nfld (progHdr x) 0 2 = 2 then none else some (nfld (progHdr x) 12 4)
/-- A running stream or an outstanding CPYQ uses the queue (12 R322). -/
def Block.queueUsed (k : Block) (q : Nat) : Bool :=
  k.streams.any (fun x => match x with
    | some x => x.queue == some q
    | none => false) || k.copies.any fun c => c.op == 0xE2 && c.bq == q

/-- QREL: threads parked on the queue raise QUEUE_STATE as it takes effect; the lowest TID is reported (12 R322; log 20). -/
def execQrel (g : Guard) (q : Fin 16) (s : State) : Res :=
  .next <| s.onSeq g fun b k =>
    if !(k.queue q.val).carved || k.queueUsed q.val then s.haltSeq b Code.queueState 0
    else
      let s := s.modBlock b fun k => k.modQ q.val fun c => Carve.zero (c.tag + 1)
      let s := match k.threads.findIdx? fun t => t.status == .parked (.queue q.val) with
        | some t => s.haltBlock b Code.queueState false 0 (some t) (((k.threads[t]?).map fun (x : Thread) => x.pc).getD 0) 0 0
        | none => s
      s.seqNext b

/-! ### Descriptors (12 R346) -/

/-- The fields of a copy descriptor. -/
structure CpyDesc where
  len : Nat
  ssp : Nat
  dsp : Nat
  evict : Nat
  baren : Bool
  rows : Nat
  esize : Nat
  accum : Bool
  nsrc : Nat
  top : Bool
  deriving DecidableEq, Repr

def CpyDesc.of (d : DWord) : CpyDesc :=
  { len := fld d 0 32, ssp := fld d 32 2, dsp := fld d 34 2, evict := fld d 36 3, baren := d.getLsbD 39, rows := fld d 40 16
    esize := fld d 56 2, accum := d.getLsbD 58, nsrc := fld d 59 4 + 1, top := d.getLsbD 63 }
/-- Bytes of an element of CPYG and CPYS. -/
def CpyDesc.elem (d : CpyDesc) : Nat := [4, 8, 16, 64].getD d.esize 4
/-- The programmed byte total (12 R348–R351). -/
def CpyDesc.total (d : CpyDesc) (op : Nat) : Nat := if op = 0xDF then d.len * (d.rows + 1) else d.len

/-- A copy command's operands as captured. -/
structure CpyArgs where
  op  : Nat
  b8  : Bool
  bq  : Nat
  src : DWord
  dst : DWord
  desc : DWord
  aux : DWord
  deriving DecidableEq, Repr

/-- Source and destination strides of CPYA. -/
def sstride (aux : DWord) : Int := sval 32 (fld aux 0 32)
def dstride (aux : DWord) : Int := sval 32 (fld aux 32 32)

/-- The descriptor keeps its limits: unused fields 0, codes assigned, addresses and LEN multiples of 4 or of 64 for TYPE 3, strides
multiples of 4 (12 R346, R350, R351; log 85). -/
def CpyArgs.descOk (a : CpyArgs) : Bool :=
  let d := CpyDesc.of a.desc
  let m := if a.b8 then 64 else 4
  let gs := a.op == 0xE0 || a.op == 0xE1
  !d.top && decide (4 ≤ d.len) && decide (d.len ≤ 2 ^ 31) && d.len % m == 0 && a.src.toNat % m == 0 && a.dst.toNat % m == 0 &&
  decide (d.ssp ≤ 1) && decide (d.dsp ≤ 2) &&
  (a.op == 0xDF || d.rows == 0) && (gs || d.esize == 0) && (!gs || d.len % d.elem == 0) && (a.op == 0xE3 || (!d.accum && d.nsrc == 1)) &&
  (a.op != 0xDF || (decide ((sstride a.aux) % 4 = 0) && decide ((dstride a.aux) % 4 = 0))) &&
  (!gs || (fld a.aux 32 32 == 0 && fld a.aux 0 32 % 4 == 0)) &&
  (a.op != 0xE2 || (d.dsp == 0 && !d.baren && d.evict == 0)) && (a.op != 0xE3 || (d.ssp == 0 && d.dsp != 1 && a.src.toNat % 16 == 0))

/-- The address of byte `off` of a CPYA side's row. -/
def rowAt (base : DWord) (row : Nat) (stride : Int) : Nat := (base + BitVec.ofInt 64 (row * stride)).toNat

/-- The scratchpad ranges that an affine side names lie inside their windows, and so does the index table (12 R347, R349). -/
def State.cpyRanges (s : State) (b : Nat) (k : Block) (a : CpyArgs) : Option Nat :=
  let d := CpyDesc.of a.desc
  let rows := if a.op = 0xDF then d.rows + 1 else 1
  let side := fun (sp : Nat) (base : DWord) (st : Int) =>
    if sp = 1 then (List.range rows).findSome? fun r =>
      if (s.spadTarget b (rowAt base r st) d.len).isSome then none else some (rowAt base r st)
    else none
  let st := fun (x : Int) => if a.op = 0xDF then x else 0
  match (if a.op = 0xE0 then none else side d.ssp a.src (st (sstride a.aux))) with
  | some x => some x
  | none => match (if a.op = 0xE1 then none else side d.dsp a.dst (st (dstride a.aux))) with
    | some x => some x
    | none =>
      if (a.op == 0xE0 || a.op == 0xE1) && decide (k.spadBytes < fld a.aux 0 32 + 4 * (d.len / d.elem)) then some (fld a.aux 0 32)
      else none

/-! ### Issue (12 R347) -/

/-- Copy slots in use on a core. -/
def State.slotsUsed (s : State) (c : Nat) : Nat :=
  s.blocks.foldl (fun n k => if k.core == c && k.place == .live then n + k.copies.length else n) 0

/-- Take a slot, count in CNT.CP, and go on. -/
def State.copyStart (s : State) (b : Nat) (a : CpyArgs) (table : List (DWord × Byte)) : State :=
  let (s, id) := s.newId
  (s.modBlock b fun k => { k with
    cntCp := k.cntCp + 1, copySeq := k.copySeq + 1
    copies := k.copies ++ [⟨id, a.op, 1, a.bq, (CpyDesc.of a.desc).baren, a.b8, k.copySeq, a.src, a.dst, a.desc, a.aux, 0, 0, table,
      (k.queue a.bq).tag, none⟩] }).seqNext b

/-- What reading for the sequencer comes to: it stalls on a missing page, waits for another package, or its block halts
(14 R395). -/
def State.seqAns (s : State) (b : Nat) (a : Acc) (r : EAns) (go : State) : State :=
  match r with
  | .ok => go
  | .wait => s
  | .absent va => (s.modSeq b fun q => { q with wait := .fault va }).faultRecord b 1 0 va a
  | .fatal c va => (s.asked [1, b]).haltSeq b c (BitVec.ofNat 64 va)
def State.seqEng (s : State) (b : Nat) : Eng := s.engOf b [1, b]

/-- Issue of a copy command but CPYEC's table: COPY_DESC, the queue of CPYQ, the ranges, then the wait for a slot. -/
def State.copyIssue (s : State) (g : Guard) (args : Block → CpyArgs) : State :=
  s.onSeq g fun b k =>
    let a := args k
    let d := CpyDesc.of a.desc
    let q := k.queue a.bq
    if !a.descOk then s.haltSeq b Code.copyDesc 0
    else if a.op == 0xE2 && !q.carved then s.haltSeq b Code.queueState 0
    else if a.op == 0xE2 && d.len % q.esz != 0 then s.haltSeq b Code.copyDesc 0
    else match s.cpyRanges b k a with
      | some x => s.haltSeq b Code.spadBounds (BitVec.ofNat 64 x)
      | none =>
        if 32 ≤ s.slotsUsed k.core || k.cntCp == 63 then s
        else if a.op != 0xE3 then s.copyStart b a []
        else
          let n := d.nsrc
          let r := s.readVa (s.seqEng b) a.src.toNat (16 * n)
          let ents := (List.range n).map fun i => (r.2.2.drop (16 * i)).take 16
          r.1.seqAns b .read r.2.1
            (if ents.any fun e => (e.drop 9).any (· != 0) || ofBytes (e.take 8) % 4 != 0 then r.1.haltSeq b Code.copyDesc 0
             else r.1.copyStart b a (ents.map fun e => (BitVec.ofNat 64 (ofBytes (e.take 8)), e.getD 8 0)))

/-- The operands that the K registers hold at issue. -/
def cpyArgs (op : Nat) (b8 : Bool) (bq : Nat) (kdst ksrc kdsc : Nat) (aux : Bool) (k : Block) : CpyArgs :=
  ⟨op, b8, bq, k.kreg ksrc, k.kreg kdst, k.kreg kdsc, if aux then k.kreg (kdsc + 1) else 0⟩
/-- CPY (12 R348). -/
def execCpy (g : Guard) (b8 : Bool) (bq : Fin 16) (kdst ksrc kdsc : Fin 128) (s : State) : Res :=
  .next (s.copyIssue g (cpyArgs 0xDE b8 bq.val kdst.val ksrc.val kdsc.val false))
/-- CPYA (12 R348). -/
def execCpya (g : Guard) (b8 : Bool) (bq : Fin 16) (kdst ksrc kdsc : Fin 128) (s : State) : Res :=
  .next (s.copyIssue g (cpyArgs 0xDF b8 bq.val kdst.val ksrc.val kdsc.val true))
/-- CPYG (12 R349). -/
def execCpyg (g : Guard) (bq : Fin 16) (kdst ksrc kdsc : Fin 128) (s : State) : Res :=
  .next (s.copyIssue g (cpyArgs 0xE0 false bq.val kdst.val ksrc.val kdsc.val true))
/-- CPYS (12 R349). -/
def execCpys (g : Guard) (bq : Fin 16) (kdst ksrc kdsc : Fin 128) (s : State) : Res :=
  .next (s.copyIssue g (cpyArgs 0xE1 false bq.val kdst.val ksrc.val kdsc.val true))
/-- CPYQ (12 R350). -/
def execCpyq (g : Guard) (q : Fin 16) (ksrc kdsc : Fin 128) (s : State) : Res :=
  .next (s.copyIssue g (cpyArgs 0xE2 false q.val 0 ksrc.val kdsc.val false))
/-- CPYEC (12 R351). -/
def execCpyec (g : Guard) (bq : Fin 16) (kdst ksrc kdsc : Fin 128) (s : State) : Res :=
  .next (s.copyIssue g (cpyArgs 0xE3 false bq.val kdst.val ksrc.val kdsc.val false))

/-! ### Units (12 R347–R351, R353) -/

def State.copy? (s : State) (b id : Nat) : Option Copy := (s.blocks[b]?).bind fun k => k.copies.find? fun x => x.id == id
def State.modCopy (s : State) (b id : Nat) (f : Copy → Copy) : State :=
  s.modBlock b fun k => { k with copies := k.copies.map fun x => if x.id == id then f x else x }
/-- The slot of a copy among its block's, which a fault record names as AGENT (09 R261). -/
def State.copySlot (s : State) (b id : Nat) : Nat := ((s.blocks[b]?).bind fun k => k.copies.findIdx? fun x => x.id == id).getD 0

/-- Who asks other packages for a copy. -/
def copyWho (b : Nat) (c : Copy) : List Nat := [3, b, c.id]
/-- How a copy accesses memory: its destination's EVICT, and a persist write under DSP 2. -/
def State.copyEng (s : State) (b : Nat) (c : Copy) (dst : Bool) : Eng :=
  let e := s.engOf b (copyWho b c)
  let d := CpyDesc.of c.desc
  if dst then { e with via := { e.via with evict := d.evict, persist := if d.dsp = 2 then some (none, 0) else none } } else e

/-- A copy fails: its block halts, and its unit is given up. -/
def State.copyFail (s : State) (b id code va : Nat) : State :=
  ((s.modCopy b id fun c => { c with hold := none }).asked [3, b, id]).haltEngine b code va
/-- A copy that stalls, fails or goes on. -/
def State.copyAns (s : State) (b id : Nat) (a : Acc) (r : EAns) (go : State) : State :=
  match r with
  | .ok => go
  | .wait => s
  | .absent va => (s.modCopy b id fun c => { c with state := 2, faultVa := BitVec.ofNat 64 va }).faultRecord b 3 (s.copySlot b id) va a
  | .fatal c va => s.copyFail b id c va

/-- Read and write one side of a copy; answers of other packages are kept until the unit ends (12 R347). -/
def State.copyRead (s : State) (b : Nat) (c : Copy) (sp ea n : Nat) : State × EAns × List Byte :=
  if sp = 1 then (s, s.readSpad b false ea n) else s.readKeep (s.copyEng b c false) ea n
def State.copyWrite (s : State) (b : Nat) (c : Copy) (sp ea : Nat) (bs : List Byte) : State × EAns :=
  if sp = 1 then s.writeSpad b false ea bs else s.writeKeep (s.copyEng b c true) ea bs

/-- Multiplication in GF(2^8) with polynomial 0x11D (12 R351). -/
def gmulFrom : Nat → Nat → Nat → Nat → Nat
  | 0, _, _, p => p
  | n + 1, a, b, p =>
    let a2 := if 256 ≤ 2 * a then (2 * a) ^^^ 0x11D else 2 * a
    gmulFrom n a2 (b / 2) (if b % 2 = 1 then p ^^^ a else p)
def gmul (a b : Nat) : Nat := gmulFrom 8 a b 0

/-- The combination of the source bytes of one unit, or what keeps a source from being read. -/
def State.ecRead (s : State) (b : Nat) (c : Copy) (off n : Nat) : List (DWord × Byte) → List Nat → State × EAns × List Nat
  | [], acc => (s, .ok, acc)
  | (a, co) :: rest, acc =>
    let r := s.readKeep { s.copyEng b c false with who := copyWho b c ++ [rest.length] } (a + BitVec.ofNat 64 off).toNat n
    match r.2.1 with
    | .ok => r.1.ecRead b c off n rest ((acc.zip r.2.2).map fun x => x.1 ^^^ gmul co.toNat x.2.toNat)
    | x => (r.1, x, [])

/-- XOR one aligned word into its place at its home, indivisibly; with DSP 2 it is a persist write there (12 R351). -/
def State.ecWord (s : State) (b : Nat) (c : Copy) (va v : Nat) : State × EAns :=
  let e := s.copyEng b c true
  let t := s.tlbLines e va 4
  match s.place1 e va .write with
  | .here p code =>
    if t.partPoisoned (.here p code) then (t, .fatal Code.memPoison va)
    else match p with
      | .hbm a | .scm a =>
        let old := Memory.read t.homes.mem (t.homeAddr a) 4
        ((t.homeUpdate p { e.via with code := code } (toBytes (old ^^^ v) 4)).engDrop e (s.globalPa a), .ok)
      | _ => (t, .ok)
  | .there pa code => match t.ask e.who pa fun rid => .atomic rid (pa % 2 ^ 42) 0x8C 4 (BitVec.ofNat 64 v) 0 e.via.persist.isSome none with
    | (s, .data _) => ((if code then s.mirDrop (fun _ => false) (· == pa / 2 ^ 16) else s).engDrop e pa, .ok)
    | (s, .lost) => (s, .fatal Code.linkLost va)
    | (s, .poison) => (s, .fatal Code.memPoison va)
    | (s, .pending) => (s, .wait)
  | .walk ea => (t.askWalk ea, .wait)
  | .stop a => (t, a)

/-- One unit: how many bytes it moves, where it reads and where it writes (12 R347–R351). CPYG and CPYS take their index from
the block's scratchpad. -/
structure Unit1 where
  n   : Nat
  src : Nat
  dst : Nat
  deriving DecidableEq, Repr

/-- Where the next index of a CPYG or CPYS lies in the block's scratchpad; on a poisoned line it is MEM_POISON (09 R263). -/
def Copy.indexAt (c : Copy) : Nat := fld c.aux 0 32 + 4 * (c.done / (CpyDesc.of c.desc).elem)
/-- The next unit of a copy at byte `done` of its total. -/
def Copy.unit (c : Copy) (k : Block) : Unit1 :=
  let d := CpyDesc.of c.desc
  let byLine := fun (src dst left : Nat) => (⟨min left (128 - dst % 128), src, dst⟩ : Unit1)
  let idx := fun (i : Nat) => Memory.read k.spad (fld c.aux 0 32 + 4 * i) 4
  let plus := fun (x : DWord) (n : Nat) => (x + BitVec.ofNat 64 n).toNat
  match c.op with
  | 0xDF =>
    let row := c.done / d.len
    let off := c.done % d.len
    byLine (plus (BitVec.ofNat 64 (rowAt c.src row (sstride c.aux))) off) (plus (BitVec.ofNat 64 (rowAt c.dst row (dstride c.aux))) off) (d.len - off)
  | 0xE0 => ⟨d.elem, plus c.src (idx (c.done / d.elem) * d.elem), plus c.dst c.done⟩
  | 0xE1 => ⟨d.elem, plus c.src c.done, plus c.dst (idx (c.done / d.elem) * d.elem)⟩
  | 0xE2 => ⟨(k.queue c.bq).esz, plus c.src c.done, 0⟩
  | 0xE3 => if d.accum then ⟨4, c.done, plus c.dst c.done⟩ else byLine c.done (plus c.dst c.done) (d.len - c.done)
  | _ => byLine (plus c.src c.done) (plus c.dst c.done) (d.len - c.done)

/-- The bytes of a unit up to its first block with a reserved FMT; the unit begins at byte `off` of the source's blocks, which a CPYA's
destination lines may cut (12 R347, R348). -/
def goodBytes (b8 : Bool) (off : Nat) (bs : List Byte) : List Byte :=
  let first := (64 - off % 64) % 64
  if b8 then
    match (List.range ((bs.length - first + 63) / 64)).find? fun i => (bfmt (bs.getD (first + 64 * i) 0).toNat).isNone with
    | some i => bs.take (first + 64 * i)
    | none => bs
  else bs

/-- A unit is done; a command that CPYCAN selected stays stopped. -/
def State.copyDone (s : State) (b : Nat) (c : Copy) (n : Nat) : State :=
  (s.modCopy b c.id fun c => { c with done := c.done + n, state := if c.state = 4 then 4 else 1, hold := none }).asked (copyWho b c)

/-- Write the bytes that a unit has read: up to a block with a reserved FMT, which then halts the block (12 R348). -/
def State.unitWrite (s : State) (b : Nat) (c : Copy) (u : Unit1) (bs : List Byte) : State :=
  let s := s.modCopy b c.id fun c => { c with hold := some bs }
  let good := goodBytes c.b8 c.done bs
  let w := if good.isEmpty then (s, EAns.ok) else s.copyWrite b c (CpyDesc.of c.desc).dsp u.dst good
  w.1.copyAns b c.id .write w.2
    (if good.length < bs.length then w.1.copyFail b c.id Code.blockFormat (u.src + good.length) else w.1.copyDone b c u.n)
/-- One unit of a copy that reads and writes bytes: both sides are translated before it is read, and it is read once (12 R347). -/
def State.unitMove (s : State) (b : Nat) (c : Copy) (u : Unit1) : State :=
  let d := CpyDesc.of c.desc
  match c.hold with
  | some bs => s.unitWrite b c u bs
  | none =>
    let early := if d.dsp = 1 then (s, none) else s.canWrite (s.copyEng b c true) u.dst u.n
    let src := s.copyRead b c d.ssp u.src u.n
    match src.2.1, early.2 with
    | .absent va, _ => s.copyAns b c.id .read (.absent va) s
    | _, some a => early.1.copyAns b c.id .write a early.1
    | a, none => src.1.copyAns b c.id .read a (src.1.unitWrite b c u src.2.2)

/-- A copy that waits on its queue. -/
def State.copyWaits (s : State) (b : Nat) (c : Copy) : State := s.modCopy b c.id fun c => { c with state := if c.state = 4 then 4 else 3 }
/-- One unit of CPYQ: an entry, pushed as a release; a full queue stalls it (12 R350, R330). A read in flight that finds the queue full
ends all the same, and at a quiesce or CPYCAN it is given up (12 R352, R353). An entry for a carve that is gone is
dropped and counted (04 R119, R120). -/
def State.unitPush (s : State) (b : Nat) (k : Block) (c : Copy) (u : Unit1) : State :=
  let q := k.queue c.bq
  if !q.carved || q.closed then s.haltEngine b Code.queueState u.src
  else
    let r := s.copyRead b c (CpyDesc.of c.desc).ssp u.src u.n
    if q.cap ≤ q.count then
      if s.asking (copyWho b c) then
        r.1.copyAns b c.id .read r.2.1 ((if s.forms b && c.state != 4 then r.1 else r.1.asked (copyWho b c)).copyWaits b c)
      else s.copyWaits b c
    else
    let w := widthBytes q.width
    r.1.copyAns b c.id .read r.2.1
      ((if q.tag != c.qtag then r.1.modCore k.core fun c => { c with dropcnt := satAdd c.dropcnt 1 }
        else (r.1.modBlock b fun k => k.push c.bq ((List.range q.elems).map fun j => ofBytes ((r.2.2.drop (w * j)).take w))).wakeQueue b c.bq).copyDone b c u.n)

/-- Write the combination that a unit of CPYEC has computed (12 R351). -/
def State.unitEcWrite (s : State) (b : Nat) (c : Copy) (u : Unit1) (bs : List Byte) : State :=
  let d := CpyDesc.of c.desc
  let s := s.modCopy b c.id fun c => { c with hold := some bs }
  let w := if d.accum then s.ecWord b c u.dst (ofBytes bs) else s.copyWrite b c d.dsp u.dst bs
  w.1.copyAns b c.id .write w.2 (w.1.copyDone b c u.n)
/-- One unit of CPYEC (12 R351). -/
def State.unitEc (s : State) (b : Nat) (c : Copy) (u : Unit1) : State :=
  match c.hold with
  | some bs => s.unitEcWrite b c u bs
  | none =>
    let early := s.canWrite (s.copyEng b c true) u.dst u.n
    let r := s.ecRead b c u.src u.n c.table (List.replicate u.n 0)
    match r.2.1, early.2 with
    | .absent va, _ => s.copyAns b c.id .read (.absent va) s
    | _, some a => early.1.copyAns b c.id .write a early.1
    | a, none => r.1.copyAns b c.id .read a (r.1.unitEcWrite b c u (r.2.2.map (BitVec.ofNat 8)))

/-- A unit of a copy is in flight: it has asked another package, or holds bytes not all written. -/
def State.copyBusy (s : State) (b : Nat) (c : Copy) : Bool := c.state != 2 && (c.hold.isSome || s.asking (copyWho b c))
/-- Engines of a block work while it runs; at a halt, a pre-emption or CPYCAN they complete the units in flight and issue no other (08
R231, R236, 12 R352, R353). -/
def State.onCopy (s : State) (b id : Nat) (f : Copy → Block → State) : State :=
  match s.resident? b, s.copy? b id with
  | some k, some c => if c.state != 2 && ((s.forms b && c.state != 4) || s.copyBusy b c) then f c k else s
  | _, _ => s

/-- COPY_UNIT: the next unit of an outstanding copy (12 R347). -/
def execCopyUnit (b n : Nat) (s : State) : Res :=
  .next <| s.onCopy b n fun c k =>
    if (CpyDesc.of c.desc).total c.op ≤ c.done then s
    else if (c.op == 0xE0 || c.op == 0xE1) && k.spadPoison.contains (c.indexAt / 128) then s.haltEngine b Code.memPoison c.indexAt
    else if c.op == 0xE2 then s.unitPush b k c (c.unit k)
    else if c.op == 0xE3 then s.unitEc b c (c.unit k)
    else s.unitMove b c (c.unit k)

/-- A completion or cancellation subtracts the full programmed total, lowers CNT.CP and frees the slot (12 R347, R352). -/
def State.copyEnd (s : State) (b : Nat) (c : Copy) : State :=
  let s := if c.baren then s.subPending b c.bq ((CpyDesc.of c.desc).total c.op) else s
  s.modBlock b fun k => { k with cntCp := k.cntCp - 1, copies := k.copies.filter fun x => x.id != c.id }

/-- COPY_COMPLETION (12 R347). -/
def execCopyCompletion (b n : Nat) (s : State) : Res :=
  .next <| s.onCopy b n fun c _ => if (CpyDesc.of c.desc).total c.op ≤ c.done then s.copyEnd b c else s

/-- CPYCAN (12 R352): while a selected command has a unit in flight the sequencer stays, and it issues no other. -/
def execCpycan (g : Guard) (kd : Fin 128) (all : Bool) (bar : Fin 16) (s : State) : Res :=
  .next <| s.onSeq g fun b k =>
    let sel := k.copies.filter fun c => all || (c.baren && c.bq == bar.val)
    if sel.any (s.copyBusy b) then
      sel.foldl (fun (s : State) c => if c.state = 2 then s else s.modCopy b c.id fun c => { c with state := 4 }) s
    else
      let left := sel.foldl (fun n c => n + ((CpyDesc.of c.desc).total c.op - c.done)) 0
      ((sel.foldl (fun (s : State) c => (s.copyEnd b c).asked (copyWho b c)) s).modBlock b fun k => k.setK kd.val (BitVec.ofNat 64 left)).seqNext b

end Sys2Proof.Machine
end

