-- ==== Sys2Proof/Machine/FloatInstr.lean ====
section
/-! DEFINITION. Floating-point, packed, conversion and block-code instructions (spec/07 R177–R201) and the cross-lane
instructions (spec/05 R146–R152). -/

namespace Sys2Proof.Machine

/-! ### Shapes -/

/-- A result with its flags. -/
def LaneOut.flagged (r : Nat × Raised) : LaneOut := (LaneOut.word r.1).raise r.2
/-- One FP32 source. -/
def VOp.f1 (g : Guard) (d : Dst) (a : FSrc) : VOp := ⟨g, [(a.src, 1)], [], .reg d 1, false, true⟩
/-- Two sources. -/
def VOp.f2 (g : Guard) (d : Dst) (a b : Src) : VOp := ⟨g, [(a, 1), (b, 1)], [], .reg d 1, false, true⟩
/-- A source after its modifiers (07 R182). -/
def fVal (a : FSrc) (v : Nat) : Nat := fmod a.abs a.neg 32 v
def fDec (a : FSrc) (v : Nat) : FVal := fp32.decode (fVal a v)

/-- The element format of a packed instruction (07 R192). -/
def packFmt (bf : Bool) : Fmt := if bf then bf16 else fp16
/-- Both elements of a packed instruction (07 R192). -/
def packed (f : Nat → Nat → Nat × Raised) (a b : FSrc) (x y : Nat) : LaneOut :=
  let e := fun (s : FSrc) (v i : Nat) => fmod s.abs s.neg 16 (nfld v (16 * i) 16)
  let r0 := f (e a x 0) (e b y 0)
  let r1 := f (e a x 1) (e b y 1)
  .flagged (r0.1 + r1.1 * 2 ^ 16, r0.2 ||| r1.2)

/-- 07 R184. -/
def execFadd (g : Guard) (d : Dst) (a b : FSrc) (rm : Rm) (s : State) : Res :=
  .next (s.vecMap (.f2 g d a.src b.src) fun x => .flagged (fp32.add rm (fDec a (x.src 0)) (fDec b (x.src 1))))
/-- 07 R184. -/
def execFsub (g : Guard) (d : Dst) (a b : FSrc) (rm : Rm) (s : State) : Res :=
  .next (s.vecMap (.f2 g d a.src b.src) fun x => .flagged (fp32.sub rm (fDec a (x.src 0)) (fDec b (x.src 1))))
/-- 07 R184. -/
def execFmul (g : Guard) (d : Dst) (a b : FSrc) (rm : Rm) (s : State) : Res :=
  .next (s.vecMap (.f2 g d a.src b.src) fun x => .flagged (fp32.mul rm (fDec a (x.src 0)) (fDec b (x.src 1))))
/-- 07 R185. -/
def execFfma (g : Guard) (d : Dst) (a b c : Src) (s : State) : Res :=
  .next (s.vecMap ⟨g, [(a, 1), (b, 1), (c, 1)], [], .reg d 1, false, true⟩ fun x =>
    .flagged (fp32.fma (fp32.decode (x.src 0)) (fp32.decode (x.src 1)) (fp32.decode (x.src 2))))
/-- 07 R186. -/
def execFmin (g : Guard) (d : Dst) (a b : FSrc) (s : State) : Res :=
  .next (s.vecMap (.f2 g d a.src b.src) fun x => .flagged (fp32.minMax false (fVal a (x.src 0)) (fVal b (x.src 1))))
/-- 07 R186. -/
def execFmax (g : Guard) (d : Dst) (a b : FSrc) (s : State) : Res :=
  .next (s.vecMap (.f2 g d a.src b.src) fun x => .flagged (fp32.minMax true (fVal a (x.src 0)) (fVal b (x.src 1))))
/-- 07 R187. -/
def execFsetp (g : Guard) (p : Fin 8) (a b : FSrc) (c : FCmp) (s : State) : Res :=
  .next (s.vecMap ⟨g, [(a.src, 1), (b.src, 1)], [], .pred p.val, false, true⟩ fun x =>
    let r := fp32.compare c (fVal a (x.src 0)) (fVal b (x.src 1))
    (LaneOut.ofPred p.val r.1).raise r.2)
/-- 07 R190, R191. -/
def execFrcp (g : Guard) (d : Dst) (a : FSrc) (s : State) : Res :=
  .next (s.vecMap (.f1 g d a) fun x => .flagged (frcp (BitVec.ofNat 32 (fVal a (x.src 0)))))
/-- 07 R190, R191. -/
def execFrsq (g : Guard) (d : Dst) (a : FSrc) (s : State) : Res :=
  .next (s.vecMap (.f1 g d a) fun x => .flagged (frsq (BitVec.ofNat 32 (fVal a (x.src 0)))))
/-- 07 R190, R191. -/
def execFexp2 (g : Guard) (d : Dst) (a : FSrc) (s : State) : Res :=
  .next (s.vecMap (.f1 g d a) fun x => .flagged (fexp2 (BitVec.ofNat 32 (fVal a (x.src 0)))))
/-- 07 R190, R191. -/
def execFlog2 (g : Guard) (d : Dst) (a : FSrc) (s : State) : Res :=
  .next (s.vecMap (.f1 g d a) fun x => .flagged (flog2 (BitVec.ofNat 32 (fVal a (x.src 0)))))
/-- 07 R190, R191. -/
def execFsin (g : Guard) (d : Dst) (a : FSrc) (s : State) : Res :=
  .next (s.vecMap (.f1 g d a) fun x => .flagged (fsinCos false (BitVec.ofNat 32 (fVal a (x.src 0)))))
/-- 07 R190, R191. -/
def execFcos (g : Guard) (d : Dst) (a : FSrc) (s : State) : Res :=
  .next (s.vecMap (.f1 g d a) fun x => .flagged (fsinCos true (BitVec.ofNat 32 (fVal a (x.src 0)))))
/-- 07 R190, R191. -/
def execFtanh (g : Guard) (d : Dst) (a : FSrc) (s : State) : Res :=
  .next (s.vecMap (.f1 g d a) fun x => .flagged (ftanh (BitVec.ofNat 32 (fVal a (x.src 0)))))
/-- 07 R188. -/
def execFsqrt (g : Guard) (d : Dst) (a : FSrc) (rm : Rm) (s : State) : Res :=
  .next (s.vecMap (.f1 g d a) fun x => .flagged (fp32.sqrt rm (fDec a (x.src 0))))
/-- 07 R184. -/
def execFdiv (g : Guard) (d : Dst) (a b : FSrc) (rm : Rm) (s : State) : Res :=
  .next (s.vecMap (.f2 g d a.src b.src) fun x => .flagged (fp32.div rm (fDec a (x.src 0)) (fDec b (x.src 1))))
/-- 07 R188. -/
def execFrnd (g : Guard) (d : Dst) (a : FSrc) (rm : Rm) (s : State) : Res :=
  .next (s.vecMap (.f1 g d a) fun x => .flagged (fp32.integral rm (fVal a (x.src 0))))
/-- 07 R189. FCLASS raises no flag. -/
def execFclass (g : Guard) (d : Dst) (a : FSrc) (s : State) : Res :=
  .next (s.vecMap (.w1 g d [a.src]) fun x => .word (classOf (fVal a (x.src 0))))
/-- 07 R188. -/
def execFscale (g : Guard) (d : Dst) (a : FSrc) (b : Src) (rm : Rm) (s : State) : Res :=
  .next (s.vecMap (.f2 g d a.src b) fun x => .flagged (fp32.scaleBy rm (fDec a (x.src 0)) (s32 (x.src 1))))
/-- 07 R192. -/
def execHadd2 (g : Guard) (d : Dst) (a b : FSrc) (bf : Bool) (s : State) : Res :=
  .next (s.vecMap (.f2 g d a.src b.src) fun x =>
    packed (fun u v => (packFmt bf).add .rne ((packFmt bf).decode u) ((packFmt bf).decode v)) a b (x.src 0) (x.src 1))
/-- 07 R192. -/
def execHsub2 (g : Guard) (d : Dst) (a b : FSrc) (bf : Bool) (s : State) : Res :=
  .next (s.vecMap (.f2 g d a.src b.src) fun x =>
    packed (fun u v => (packFmt bf).sub .rne ((packFmt bf).decode u) ((packFmt bf).decode v)) a b (x.src 0) (x.src 1))
/-- 07 R192. -/
def execHmul2 (g : Guard) (d : Dst) (a b : FSrc) (bf : Bool) (s : State) : Res :=
  .next (s.vecMap (.f2 g d a.src b.src) fun x =>
    packed (fun u v => (packFmt bf).mul .rne ((packFmt bf).decode u) ((packFmt bf).decode v)) a b (x.src 0) (x.src 1))
/-- 07 R193. -/
def execHfma2 (g : Guard) (d : Dst) (a b c : Src) (s : State) : Res :=
  .next (s.vecMap ⟨g, [(a, 1), (b, 1), (c, 1)], [], .reg d 1, false, true⟩ fun x =>
    let e := fun (n i : Nat) => fp16.decode (nfld (x.src n) (16 * i) 16)
    let r0 := fp16.fma (e 0 0) (e 1 0) (e 2 0)
    let r1 := fp16.fma (e 0 1) (e 1 1) (e 2 1)
    .flagged (r0.1 + r1.1 * 2 ^ 16, r0.2 ||| r1.2))
/-- 07 R192. -/
def execHmin2 (g : Guard) (d : Dst) (a b : FSrc) (bf : Bool) (s : State) : Res :=
  .next (s.vecMap (.f2 g d a.src b.src) fun x => packed ((packFmt bf).minMax false) a b (x.src 0) (x.src 1))
/-- 07 R192. -/
def execHmax2 (g : Guard) (d : Dst) (a b : FSrc) (bf : Bool) (s : State) : Res :=
  .next (s.vecMap (.f2 g d a.src b.src) fun x => packed ((packFmt bf).minMax true) a b (x.src 0) (x.src 1))

/-! ### Conversions (07 R194, R195) -/

/-- The bits of an element of an integer type, its signedness and the bits it is written to. -/
def intTy : Ty → Option (Nat × Bool × Nat)
  | .int8 => some (8, true, 32)
  | .uint8 => some (8, false, 32)
  | .int16 => some (16, true, 32)
  | .uint16 => some (16, false, 32)
  | .int32 => some (32, true, 32)
  | .uint32 => some (32, false, 32)
  | .int64 => some (64, true, 64)
  | .uint64 => some (64, false, 64)
  | _ => none
def floatTy : Ty → Fmt
  | .fp16 => fp16
  | .bf16 => bf16
  | _ => fp32
/-- The range of an integer type. -/
def intRange (w : Nat) (sg : Bool) : Int × Int := if sg then (-(2 ^ (w - 1)), 2 ^ (w - 1) - 1) else (0, 2 ^ w - 1)

/-- One element of CVT (07 R195). -/
def convert (src dst : Ty) (rm : Rm) (v : Nat) : Nat × Raised :=
  match intTy src, intTy dst with
  | none, none => (floatTy dst).convert rm ((floatTy src).decode v)
  | none, some (w, sg, o) =>
    let r := toInt (intRange w sg).1 (intRange w sg).2 rm ((floatTy src).decode v)
    ((BitVec.ofInt o r.1).toNat, r.2)
  | some (w, sg, _), none =>
    let i : Int := if sg then sval w v else (v % 2 ^ w : Nat)
    (floatTy dst).round rm (decide (i < 0)) i.natAbs 1
  | some (w, sg, _), some (w2, sg2, o) =>
    let i : Int := if sg then sval w v else (v % 2 ^ w : Nat)
    let r := intRange w2 sg2
    let j := max r.1 (min r.2 i)
    ((BitVec.ofInt o j).toNat, if i = j then .none else .nv ||| .nx)

/-- CVT (07 R194, R195). -/
def execCvt (g : Guard) (d : Dst) (a : Src) (b : Option Src) (src dst : Ty) (rm : Rm) (s : State) : Res :=
  let one := convert src dst rm
  let srcs := (a, if src.wide then 2 else 1) :: (b.toList.map fun x => (x, 1))
  let words := if dst.wide || (src.narrow && dst.oneReg) then 2 else 1
  .next (s.vecMap ⟨g, srcs, [], .reg d words, false, true⟩ fun x =>
    if src.narrow then
      let r0 := one (nfld (x.src 0) 0 16)
      let r1 := one (nfld (x.src 0) 16 16)
      .flagged (r0.1 + r1.1 * 2 ^ (if dst.narrow then 16 else 32), r0.2 ||| r1.2)
    else if dst.narrow then
      let r0 := one (x.src 0)
      let r1 := one (x.src 1)
      .flagged (r0.1 + r1.1 * 2 ^ 16, r0.2 ||| r1.2)
    else .flagged (one (x.src 0)))

/-- One element code of PACK8 (07 R197). -/
def packCode (f s : Nat) (rm : Rm) (ovf : Bool) (v : Nat) : Nat × Raised :=
  let x := fp32.decode v
  match bfmt f with
  | none => (0xFF, .nv)
  | some b =>
    if s = 0xFF then (b.nan, if x.isSnan then .nv else .none)
    else b.enc rm ovf (x.scale (127 - s))
/-- PACK8 (07 R197). -/
def execPack8 (g : Guard) (d : Dst) (a b : Src) (ovf head : Bool) (rm : Rm) (s : State) : Res :=
  let n := if head then 2 else 4
  .next (s.vecMap ⟨g, [(a, n), (b, 1)], [], .reg d 1, false, true⟩ fun x =>
    let c := x.src 1
    let rs := (List.range n).map fun k => packCode (c % 256) (nfld c 8 8) rm ovf (nfld (x.src 0) (32 * k) 32)
    let v := ofBytes (rs.map fun r => BitVec.ofNat 8 r.1)
    .flagged (if head then c % 2 ^ 16 + v * 2 ^ 16 else v, rs.foldl (fun f r => f ||| r.2) 0))
/-- UNPACK8 (07 R198). -/
def execUnpack8 (g : Guard) (d : Dst) (a : Src) (b : Option Src) (rm : Rm) (s : State) : Res :=
  let n := if b.isSome then 4 else 2
  .next (s.vecMap ⟨g, (a, 1) :: (b.toList.map fun x => (x, 1)), [], .reg d n, false, true⟩ fun x =>
    let c := if b.isSome then x.src 1 else x.src 0
    match bfmt (c % 256) with
    | none => { LaneOut.word 0 with fault := some Code.blockFormat }
    | some f =>
      let sc := nfld c 8 8
      let rs := (List.range n).map fun k =>
        let code := nfld (x.src 0) (8 * (k + (4 - n))) 8
        if sc = 0xFF then (fp32.nan, Raised.none) else fp32.convert rm ((f.decode code).scale ((sc : Int) - 127))
      .flagged (ofBytes (rs.flatMap fun r => toBytes r.1 4), rs.foldl (fun f r => f ||| r.2) 0))
/-- BSCALE (07 R196). -/
def execBscale (g : Guard) (d : Dst) (a b : Src) (s : State) : Res :=
  .next (s.vecMap (.f2 g d a b) fun x =>
    let f := x.src 1 % 256
    match bfmt f with
    | none => .flagged (f + 0xFF * 2 ^ 8, .nv)
    | some y =>
      let v := fp32.decode (x.src 0)
      let sc := match v with
        | .fin _ m e => y.scaleFor m e
        | _ => y.scaleFor 0 0
      .flagged (f + sc * 2 ^ 8, if v.isSnan then .nv else .none))

/-! ### Cross-lane instructions (05 R146–R152) -/

/-- The lane SHUF reads (05 R147). -/
def shufLane (m : ShufMode) (i n : Nat) : Nat :=
  match m with
  | .idx => n
  | .up => if i < n then i else i - n
  | .down => if 7 < i + n then i else i + n
  | .xor => i ^^^ n
  | .rot => (i + 8 - n) % 8
/-- SHUF (05 R147). -/
def execShuf (g : Guard) (d : Dst) (a b : Src) (m : ShufMode) (s : State) : Res :=
  .next (s.vec ⟨g, [(a, 1), (b, 1)], [], .reg d 1, true, false⟩ fun xs =>
    (xs.zipIdx).map fun x => .word ((xs.getD (shufLane m x.2 (x.1.src 1 % 8)) LaneIn.none).src 0))

/-- A mask of the lanes that satisfy a test. -/
def laneMask (xs : List LaneIn) (f : LaneIn → Bool) : Nat := (xs.zipIdx).foldl (fun m x => m + b2n (f x.1) * 2 ^ x.2) 0
/-- The ballot and the live mask of VOTE (05 R148). -/
def ballot (xs : List LaneIn) : Nat := laneMask xs fun x => x.live && x.preds.getD 0 false
/-- VOTE (05 R148). -/
def execVote (g : Guard) (d : VoteDst) (a : PSrc) (s : State) : Res :=
  let go := fun (dst : DstOp) (f : Nat → Nat → LaneOut) =>
    Host.Outcome.next (s.vec ⟨g, [], [a], dst, true, false⟩ fun xs => xs.map fun _ => f (ballot xs) (laneMask xs (·.live)))
  match d with
  | .all p => go (.pred p.val) fun b l => .ofPred p.val (b == l)
  | .any p => go (.pred p.val) fun b _ => .ofPred p.val (b != 0)
  | .uni p => go (.pred p.val) fun b l => .ofPred p.val (b == 0 || b == l)
  | .ballot r => go (.reg r 1) fun b _ => .word b

/-- One combination of REDOCT (05 R149, R150). -/
def redCombine (o : RedOp) (rm : Rm) (x y : Nat) : Nat × Raised :=
  match o with
  | .add => ((x + y) % 2 ^ 32, .none)
  | .min => (if s32 x ≤ s32 y then x else y, .none)
  | .max => (if s32 x ≥ s32 y then x else y, .none)
  | .minu => (min x y, .none)
  | .maxu => (max x y, .none)
  | .and => (bw (· &&& ·) x y, .none)
  | .or => (bw (· ||| ·) x y, .none)
  | .xor => (bw (· ^^^ ·) x y, .none)
  | .fadd => fp32.add rm (fp32.decode x) (fp32.decode y)
  | .fmin => fp32.minMax false x y
  | .fmax => fp32.minMax true x y
/-- A node of the tree: an absent input passes the other on (05 R149). -/
def redNode (o : RedOp) (rm : Rm) (lo hi : Option (Nat × Raised)) : Option (Nat × Raised) :=
  match lo, hi with
  | none, h => h
  | l, none => l
  | some l, some h => let r := redCombine o rm l.1 h.1; some (r.1, l.2 ||| h.2 ||| r.2)
/-- The fixed tree over eight lanes (05 R149). -/
def redTree (o : RedOp) (rm : Rm) (l : Nat → Option (Nat × Raised)) : Option (Nat × Raised) :=
  let n := redNode o rm
  n (n (n (l 0) (l 1)) (n (l 2) (l 3))) (n (n (l 4) (l 5)) (n (l 6) (l 7)))
/-- REDOCT (05 R149–R151): it raises flags and never traps. -/
def execRedoct (g : Guard) (d : Dst) (a : Src) (o : RedOp) (rm : Rm) (s : State) : Res :=
  .next (s.vec ⟨g, [(a, 1)], [], .reg d 1, true, false⟩ fun xs =>
    let r := (redTree o rm fun i =>
      let x := xs.getD i LaneIn.none
      if x.live then some (x.src 0, Raised.none) else none).getD (0, .none)
    xs.map fun _ => .flagged r)
/-- MATCH (05 R152). -/
def execMatchL (g : Guard) (d : Dst) (a : Src) (w64 : Bool) (s : State) : Res :=
  .next (s.vec ⟨g, [(a, if w64 then 2 else 1)], [], .reg d 1, true, false⟩ fun xs =>
    xs.map fun x => .word (laneMask xs fun y => y.live && y.src 0 == x.src 0))

end Sys2Proof.Machine
end

