-- ==== Sys2Proof/Machine/Digest.lean ====
section
/-! DEFINITION. SHAKE256, by which Mirage indexes its entries (spec/03 R103, spec/15 R425) and the boot ROM checks a key (spec/17 R481),
and SHA3-384, which measures (spec/17 R482). The spec names the function and not its steps: they are those of FIPS 202 (log 83). -/

namespace Sys2Proof.Machine

/-- One word of the sponge, which has 25: word `i` stands in column `i % 5` of row `i / 5`. -/
abbrev SWord := BitVec 64
/-- The exclusive or of a column's words. -/
def columnSum (a : List SWord) (x : Nat) : SWord :=
  (a.zipIdx).foldl (fun s w => if w.2 % 5 = x % 5 then s ^^^ w.1 else s) 0
/-- Every word takes the sums of its two neighbouring columns, the one behind it turned by a bit. -/
def mixColumns (a : List SWord) : List SWord :=
  (a.zipIdx).map fun w => w.1 ^^^ columnSum a (w.2 + 4) ^^^ (columnSum a (w.2 + 1)).rotateLeft 1
/-- Where the word of a place goes. All places but 0 lie on one round trip of 24 steps, which begins at place 1. -/
def movesTo (i : Nat) : Nat := i / 5 + (2 * (i % 5) + 3 * (i / 5)) % 5 * 5
/-- Every word but word 0 goes one step on that trip, and is turned by the triangular number of its step. -/
def moveWords (a : List SWord) : List SWord :=
  ((List.range 24).foldl (fun (w : Nat × List SWord) t =>
    (movesTo w.1, w.2.set (movesTo w.1) ((a.getD w.1 0).rotateLeft ((t + 1) * (t + 2) / 2)))) (1, a)).2
/-- Every word takes the next one of its row, inverted, with the one after that. -/
def mixRows (a : List SWord) : List SWord :=
  (List.range 25).map fun i =>
    let next (n : Nat) := a.getD (i - i % 5 + (i + n) % 5) 0
    next 0 ^^^ (next 2 &&& ~~~ next 1)
/-- The register of eight bits whose lowest bit makes the round numbers, after `t` steps. -/
def shiftRegister : Nat → Nat
  | 0 => 1
  | t + 1 => if shiftRegister t < 128 then 2 * shiftRegister t else (2 * shiftRegister t) ^^^ 0x171
/-- A round's number: seven bits of the register, the `j`-th at bit 2^j − 1. -/
def roundWord (n : Nat) : SWord :=
  (List.range 7).foldl (fun w j => if shiftRegister (7 * n + j) % 2 = 1 then w ||| BitVec.twoPow 64 (2 ^ j - 1) else w) 0
/-- The permutation of the sponge: 24 rounds. -/
def permute (a : List SWord) : List SWord :=
  (List.range 24).foldl (fun a n => (mixRows (moveWords (mixColumns a))).modify 0 (roundWord n ^^^ ·)) a
/-- The message with a function's mark after it, zeros to a multiple of the rate, and the top bit of its last byte set. -/
def padSponge (rate : Nat) (mark : Byte) (m : List Byte) : List Byte :=
  (m ++ mark :: List.replicate (rate - 1 - m.length % rate) 0).modify (m.length / rate * rate + (rate - 1)) (0x80 ||| ·)
/-- Take up a padded message in parts of so many bytes, given enough parts. -/
def takeUp (rate : Nat) : Nat → List Byte → List SWord → List SWord
  | 0, _, a => a
  | n + 1, m, a => takeUp rate n (m.drop rate)
      (permute ((a.zipIdx).map fun w => w.1 ^^^ BitVec.ofNat 64 (ofBytes ((m.take rate).drop (8 * w.2) |>.take 8))))
/-- The first words of a sponge's output over a message. -/
def sponge (rate : Nat) (mark : Byte) (words : Nat) (m : List Byte) : List Byte :=
  ((takeUp rate (m.length / rate + 1) (padSponge rate mark m) (List.replicate 25 0)).take words).flatMap fun w => toBytes w.toNat 8
/-- The first 16 bytes of SHAKE256 output over a message. -/
def shake16 (m : List Byte) : List Byte := sponge 136 0x1F 2 m
/-- The first 32 bytes: SHAKE256-256. -/
def shake32 (m : List Byte) : List Byte := sponge 136 0x1F 4 m
/-- SHA3-384 of a message. -/
def sha3384 (m : List Byte) : List Byte := sponge 104 0x06 6 m

end Sys2Proof.Machine
end

