-- ==== Sys2Proof/Machine/Streams.lean ====
section
/-! DEFINITION. Access streams: STRM, STRMSTOP, their elements and finish (spec/12 R336–R344), and QUEUE_DEADLOCK (12 R331). -/

namespace Sys2Proof.Machine

/-! ### Programs (12 R336, R337) -/

def progDir (h : Nat) : Nat := nfld h 0 2
/-- Bytes of an element. -/
def progSize (h : Nat) : Nat := 2 ^ nfld h 2 3
def progPath (h : Nat) : Nat := nfld h 5 2
def progNd (h : Nat) : Nat := nfld h 10 2
def progQ (h : Nat) : Nat := nfld h 12 4
def progKbase (h : Nat) : Nat := nfld h 16 7
/-- COUNT and signed STRIDE of a dimension word. -/
def dimCount (w : DWord) : Nat := fld w 0 32
def dimStride (w : DWord) : Int := sval 32 (fld w 32 32)

/-- Elements of a program (12 R337). -/
def progTotal (prog : List DWord) : Nat := ((prog.drop 1).map dimCount).foldl (· * ·) 1
/-- The offset of element `e` from the base, dimension 0 fastest. -/
def progOffset : List DWord → Nat → Int
  | [], _ => 0
  | w :: ws, e => (e % max 1 (dimCount w) : Nat) * dimStride w + progOffset ws (e / max 1 (dimCount w))
def Stream.total (x : Stream) : Nat := progTotal x.prog
def Stream.esize (x : Stream) : Nat := progSize (progHdr x)
def Stream.dir (x : Stream) : Nat := progDir (progHdr x)
def Stream.q (x : Stream) : Nat := progQ (progHdr x)
/-- The address of element `e`. -/
def Stream.at (x : Stream) (e : Nat) : Nat := (x.base + BitVec.ofInt 64 (progOffset (x.prog.drop 1) e)).toNat

/-- The program keeps the rules of 12 R336 and R340 that need no state but the base. -/
def progOk (prog : List DWord) (base : DWord) (tile : Nat) : Bool :=
  let h := (prog.headD 0).toNat
  let dir := progDir h
  let sz := progSize h
  let path := progPath h
  dir != 3 && decide (nfld h 2 3 ≤ 4) && path != 3 && (path != 1 || dir != 1) && (path != 2 || dir == 1) &&
  (dir != 2 || progQ h == 0) && progKbase h != 0 && (dir == 0 || !nbit h 28) && h / 2 ^ 29 == 0 &&
  (prog.drop 1).all (fun w => dimCount w != 0 && decide (dimStride w % sz = 0)) && base.toNat % sz == 0 &&
  (dir != 2 || decide (progTotal prog * sz ≤ 8192)) && (dir == 2 || tile == 0)

/-! ### STRM and STRMSTOP (12 R339, R340, R343) -/

def Block.stream (k : Block) (h : Nat) : Option Stream := (k.streams[h]?).join
def State.modStream (s : State) (b h : Nat) (f : Stream → Stream) : State :=
  s.modBlock b fun k => { k with streams := upd k.streams h fun x => x.map f }
def State.dropStream (s : State) (b h : Nat) : State :=
  (s.modBlock b fun k => { k with streams := upd k.streams h fun _ => none }).asked [2, b, h]
/-- Stream contexts in use on a core. -/
def State.contextsUsed (s : State) (c : Nat) : Nat :=
  s.blocks.foldl (fun n k => if k.core == c && k.place == .live then n + countp k.streams (·.isSome) else n) 0
/-- Eight-byte words of a byte list. -/
def wordsOf (bs : List Byte) : List DWord := (List.range (bs.length / 8)).map fun i => BitVec.ofNat 64 (ofBytes ((bs.drop (8 * i)).take 8))

/-- Bind a checked program to its handle, once a context is free and a tile may be filled. -/
def State.strmStart (s : State) (b : Nat) (k : Block) (h pidx tile : Nat) (prog : List DWord) : State :=
  let hd := (prog.headD 0).toNat
  let base := k.kreg (progKbase hd)
  let q := k.queue (progQ hd)
  if !progOk prog base tile then s.haltSeq b Code.streamProg 0
  else if progDir hd != 2 && !q.carved then s.haltSeq b Code.queueState 0
  else if progDir hd != 2 && decide (widthBytes q.width < progSize hd) then s.haltSeq b Code.streamProg 0
  else if progDir hd == 2 && !(k.tile tile).bound then s.haltSeq b Code.tileState 0
  else if 16 ≤ s.contextsUsed k.core || (progDir hd == 2 && !(k.tile tile).takable) then s
  else
    let s := if progDir hd == 2 then s.setTile b tile .filling else s
    let x : Stream := ⟨pidx, 1, tile, base, 0, 0, prog, [], q.tag, k.gen⟩
    ((s.asked [1, b]).modBlock b fun k => { k with streams := upd k.streams h fun _ => some x }).seqNext b

/-- STRM reads the stream table and the program as the sequencer's own reads, and checks them (12 R340). -/
def execStrm (g : Guard) (t : Fin 64) (pidx : BitVec 16) (sh : Fin 16) (s : State) : Res :=
  .next <| s.onSeq g fun b k =>
    match s.launch? k with
    | none => s
    | some l =>
      if l.hdr.scount ≤ pidx.toNat || (k.stream sh.val).isSome then s.haltSeq b Code.streamProg 0
      else
        let e := s.seqEng b
        let r := s.readKeep e (l.lrec.code + l.hdr.soff + 16 * pidx.toNat) 16
        r.1.seqAns b .read r.2.1
          (let off := ofBytes (r.2.2.take 8)
           let len := ofBytes ((r.2.2.drop 8).take 8)
           if len != 16 && len != 24 && len != 32 && len != 40 then r.1.haltSeq b Code.streamProg 0
           else
             let p := r.1.readKeep { e with who := [1, b, 1] } (l.lrec.code + off) len
             p.1.seqAns b .read p.2.1
               (let prog := wordsOf p.2.2
                if prog.length != progNd (prog.headD 0).toNat + 2 then p.1.haltSeq b Code.streamProg 0
                else p.1.strmStart b k sh.val pidx.toNat t.val prog))

/-- An element of a stream is in flight: it has asked another package. -/
def State.strmBusy (s : State) (b h : Nat) (x : Stream) : Bool := x.state != 2 && s.asking [2, b, h]
/-- STRMSTOP (12 R343): the sequencer waits while an element is in flight, and the stream issues no other. -/
def execStrmstop (g : Guard) (sh : Fin 16) (s : State) : Res :=
  .next <| s.onSeq g fun b k =>
    match k.stream sh.val with
    | some x =>
      if s.strmBusy b sh.val x then s.modStream b sh.val fun x => { x with state := 4 }
      else ((if x.dir = 2 then s.setTile b x.tile .empty else s).dropStream b sh.val).seqNext b
    | none => s.seqNext b

/-! ### Elements (12 R341, R344) -/

/-- How a stream accesses memory (12 R341, 10 R288). -/
def State.strmEng (s : State) (b h : Nat) (x : Stream) : Eng :=
  let e := s.engOf b [2, b, h]
  { e with via := { e.via with evict := nfld (progHdr x) 7 3, persist := if progPath (progHdr x) = 2 then some (none, 0) else none } }

/-- A stream that stalls, fails or goes on (12 R344). -/
def State.strmAns (s : State) (b h : Nat) (a : Acc) (r : EAns) (go : State) : State :=
  match r with
  | .ok => go
  | .wait => s
  | .absent va => (s.modStream b h fun x => { x with state := 2, faultVa := BitVec.ofNat 64 va }).faultRecord b 2 h va a
  | .fatal c va => (s.asked [2, b, h]).haltEngine b c va
/-- The stream waits on its queue. -/
def State.strmWaits (s : State) (b h : Nat) : State := s.modStream b h fun x => { x with state := if x.state = 4 then 4 else 3 }
/-- A stream that goes on runs, unless STRMSTOP has stopped it. -/
def Stream.running (x : Stream) : Stream := { x with state := if x.state = 4 then 4 else 1 }

/-- The elements of the row that element `e` belongs to, at most eight. -/
def Stream.rowLen (x : Stream) (e : Nat) : Nat := min 8 (x.total - e / 8 * 8)

/-- The next element of a LOAD stream; a row is pushed with its last element, and a queue that is closed then halts the block (12 R341,
R344). A read in flight that finds the queue full ends all the same, and at a quiesce or STRMSTOP it is given up. A push for a carve that
is gone is dropped and counted (04 R119, R120). -/
def State.elemLoad (s : State) (b h : Nat) (k : Block) (x : Stream) : State :=
  let q := k.queue x.q
  let last := !q.row || decide (x.buf.length + 1 = x.rowLen x.done)
  if last && q.closed then s.haltEngine b Code.queueState (x.at x.done)
  else if last && decide (q.cap ≤ q.count) then
    if s.asking [2, b, h] then
      let r := s.readKeep (s.strmEng b h x) (x.at x.done) x.esize
      r.1.strmAns b h .read r.2.1 ((if s.forms b && x.state != 4 then r.1 else r.1.asked [2, b, h]).strmWaits b h)
    else s.strmWaits b h
  else
    let r := s.readVa (s.strmEng b h x) (x.at x.done) x.esize
    r.1.strmAns b h .read r.2.1
      (let v : QWord := BitVec.ofNat 128 (ofBytes r.2.2)
       let es := (x.buf ++ [v]).map (·.toNat)
       let s := r.1.modStream b h fun x => { x.running with done := x.done + 1, buf := if last then [] else x.buf ++ [v] }
       if last && q.tag != x.qtag then s.modCore k.core fun c => { c with dropcnt := satAdd c.dropcnt 1 }
       else if last then (s.modBlock b fun k => k.push x.q (if q.row then (es ++ List.replicate 8 0).take 8 else es)).wakeQueue b x.q
       else s)

/-- The entry at the head of a queue lies in a poisoned line of the scratchpad. -/
def Block.headPoison (k : Block) (q : Nat) : Bool :=
  let c := k.queue q
  c.count != 0 && (lines (c.at 0) c.esz).any fun x => k.spadPoison.contains (x.1 / 128)
/-- The next element of a STORE stream: popped when its row begins, written at its address (12 R341). An entry in a poisoned line halts
the block (09 R263). -/
def State.elemStore (s : State) (b h : Nat) (k : Block) (x : Stream) : State :=
  let q := k.queue x.q
  let e := s.strmEng b h x
  match s.canWrite e (x.at x.done) x.esize with
  | (t, some a) => t.strmAns b h .write a t
  | (_, none) =>
    if x.buf.isEmpty && q.count == 0 then s.strmWaits b h
    else if x.buf.isEmpty && k.headPoison x.q then s.haltEngine b Code.memPoison (x.at x.done)
    else
      let p := if x.buf.isEmpty then (let r := k.pop x.q; ((s.modBlock b fun _ => r.1).wakeQueue b x.q, r.2.map (BitVec.ofNat 128)))
        else (s, x.buf)
      let bs := toBytes (p.2.headD 0).toNat x.esize
      let s := p.1.modStream b h fun x => { x.running with buf := p.2 }
      let w := s.writeVa e (x.at x.done) bs
      w.1.strmAns b h .write w.2 (w.1.modStream b h fun x =>
        { x with done := x.done + 1, buf := if x.done + 1 = x.total then [] else p.2.drop 1 })

/-- The next element of a TILE stream. -/
def State.elemTile (s : State) (b h : Nat) (k : Block) (x : Stream) : State :=
  let r := s.readVa (s.strmEng b h x) (x.at x.done) x.esize
  r.1.strmAns b h .read r.2.1
    ((r.1.modBlock b fun k' => k'.spadPut ((k.tile x.tile).offset + x.done * x.esize) r.2.2).modStream b h fun x =>
      { x.running with done := x.done + 1 })

/-- A stream of a running block. At a halt, a pre-emption or STRMSTOP it completes its element in flight and issues no other, but a
STORE stream at a pre-emption still writes the row it has popped (12 R343, R344, 08 R231, R236). -/
def State.onStream (s : State) (b : Nat) (h : Fin 16) (f : Block → Stream → State) : State :=
  match s.resident? b with
  | some k => match k.stream h.val with
    | some x => if x.state != 2 && ((s.forms b && x.state != 4) || s.strmBusy b h.val x ||
        (!s.forms b && !k.dead && x.dir == 1 && !x.buf.isEmpty && s.vacatingAt k.core)) then f k x else s
    | none => s
  | none => s

/-- STREAM_ELEMENT. -/
def execStreamElement (b : Nat) (h : Fin 16) (s : State) : Res :=
  .next <| s.onStream b h fun k x =>
    if x.total ≤ x.done then s
    else match x.dir with
      | 0 => s.elemLoad b h.val k x
      | 1 => s.elemStore b h.val k x
      | _ => s.elemTile b h.val k x

/-- Every element is done, or a STORE stream finds its queue closed and empty (12 R342). -/
def Stream.atEnd (x : Stream) (k : Block) : Bool :=
  decide (x.total ≤ x.done) || (x.dir == 1 && x.buf.isEmpty && (k.queue x.q).eos)

/-- STREAM_FINISH: the reports in order, and the context is free (12 R342). -/
def execStreamFinish (b : Nat) (h : Fin 16) (s : State) : Res :=
  .next <| s.onStream b h fun k x =>
    if x.atEnd k then
      let hd := progHdr x
      let s := if x.dir == 0 && nbit hd 28 then (s.modBlock b fun k => k.modQ x.q fun c => { c with closed := true }).wakeQueue b x.q else s
      let s := if x.dir == 2 then s.readyTargets [(b, x.tile, x.gen)] else s
      let s := if nbit hd 27 then s.subPending b (nfld hd 23 4) (x.total * x.esize) else s
      s.dropStream b h.val
    else s

/-! ### QUEUE_DEADLOCK (12 R331) -/

/-- The stream itself waits on its queue. -/
def Stream.stuck (x : Stream) (k : Block) : Bool :=
  let q := k.queue x.q
  x.state != 2 && decide (x.done < x.total) && match x.dir with
    | 0 => decide (q.cap ≤ q.count) && !q.closed && (!q.row || decide (x.buf.length + 1 = x.rowLen x.done))
    | 1 => x.buf.isEmpty && q.count == 0 && !q.closed
    | _ => false
def Block.liveStreams (k : Block) : List Stream := k.streams.filterMap id

/-- A thread's status is a park that a test accepts. -/
def Thread.parkedOn (t : Thread) (f : Park → Bool) : Bool :=
  match t.status with
  | .parked p => f p
  | _ => false
/-- Parks that end without another thread of the block: a block with one of them is not deadlocked (12 R331). -/
def Park.elsewhere : Park → Bool
  | .sleep _ | .syscall _ _ _ | .replay _ | .grow _ => true
  | _ => false
def Park.onQueue : Park → Bool
  | .queue _ => true
  | _ => false
/-- Either condition of 12 R331 but for its duration. -/
def State.queueStuck (s : State) (k : Block) : Bool :=
  let live := k.threads.zipIdx.filter fun x => x.1.live
  let bars := k.seq.ended || match k.seq.wait with
    | .barrier _ _ | .cbar _ => true
    | _ => false
  (live.all (fun x => s.isParked k x.2 x.1) && live.any (fun x => x.1.parkedOn Park.onQueue) &&
    live.all (fun x => !x.1.parkedOn Park.elsewhere) &&
    bars && k.cntCp == 0 && k.liveStreams.all fun x => x.atEnd k || x.stuck k) ||
  (live.isEmpty && k.seq.ended && k.liveStreams.any fun x => x.stuck k)

/-- QUEUE_DEADLOCK: raised once the condition has held for 4,096 cycles (12 R331). -/
def execQueueDeadlock (b : Nat) (s : State) : Res :=
  .next <| match s.resident? b with
    | some k =>
      match k.queueDeadSince with
      | some c =>
        if k.halt.isNone && s.queueStuck k && decide (c + 4096 ≤ s.cycle) then
          let t := k.threads.findIdx? fun t => t.parkedOn Park.onQueue
          s.haltBlock b Code.queueDeadlock false 0 t ((t.bind fun i => (k.threads[i]?).map fun (x : Thread) => x.pc).getD 0) 0 0
        else s
      | none => s
    | none => s

/-- Watch the condition as time passes: since when it has held (log 57). -/
def State.watchQueues (s : State) : State :=
  { s with blocks := s.blocks.map fun k => { k with queueDeadSince :=
      if k.place == .live && k.halt.isNone && s.queueStuck k then some (k.queueDeadSince.getD s.cycle) else none } }

end Sys2Proof.Machine
end

