-- ==== Sys2Proof/Machine/Seif.lean ====
section
/-! DEFINITION. Steps, Seif's captures, the Caravan drain and the memory errors (spec/14 R419, spec/16 R451–R457, R460, R462,
spec/09 R256, R262–R264, R267, spec/11 R314, R315). -/

namespace Sys2Proof.Machine

def State.modSeif (s : State) (f : Seif → Seif) : State := { s with seif := f s.seif }

/-! ### Ranges (16 R453) -/

/-- The ranges in use: source, length and the two destinations. -/
def Seif.used (x : Seif) : List (Nat × Nat × Nat × Nat) :=
  (x.ranges.filter fun r => r.2.1 != 0).map fun r => (r.1.toNat, r.2.1.toNat, r.2.2.1.toNat, r.2.2.2.toNat)
/-- Two extents share a byte. -/
def overlap (a b : Nat × Nat) : Bool := decide (a.1 < b.1 + b.2) && decide (b.1 < a.1 + a.2)
/-- No two of a list of extents overlap. -/
def disjointAll : List (Nat × Nat) → Bool
  | [] => true
  | x :: xs => xs.all (fun y => !overlap x y) && disjointAll xs
/-- The configuration that a CAPEN write of 1 must find. -/
def Seif.cfgOk (x : Seif) : Bool :=
  let u := x.used
  let src := u.map fun r => (r.1, r.2.1)
  let dst := u.flatMap fun r => [(r.2.2.1, r.2.1), (r.2.2.2, r.2.1)]
  let man := [(x.man0.toNat, 64), (x.man1.toNat, 64)]
  disjointAll src && disjointAll dst && dst.all fun d => (src ++ man).all fun y => !overlap d y
/-- The granules of every range, in ascending address. -/
def Seif.granules (x : Seif) : List Nat :=
  (x.used.flatMap fun r => (List.range (r.2.1 / 256)).map fun i => r.1 / 256 + i).mergeSort (fun a b => decide (a ≤ b))

/-- SEIF_ARM: a CAPEN write of 1 (16 R453). While a capture whose disarm waits still runs, the write only takes the disarm back
(log 22). -/
def State.seifArm (s : State) (v : Word) : State :=
  if s.seif.capturing then s.modSeif fun x => { x with ctl := v &&& 7 }
  else if s.seif.cfgOk then
    let s := s.seif.granules.foldl (fun (s : State) g => s.setGtag g s.step16) s
    s.modSeif fun x => { x with ctl := v &&& 7, armed := true, cfgerr := false }
  else s.modSeif fun x => { x with ctl := v &&& 6, cfgerr := true }
def execSeifArm (v : Word) (s : State) : Res :=
  .next <| if s.seif.ctl.getLsbD 0 || !v.getLsbD 0 then s else s.seifArm v
/-- SEIF_DISARM: a CAPEN write of 0; a capture in progress finishes first (16 R453). -/
def State.seifDisarm (s : State) (v : Word) : State :=
  s.modSeif fun x => { x with ctl := v &&& 6, armed := x.armed && x.capturing }
def execSeifDisarm (v : Word) (s : State) : Res :=
  .next <| if !s.seif.ctl.getLsbD 0 || v.getLsbD 0 then s else s.seifDisarm v

/-! ### Captures (16 R454–R456) -/

def Seif.man (x : Seif) (slot : Nat) : Nat := if slot = 0 then x.man0.toNat else x.man1.toNat
def State.manValid (s : State) (slot : Nat) : Bool := Memory.get s.homes.mem (s.homeAddr (s.seif.man slot) + 4) == 1
def State.manStep (s : State) (slot : Nat) : Nat := Memory.read s.homes.mem (s.homeAddr (s.seif.man slot) + 8) 4
/-- The slot a capture takes (16 R455). -/
def State.seifSlot (s : State) : Nat :=
  if s.seif.ctl.getLsbD 1 then 1 - b2n (s.seif.ctl.getLsbD 2)
  else if !s.manValid 0 then 0
  else if !s.manValid 1 then 1
  else if s.manStep 1 < s.manStep 0 then 1 else 0

/-- A write of a manifest, a persist write of Seif's: a granule of a range that it lies in is copied first, as for any write (16 R454). -/
def State.manWrite (s : State) (a : Nat) (bs : List Byte) : State := s.homeWrite (.scm a) { Via.plain 0 with persist := some (none, 0) } bs
/-- The advance reaches Seif: a capture of the old step starts, its manifest no longer VALID (16 R454; log 56). -/
def State.seifStart (s : State) (old : Word) : State :=
  if !s.seif.armed then s
  else
    let k := s.seifSlot
    let s := s.modSeif fun x => { x with capturing := true, capstep := old, slot := k, copied := 0 }
    s.manWrite (s.seif.man k + 4) [0]

/-- The next granule that the sweep must copy. -/
def State.sweepNext (s : State) : Option Nat :=
  if s.seif.capturing then s.seif.granules.find? fun g => s.gtag g != s.step16 else none
/-- SEIF_SWEEP (16 R454). -/
def execSeifSweep (s : State) : Res :=
  .next <| match s.sweepNext with
    | some g => s.granuleCopy g
    | none => s

/-- The bytes of the VALID manifest (16 R456). -/
def State.manifest (s : State) : List Byte :=
  let used := (s.seif.ranges.zipIdx).foldl (fun n r => if r.1.2.1 != 0 then n + 2 ^ r.2 else n) 0
  toBytes 0x53454946 4 ++ [1, BitVec.ofNat 8 s.seif.slot, 0, 0] ++ toBytes s.seif.capstep.toNat 4 ++ toBytes s.pkg 4 ++
    toBytes used 2 ++ List.replicate 6 0 ++ toBytes s.seif.copied 8 ++ toBytes s.clock.toNat 8 ++ List.replicate 24 0
/-- SEIF_CAPTURE_COMPLETE: every copy has entered; the manifest enters last (16 R454, R453). -/
def execSeifCaptureComplete (s : State) : Res :=
  .next <| if s.seif.capturing && s.sweepNext.isNone then
    (s.manWrite (s.seif.man s.seif.slot) s.manifest).modSeif fun x => { x with capturing := false, armed := x.ctl.getLsbD 0 }
  else s

/-! ### STEP (14 R419, 16 R451, R460) -/

/-- A rebuild quota of this package is unserved: EN is set, and neither this step's quota nor all that a run reads of it is
read; while no run has reached it, it waits for one (16 R460; log 23). -/
def State.quotaOpen (s : State) : Bool :=
  s.rebuild.serve.getLsbD 16 && decide (s.rebuild.served.toNat < s.rebuild.quota.toNat) &&
  (s.rebuild.total == 0 || decide (s.rebuild.all.toNat < s.rebuild.total.toNat))
/-- STEP: out of order it faults, the current step it confirms; the next one it requests (14 R419). -/
def execStep (g : Guard) (kd ka : Fin 128) (s : State) : Res :=
  .next <| s.onSeq g fun b k =>
    let v : Word := (k.kreg ka.val).setWidth 32
    if v = s.regs.stepno then (s.modBlock b fun k => k.setK kd.val (v.setWidth 64)).seqNext b
    else if v = s.regs.stepno + 1 then s.modBlock b fun k => { k with stepWait := some (v, kd.val) }
    else s.haltSeq b Code.stepOrder 0
/-- The advance of STEPNO, at every home and at Seif (16 R451, R454, R460). -/
def State.advanceStep (s : State) : State :=
  let old := s.regs.stepno
  let s := s.modRegs fun r => { r with stepno := old + 1 }
  { s with rebuild := { s.rebuild with served := 0 } }.seifStart old
/-- STEP_ADVANCE: a requested STEP takes effect once Seif and the rebuild allow it, and writes KD (16 R451). -/
def execStepAdvance (b : Nat) (s : State) : Res :=
  .next <| if !s.forms b then s else
    match s.resident? b with
    | some k => match k.stepWait with
      | some (v, kd) =>
        let fin := fun (s : State) => (s.modBlock b fun k => { k.setK kd (s.regs.stepno.setWidth 64) with stepWait := none }).seqNext b
        if v = s.regs.stepno then fin s
        else if v = s.regs.stepno + 1 then
          if s.seif.capturing || s.quotaOpen then s else fin s.advanceStep
        else (s.haltSeq b Code.stepOrder 0).modBlock b fun k => { k with stepWait := none }
      | none => s
    | none => s

/-! ### Caravan (09 R256, 11 R314, R315) -/

/-- Two entries share a byte. -/
def CarEntry.meets (x y : CarEntry) : Bool := x.line == y.line && x.data.any fun c => y.data.any fun d => c.1 == d.1
/-- The entry may drain: no earlier one overlaps it, and none of its agent's earlier epochs remains. -/
def mayDrain (q : List CarEntry) (n : Nat) : Bool :=
  match q.find? fun x => x.id == n with
  | none => false
  | some e =>
    ((q.takeWhile fun x => x.id != n).all fun x => !x.meets e) &&
    q.all fun x => x.id == n || x.agent.isNone || x.agent != e.agent || decide ((x.epoch - e.epoch).toNat < 2 ^ 31)
/-- An entry's bytes reach the media, with the poison its line had when it entered (09 R263). -/
def State.toMedia (s : State) (e : CarEntry) : State :=
  s.modHomes fun h => { h with
    media := e.data.foldl (fun m c => Memory.set m c.1 c.2) h.media
    mediaPoison := if e.poison then e.line / 128 :: h.mediaPoison.filter (· != e.line / 128)
      else if e.whole || e.data.length = 128 then h.mediaPoison.filter (· != e.line / 128) else h.mediaPoison }
/-- CARAVAN_DRAIN: one entry that the order allows is written to the media. -/
def execCaravanDrain (iod : Fin 2) (n : Nat) (s : State) : Res :=
  let q := s.homes.caravan.getD iod.val []
  .next <| if mayDrain q n then
    match q.find? fun x => x.id == n with
    | some e => (s.toMedia e).modHomes fun h => { h with caravan := upd h.caravan iod.val fun l => l.filter fun x => x.id != n }
    | none => s
  else s
/-- The hold-up drain: every entry in the order it entered (09 R256). -/
def State.drainAll (s : State) : State :=
  (s.homes.caravan.flatten.foldl (fun (s : State) e => s.toMedia e) s).modHomes fun h => { h with caravan := [[], []] }

/-! ### Bad pages and memory errors (09 R261–R264, R267; 15 R434; 16 R462) -/

/-- A media event's record (09 R261); the fields for which the rule names no value are 0 (log 92). -/
def State.mediaRecord (s : State) (kind pa : Nat) : State := s.faqPush ⟨0, pa, kind, 5, 0, 0, 0xFFFFFFFF, 0, 0, 0, 0⟩
/-- An entry of the bad-page list: valid, its reason and its page (15 R434). -/
def badEntry (reason pa : Nat) : DWord := BitVec.ofNat 64 (pa / 2 ^ 16 * 2 ^ 16 + 2 * reason + 1)
/-- The page of an entry. -/
def badPage (e : DWord) : Nat := e.toNat / 2 ^ 16
/-- Add a page to the list; a full one writes a KIND 4 record and changes nothing (15 R434). -/
def State.badAdd (s : State) (reason pa : Nat) : State :=
  if s.regs.badpages.any fun e => badPage e == pa / 2 ^ 16 then s
  else if 4096 ≤ s.regs.badpages.length then s.mediaRecord 4 (alignDown pa 128)
  else s.modRegs fun r => { r with badpages := r.badpages ++ [badEntry reason pa] }

def eccNum : EccKind → Nat
  | .sram => 0 | .l2 => 1 | .hbm => 2 | .scmCache => 3 | .scmMedia => 4
def State.ecc (s : State) (n : Nat) : Ecc := s.regs.ecc.getD n ⟨0, 0, 16⟩
def State.modEcc (s : State) (n : Nat) (f : Ecc → Ecc) : State := s.modRegs fun r => { r with ecc := upd r.ecc n f }
/-- One corrected error of a 64 KiB page: the tracker, and the page at its threshold (16 R462). -/
def State.trackPage (s : State) (n pa : Nat) : State :=
  let pg := pa / 2 ^ 16
  let c := ((s.regs.tracker.find? fun x => x.1 == pg).map (·.2)).getD 0 + 1
  let rest := s.regs.tracker.filter fun x => x.1 != pg
  if (s.ecc n).thr.toNat ≤ c then
    ((s.modRegs fun r => { r with tracker := rest }).badAdd 2 pa).mediaRecord 1 (alignDown pa 128)
  else s.modRegs fun r => { r with tracker := ((pg, c) :: rest).take 1024 }
/-- Poison the line of a local address. -/
def State.poison (s : State) (a : Nat) : State :=
  if s.poisoned a then s else s.modHomes fun h => { h with poison := h.poison ++ [a / 128] }

/-- The L1 line whose bytes stand at byte `a` of a core's array: 4 KiB to a set, 512 bytes to a way, the ways in recency order
(09 R242, R245; log 53). -/
def State.l1At (s : State) (c a : Nat) : Option L1Line :=
  let l := ((s.cores[c]?.map (·.l1)).getD []).filter fun x => x.set == a / 4096
  match ((l.map fun x => x.line / 4).eraseDups)[a % 4096 / 512]? with
  | some sb => l.find? fun x => x.line == 4 * sb + a % 512 / 128
  | none => none
/-- Refetch a line of an L1 from its home: at once on this package, by a request to another one while a block that may read the line is
there. A poisoned line is only invalidated (09 R262; log 53). -/
def State.l1Refetch (s : State) (c : Nat) (x : L1Line) : State :=
  let gone := s.modCore c fun k => { k with l1 := k.l1.filter fun y => y.line != x.line }
  match s.phys (128 * x.line) with
  | .remote _ => match (List.range s.blocks.length).find? fun b => match s.resident? b with
      | some k => k.core == c && (!x.ro || k.launch == x.launch)
      | none => false with
    | some b =>
      let (t, id) := gone.newId
      let p : Part := ⟨0, 0, none, 0, id, 0, 0, 0, 0, none, 0, 0, 0, 0, 0⟩
      t.modHomes fun h => { h with reqs := h.reqs ++ [⟨id, b, c, s.cycle, .pref x.ro, x.line, none, if x.ro then .ro else .gen, 0, .rlx, .thread, false, 0, true, [p]⟩] }
    | none => gone
  | p =>
    let r := s.homeRead p (Via.plain 0) 128
    if r.2.length == 128 && !(match s.homeAt p with
      | .hbm a | .scm a => s.poisoned a
      | _ => true)
    then (r.1.l1Mask c x.line 0 128).modCore c fun k => { k with l1 := k.l1.map fun y => if y.line == x.line then { y with data := r.2 } else y }
    else gone
/-- An uncorrectable error of a core's SRAM, at byte `a` of its MiB: a granted unit belongs to a block's scratchpad, another one
to L1, whose line there is refetched (09 R262; log 53). -/
def State.sramError (s : State) (c a : Nat) : State :=
  match (List.range s.blocks.length).find? fun b => match s.resident? b with
    | some k => k.core == c && k.units.contains (a / 65536)
    | none => false with
  | some b =>
    let s := s.modEcc 0 fun e => { e with uncorr := satAdd e.uncorr 1 }
    let (s, v) := s.free
    (s.modBlock b fun k =>
      let off := (k.units.findIdx (· == a / 65536)) * 65536 + a % 65536
      { k with spadPoison := if k.spadPoison.contains (off / 128) then k.spadPoison else k.spadPoison ++ [off / 128] }).mediaRecord 2 (v.toNat % 2 ^ 52)
  | none => match s.l1At c a with
    | some x => (s.l1Refetch c x).modEcc 0 fun e => { e with corr := satAdd e.corr 1 }
    | none => s

/-- ECC_ERROR (09 R262–R264, 16 R462). The address is local, and records and the list hold the physical one; for SRAM it is the
core's number above 20 bits of place. The list's entry is written before the record (15 R434); an error of the SCM cache lists
no page (09 R268). -/
def execEccError (k : EccKind) (addr : Nat) (corrected : Bool) (s : State) : Res :=
  let n := eccNum k
  let media := k == .hbm || k == .scmMedia
  let pa := s.pkg * 2 ^ 42 + addr
  .next <| if corrected then
    let s := s.modEcc n fun e => { e with corr := satAdd e.corr 1 }
    if media then s.trackPage n pa else s
  else if k == .sram then s.sramError (addr / 2 ^ 20) (addr % 2 ^ 20)
  else
    let s := (s.modEcc n fun e => { e with uncorr := satAdd e.uncorr 1 }).poison addr
    let s := if k == .scmMedia then s.modHomes fun h => { h with mediaPoison := addr / 128 :: h.mediaPoison.filter (· != addr / 128) } else s
    (if media then s.badAdd 1 pa else s).mediaRecord 2 (alignDown pa 128)

/-- BACKGROUND_MAINTENANCE changes nothing that is modelled (09 R267). -/
def execBackgroundMaintenance (s : State) : Res := .next s

end Sys2Proof.Machine
end

