-- ==== Sys2Proof/Machine/Tables.lean ====
section
/-! DEFINITION. The tables and rings of the package: fault-address queue, RESIDENT, shoot-downs, page migration, bad pages,
routing, ramp tables, MIRINV, the syscall ring (spec/09 R260, R261, R265, R266; spec/15 R428–R435; spec/17 R467, R509; spec/08
R226–R228; spec/12 R356). -/

namespace Sys2Proof.Machine

/-! ### Messages of the scheduler (13 R376; log 86) -/

/-- The messages a link holds: to the leaf, and from it. Links 0–71 join the global scheduler and a leaf, 72–143 a leaf and its die's
ticket counter. -/
def State.link (s : State) (n : Nat) : List SchedMsg × List SchedMsg := (tget s.front.links n).getD ([], [])
/-- The permits in use of a link: to the leaf, and from it. -/
def State.permits (s : State) (n : Nat) : Nat × Nat := ((s.link n).1.length, (s.link n).2.length)
/-- A message takes its place behind those of its link and direction, if one of the 16 permits is left. -/
def State.sendMessage (s : State) (n : Nat) (toLeaf : Bool) (m : SchedMsg) : Option State :=
  let l := s.link n
  if 16 ≤ (if toLeaf then l.1.length else l.2.length) then none
  else some (s.modFront fun f => { f with links := tset f.links n (if toLeaf then (l.1 ++ [m], l.2) else (l.1, l.2 ++ [m])) })
/-- Send messages on their links, all or none. -/
def State.sendAll (s : State) (toLeaf : Bool) : List (Nat × SchedMsg) → Option State
  | [] => some s
  | x :: xs => (s.sendMessage x.1 toLeaf x.2).bind fun s => s.sendAll toLeaf xs
/-- SCHEDULER_MESSAGE: the oldest message of a link and direction is consumed, and its permit returned. -/
def execSchedulerMessage (n : Nat) (toLeaf : Bool) (s : State) : Res :=
  let l := s.link n
  .next <| if n < 144 then s.modFront fun f => { f with
    links := tset f.links n (if toLeaf then (l.1.drop 1, l.2) else (l.1, l.2.drop 1)) } else s

/-! ### The fault-address queue (09 R261, 17 R467) -/

/-- Records the ring holds. -/
def Regs.faqRecords (r : Regs) : Nat := 2 ^ (if 12 ≤ r.faqSize.toNat && r.faqSize.toNat ≤ 20 then r.faqSize.toNat else 12) / 32
/-- The 32 bytes of a record; VALID carries the pass count and is written last. -/
def FaqRec.bytes (x : FaqRec) (pass : Nat) : List Byte :=
  toBytes x.va 8 ++ toBytes x.pa 8 ++ [BitVec.ofNat 8 x.kind, BitVec.ofNat 8 x.src, BitVec.ofNat 8 x.access, BitVec.ofNat 8 x.rep] ++
    toBytes x.core 4 ++ toBytes x.bid 4 ++ toBytes x.agent 2 ++ [BitVec.ofNat 8 x.ctx, BitVec.ofNat 8 (128 + pass % 128)]

/-- FAQ_RECORD_WRITE: the oldest waiting record, once the ring is placed and has room; a ring that reaches no memory sets FAQERR (log 55). -/
def execFaqRecordWrite (s : State) : Res :=
  .next <| match s.regs.faqWait with
    | [] => s
    | x :: rest =>
      let n := s.regs.faqRecords
      let p := s.regs.faqProd
      if !s.regs.faqSet || s.regs.faqErr || decide (n ≤ (p - s.regs.faqCons).toNat) then s
      else
        let pa := s.regs.faqBase.toNat + 32 * (p.toNat % n)
        if !s.recordOk pa 32 then (s.modRegs fun r => { r with faqErr := true }).raiseMsix 0 s.regs.faqMsi
        else
          let w := s.writePa [7, 1] false pa (x.bytes (p.toNat / n))
          match w.2 with
          | .wait => w.1
          | .ok =>
            let s' := w.1.modRegs fun r => { r with faqProd := p + 1, faqWait := rest }
            if p = s.regs.faqCons then s'.raiseMsix 0 s.regs.faqMsi else s'
          | _ => (w.1.modRegs fun r => { r with faqErr := true }).raiseMsix 0 s.regs.faqMsi
/-- FAQBASE: places the queue and clears FAQERR (17 R467). -/
def State.setFaqbase (s : State) (v : DWord) : State :=
  s.modRegs fun r => { r with faqBase := v &&& 0x000FFFFFFFFFF000, faqErr := false, faqSet := true }
def execFaqbase (v : DWord) (s : State) : Res := .next (s.setFaqbase v)

/-! ### RESIDENT (17 R509) -/

/-- The page a notice names: base and bytes; nothing where the write is ignored. -/
def residentPage (v : DWord) : Option (Nat × Nat) :=
  let size := [2 ^ 16, 2 ^ 21, 2 ^ 30].getD (fld v 0 2) 0
  let va := fld v 16 41 * 2 ^ 16
  if size = 0 || fld v 2 2 != 0 || fld v 8 8 != 0 || fld v 57 7 != 0 || va % size != 0 then none else some (va, size)
/-- A faulting address lies in the page. -/
def inPage (va : Nat) (pg : Nat × Nat) : Bool := decide (pg.1 ≤ va % 2 ^ 57) && decide (va % 2 ^ 57 < pg.1 + pg.2)
/-- What a block's agents do when a page of its context is reported resident. -/
def Block.resident (k : Block) (cycle : Nat) (pg : Nat × Nat) : Block :=
  { k with
    threads := k.threads.map fun t => match t.status with
      | .parked (.replay va) => if inPage va pg then t.wakeUp cycle else t
      | _ => t
    seq := match k.seq.wait with
      | .fault va => if inPage va pg then { k.seq with wait := .none } else k.seq
      | _ => k.seq
    streams := k.streams.map fun x => x.map fun x => if x.state == 2 && inPage x.faultVa.toNat pg then { x with state := 1 } else x
    copies := k.copies.map fun c => if c.state == 2 && inPage c.faultVa.toNat pg then { c with state := 1 } else c
    xfers := k.xfers.map fun x => match x.faultVa with
      | some va => if inPage va pg then { x with faultVa := none } else x
      | none => x
    colls := k.colls.map fun c => match c.faultVa with
      | some va => if inPage va pg then { c with faultVa := none } else c
      | none => c }
/-- RESIDENT: every agent that waits on the page resumes, and its REPEAT counts restart. The leaves of the context's blocks are
told; nothing while one of their links has no permit (13 R376; log 59). -/
def State.residentNotice (s : State) (v : DWord) : Option State :=
  match residentPage v with
  | none => some s
  | some pg =>
    let ctx := fld v 4 4
    let mine := fun (k : Block) => k.place == .live && s.ctxOf k == ctx
    (s.sendAll true (((s.blocks.filter mine).map fun k => clIndex k.core).eraseDups.map fun l => (l, .replay ctx pg.1))).map fun s =>
      { s.modRegs (fun r => { r with faqSeen := r.faqSeen.filter fun x => !(x.1 == ctx && inPage x.2.1 pg) }) with
        blocks := s.blocks.map fun k => if mine k then k.resident s.cycle pg else k }
def execResident (v : DWord) (s : State) : Res := .next ((s.residentNotice v).getD s)

/-! ### Shoot-downs (09 R260) -/

/-- Send a shoot-down to every core: a context and virtual range, or the old page of a migration. -/
def State.shoot (s : State) (ctx : Option Nat) (va len : Nat) : State × Nat :=
  let (s, id) := s.walked.newId
  (s.modRegs fun r => { r with shoots := r.shoots ++ [⟨id, ctx, va, len, List.range 288⟩] }, id)
def execTlbShootdown (ctx : Fin 16) (va len : Nat) (s : State) : Res := .next (s.shoot (some ctx.val) va len).1
/-- The entry maps part of the range. -/
def TlbEntry.inShoot (e : TlbEntry) (x : Shoot) : Bool :=
  match x.ctx with
  | some c => e.ctx == c && overlap (e.page, 2 ^ e.lg) (x.va % 2 ^ 57, x.len)
  | none => overlap (e.frame, 2 ^ e.lg) (x.va, x.len)
/-- A request of the core, translated in the range, is still on its way: the access takes effect once, and at the old home
(09 R260, R266). -/
def State.inFlight (s : State) (c : Nat) (x : Shoot) : Bool :=
  s.homes.reqs.any fun r => r.core == c && r.spadBlk.isNone && match x.ctx with
    | some ctx => ((s.blocks[r.blk]?).map s.ctxOf) == some ctx &&
        r.parts.any fun p => overlap (p.ea % 2 ^ 57, max 1 p.bytes) (x.va % 2 ^ 57, x.len)
    | none => overlap (128 * r.line, 128) (x.va, x.len)
/-- SHOOTDOWN_ACK: the core drops the entries of the range and acknowledges; the last acknowledgement completes it. -/
def execShootdownAck (n c : Nat) (s : State) : Res :=
  .next <| match s.regs.shoots.find? fun x => x.id == n with
    | some x =>
      if !x.wait.contains c || s.inFlight c x then s
      else
        let s := s.modCore c fun k => { k with tlb := k.tlb.filter fun e => !e.inShoot x }
        let w := x.wait.filter (· != c)
        let next := if w.isEmpty then s.regs.shoots.filter (fun y => y.id != n)
          else s.regs.shoots.map (fun y => if y.id == n then { y with wait := w } else y)
        s.modRegs fun r => { r with shoots := next }
    | none => s

/-! ### Page migration (09 R265, R266) -/

/-- The local address of memory of this package. -/
def State.localMem (s : State) (pa : Nat) : Option Nat :=
  match s.phys pa with
  | .hbm a | .scm a => some a
  | _ => none
/-- A MIGCMD write; nothing where it waits for one of the 64. A page that is no memory of this package is not migrated (log 24). -/
def State.migStart (s : State) (v : Word) : Option State :=
  if 64 ≤ s.regs.migs.length then none
  else
    let large := v.getLsbD 0
    let mask := fun (x : Nat) => alignDown x (if large then 2 ^ 21 else 2 ^ 16)
    match s.localMem (mask s.regs.migOld.toNat), s.localMem (mask s.regs.migNew.toNat) with
    | some o, some n => some (s.modRegs fun r => { r with
        migs := r.migs ++ [⟨o, n, r.migPte.toNat, large, List.replicate (if large then 16384 else 512) false, false, none⟩] })
    | _, _ => some s
/-- MIGCMD; a write that must wait changes nothing (log 59). -/
def execMigcmd (v : Word) (s : State) : Res := .next ((s.migStart v).getD s)

def State.modMig (s : State) (n : Nat) (f : Migration → Migration) : State := s.modRegs fun r => { r with migs := upd r.migs n f }
/-- MIGRATION_LINE_COPY: a line whose bit is clear is read at the old page and written to the new, with its poison. -/
def execMigrationLineCopy (n l : Nat) (s : State) : Res :=
  .next <| match s.regs.migs[n]? with
    | some m =>
      if m.switched || m.done[l]? != some false then s
      else
        let r := s.homeRead (localPhys (m.old + 128 * l)) (Via.plain 0) 128
        (r.1.lineCopy (localPhys (m.new + 128 * l)) (s.poisoned (m.old + 128 * l)) r.2).modMig n fun m =>
          { m with done := upd m.done l fun _ => true }
    | none => s
/-- The lines that an L1 kept of an earlier use of a frame are not the page that has moved there: no read but an LDRO finds one (11 R304;
log 24). -/
def State.frameStale (s : State) (pa len : Nat) : State :=
  (List.range s.cores.length).foldl (fun (s : State) c =>
    s.l1Stale c fun x => decide (pa ≤ 128 * x.line) && decide (128 * x.line < pa + len)) s
/-- MIGRATION_SWITCHOVER: every access at the old page goes to the new one, the entry is rewritten, a shoot-down is issued, and
Mirage drops what the page holds (09 R265, 15 R428). -/
def execMigrationSwitchover (n : Nat) (s : State) : Res :=
  .next <| match s.regs.migs[n]? with
    | some m =>
      if m.switched || !m.done.all (· == true) then s
      else
        let r := s.readPaKeep [7, 2] m.pte 8
        if r.2.1 == .wait then r.1
        else
          let e := ofBytes r.2.2
          let w := if r.2.1 == .ok then
            r.1.writePa [7, 2] false m.pte (toBytes (e % 2 ^ 8 + r.1.globalPa m.new / 2 ^ 8 * 2 ^ 8 + e / 2 ^ 52 * 2 ^ 52) 8) else (r.1, .ok)
          if w.2 == .wait then w.1
          else
            let x := ((w.1.asked [7, 2]).frameStale (w.1.globalPa m.new) m.size).shoot none (w.1.globalPa m.old) m.size
            let u := w.1.globalPa m.old / 2 ^ 16
            (x.1.modMig n fun m => { m with switched := true, shoot := some x.2 }).mirDrop (fun _ => false)
              fun y => decide (u ≤ y) && decide (y < u + m.size / 2 ^ 16)
    | none => s
/-- MIGRATION_COMPLETE: the shoot-down is complete; a MIGRATED record is written and the old page may be used again. -/
def execMigrationComplete (n : Nat) (s : State) : Res :=
  .next <| match s.regs.migs[n]? with
    | some m =>
      if m.switched && !s.regs.shoots.any (fun x => m.shoot == some x.id) then
        (s.modRegs fun r => { r with migs := r.migs.eraseIdx n }).mediaRecord 3 (s.globalPa m.old)
      else s
    | none => s

/-! ### Bad pages, routing, ramps, MIRINV (15 R428–R430, R434, R435) -/

def bpPage (v : DWord) : Nat := fld v 16 36 * 2 ^ 16
def execBpcmdAdd (v : DWord) (s : State) : Res := .next (s.badAdd 3 (bpPage v))
def State.bpRemove (s : State) (v : DWord) : State :=
  s.modRegs fun r => { r with badpages := r.badpages.filter fun e => badPage e != bpPage v / 2 ^ 16 }
def execBpcmdRemove (v : DWord) (s : State) : Res := .next (s.bpRemove v)
def State.bpClear (s : State) : State := s.modRegs fun r => { r with badpages := [] }
def execBpcmdClear (s : State) : Res := .next s.bpClear

/-- A routing entry's write: it takes effect once every request routed through the valid entry has been acknowledged, and requests to
the package wait meanwhile (15 R430). -/
def State.routeSet (s : State) (p : Nat) (v : DWord) : State :=
  if 1024 ≤ p then s
  else if s.routeBusy p then s.modRegs fun r => { r with routeNext := tset r.routeNext p v }
  else s.routeTake p v
def execRouteWrite (p : Nat) (v : DWord) (s : State) : Res := .next (s.routeSet p v)

/-- A ramp-table write; one with an entry of 5–7 is ignored whole (15 R435). -/
def State.rampSet (s : State) (die : Nat) (v : DWord) : State :=
  if (List.range 16).any fun e => decide (4 < rampEntry v e) then s
  else s.modRegs fun r => { r with ramps := upd r.ramps die fun _ => v &&& 0xFFFFFFFFFFFF }
def execRampWrite (die : Nat) (v : DWord) (s : State) : Res := .next (s.rampSet die v)

/-- MIRINV: drop an object's entries, or all of them and apply MIRBASE and MIRSIZE (15 R428, R429). -/
def State.mirInv (s : State) (objid : DWord) : State :=
  if objid = 0 then
    let base := s.mirage.base.toNat
    let size := min s.mirage.size.toNat (2 ^ 30)
    let span := if size = 0 then 8 * 2 ^ 20 else size
    (s.mirDrop (fun _ => true) fun _ => true).modMirage fun m => { m with
      inBase := base, inSize := size, enabled := decide (base + span ≤ 0x06000000000) }
  else s.mirDrop (· == objid) fun _ => false
def execMirinv (objid : DWord) (s : State) : Res := .next (s.mirInv objid)

/-! ### The syscall ring (08 R226–R228, 12 R356) -/

def Regs.srRecords (r : Regs) : Nat := 2 ^ (if 6 ≤ r.srSize.toNat && r.srSize.toNat ≤ 16 then r.srSize.toNat else 6)
/-- The address of the TRAP of a thread parked after it: the word before its PC, or before the header at which its PC's clause
begins (08 R227). -/
def State.trapPc (s : State) (k : Block) (pc : DWord) : DWord :=
  let e := s.extent k true
  if s.mapBit k true (pc.toNat - 8 - e.1) then pc - 16 else pc - 8
/-- The 64 bytes of a record (08 R227; log 71). -/
def State.srBytes (s : State) (k : Block) (tid code pass : Nat) (pc : DWord) (v : List Word) : List Byte :=
  toBytes code 2 ++ toBytes (32768 + pass % 32768) 2 ++ toBytes tid 4 ++ toBytes k.ticket 4 ++ toBytes (s.queueOf k) 4 ++
    toBytes pc.toNat 8 ++ toBytes (s.origin k true pc).1.toNat 8 ++ (List.range 8).flatMap fun i => toBytes (v.getD i 0).toNat 4
/-- SYSCALL_RECORD_WRITE: a release of the thread's earlier writes, then the record once the ring is placed and has room; SRMSI
is raised (08 R226, 12 R356). A halted block writes no record that it has not begun (log 90); one on its way to another package ends. -/
def execSyscallRecordWrite (b t : Nat) (s : State) : Res :=
  .next <| match s.resident? b, s.thread? b t with
    | some k, some th => match th.status with
      | .parked (.syscall none code v) =>
        let n := s.regs.srRecords
        let p := s.regs.srProd
        if !s.asking [7, 4, b, t] && (!s.regs.srSet || decide (n ≤ (p - s.regs.srCons).toNat) || s.writesPending b t || k.halt.isSome ||
          s.asking [7, 4]) then s
        else match s.farCode k true with
        | some ea => s.askWalk ea
        | none =>
          let pc := s.trapPc k th.pc
          let w := s.writePa [7, 4, b, t] false (s.regs.srBase.toNat + 64 * (p.toNat % n)) (s.srBytes k t code (p.toNat / n) pc v)
          match w.2 with
          | .ok => ((w.1.modThread b t fun th => { th with status := .parked (.syscall (some p.toNat) code v) }).modRegs fun r =>
              { r with srProd := p + 1 }).raiseMsix 0 s.regs.srMsi
          | .fatal _ _ => w.1.asked [7, 4, b, t]
          | _ => w.1
      | _ => s
    | _, _ => s

/-- The thread that waits for a ring index; those of a fatally halted block are frozen (04 R126). -/
def State.srWaiter (s : State) (idx : Nat) : Option (Nat × Nat) :=
  (List.range s.blocks.length).findSome? fun b => match (s.resident? b).filter (!·.dead) with
    | some k => (k.threads.findIdx? fun t => match t.status with
        | .parked (.syscall (some i) _ _) => i == idx
        | _ => false).map fun t => (b, t)
    | none => none
/-- A saved thread waits for a ring index: the wake waits until it has resumed (08 R228). -/
def State.srSaved (s : State) (idx : Nat) : Bool :=
  s.blocks.any fun k => k.place == .saved && k.threads.any fun t => match t.status with
    | .parked (.syscall (some i) _ _) => i == idx
    | _ => false
/-- The reply slot of a ring index, as read (12 R356). -/
def State.srReply (s : State) (idx : Nat) : State × EAns × List Byte :=
  s.readPa [7, 5, idx] (s.regs.rpBase.toNat + 64 * (idx % s.regs.srRecords)) 64
/-- SRWAKE: the thread that waits for the index takes the action its reply's STATUS selects (08 R228); a wake is an acquire at
SYSTEM scope (11 R300). The answer is nothing
while the reply slot lies on a package that has not answered, or the thread is saved (log 25). -/
def State.srWake (s : State) (idx : Word) : Option State :=
  match s.srWaiter idx.toNat with
  | none => if s.srSaved idx.toNat then none else some s
  | some (b, t) =>
    let r := s.srReply idx.toNat
    match r.2.1, s.blocks[b]?, s.thread? b t with
    | .wait, _, _ => none
    | _, some k, some th =>
      let status := ofBytes (r.2.2.take 2)
      let pc := s.trapPc k th.pc
      let u := r.1.asked [7, 5, idx.toNat]
      if status = 0 then
        some ((u.acquireL1 k.core .system).modThread b t fun th =>
          let th := (List.range 8).foldl (fun (th : Thread) i => th.setReg i (BitVec.ofNat 32 (ofBytes ((r.2.2.drop (32 + 4 * i)).take 4)))) th
          th.wakeUp s.cycle)
      else some ((u.modThread b t fun th => { th with pc := pc }).haltAt b t (if status = 1 then Code.syscallKill else Code.illegalEncoding) pc 0)
    | _, _, _ => some s
/-- A wake that waits asks the package that holds its reply slot for it. -/
def State.srAsk (s : State) (idx : Word) : State := if (s.srWaiter idx.toNat).isSome then (s.srReply idx.toNat).1 else s
def execSrwake (idx : Word) (s : State) : Res := .next ((s.srWake idx).getD (s.srAsk idx))

end Sys2Proof.Machine
end

