-- ==== Sys2Proof/Machine/Halt.lean ====
section
/-! DEFINITION. What a block leaves behind: its allocations and tags, the halt record, accounting, retirement, and the debug
commands (spec/01 R34, spec/04 R111, R119–R122, spec/08 R230–R234, spec/13 R387, R388, R432, spec/16 R461). -/

namespace Sys2Proof.Machine

/-- A little-endian field of a byte list. -/
def rdN (bs : List Byte) (o n : Nat) : Nat := ofBytes ((bs.drop o).take n)
/-- Bytes of a range are all zero. -/
def zeroIn (bs : List Byte) (lo hi : Nat) : Bool := ((bs.drop lo).take (hi - lo)).all (· == 0)

/-! ### The end of a packet and of a pre-emption (13 R364, R385) -/

/-- The packet a front end works on is done: RD and the expected number advance (13 R364). -/
def State.packetDone (s : State) (q : Nat) : State :=
  s.modQueue q fun c => match c.fetched with
    | some bs => { c with rd := c.rd + BitVec.ofNat 32 (rdN bs 1 1 % 64 + 1), expect := c.expect + 1, fetched := none, waiting := false, retries := 0, due := true }
    | none => c
/-- Report the pre-emptions whose cores hold no block any more: their cores take blocks again, and a packet is done (log 37). -/
def State.finishVacates (s : State) : State :=
  let gone := fun (v : Vacate) => v.cores.all fun c => !(s.blocks.any fun k => k.core == c && k.place == .live)
  (s.front.vacates.filter gone).foldl (fun (s : State) v =>
    let s := v.cores.foldl (fun (s : State) c => s.modCore c fun k => { k with vacating := false }) s
    let s := match v.queue with
      | some q => s.packetDone q
      | none => s
    s.modFront fun f => { f with vacates := f.vacates.filter (· != v) }) s

/-! ### Chunks and slots that pending returns hold (04 R122) -/

/-- A return of the thread is on its way. -/
def State.returnsPending (s : State) (b tid : Nat) : Bool :=
  (s.homes.reqs.any fun r => r.blk == b && r.parts.any fun p => p.tid == tid) ||
  s.homes.rets.any fun r => r.blk == b && r.part.tid == tid
/-- The thread slots of a core that a new block may not take. -/
def State.slotsBusy (s : State) (c : Nat) : List Nat :=
  (s.blocks.zipIdx).flatMap fun x =>
    if x.1.core != c then []
    else if x.1.place == .live then x.1.slots
    else (x.1.slots.zipIdx.filter fun y => s.returnsPending x.2 y.2).map (·.1)

/-! ### Freeing a block (04 R111, R119; 08 R234; 09 R243) -/

/-- The accumulator tiles of a block are freed and their tags advance; a bank without resident or kept blocks is free. -/
def State.freeAccs (s : State) (b : Nat) : State :=
  match s.blocks[b]? with
  | none => s
  | some k =>
    let s := s.modCore k.core fun c => { c with banks := c.banks.map fun x => { x with tiles := x.tiles.map fun t =>
      match t.owner with
      | some (o, _) => if o = b then ⟨none, t.tag + 1, []⟩ else t
      | none => t } }
    s.modBlock b fun k => { k with accs := List.replicate 16 none, kept := false }
/-- A bank of a core is in use by a block other than `b`. -/
def State.bankUsed (s : State) (c bank b : Nat) : Bool :=
  (s.blocks.zipIdx).any fun x => x.2 != b && x.1.core == c && x.1.bank == bank && (x.1.place == .live || (x.1.place == .saved && x.1.kept))
def State.leaveBank (s : State) (b : Nat) : State :=
  match s.blocks[b]? with
  | some k =>
    if s.bankUsed k.core k.bank b || k.kept then s
    else s.modCore k.core fun c => { c with banks := upd c.banks k.bank fun x => { x with ctx := none } }
  | none => s

/-- The tag that a thread's next extended grant takes once those it holds are freed: none that a return in flight carries
(04 R119, R122). -/
def State.freeTag (s : State) (b tid : Nat) (t : Thread) : BitVec 4 := (s.nextGrant b tid t 0).getD (t.grant + 1)
/-- The core frees a block's allocations and advances their tags; `keep` leaves its accumulator tiles in their bank. -/
def State.freeBlock (s : State) (b : Nat) (pl : Place) (keep : Bool) : State :=
  match s.blocks[b]? with
  | none => s
  | some k =>
    let held := (List.range k.threads.length).flatMap fun t => s.heldChunks b t 0
    let chunks := (k.threads.foldl (fun n t => n + t.regs / 64) k.reserve) - held.length
    let s := if keep then s.modBlock b fun k => { k with kept := true } else s.freeAccs b
    let room := (s.bundles.filter fun x => x.blk == b).foldl (fun n x => n + x.ws) 0
    let s := { s with bundles := s.bundles.filter fun x => x.blk != b }
    let s := s.modBlock b fun k => { k with
      place := pl, gen := k.gen + 1, units := [], reserve := 0
      threads := (k.threads.zipIdx).map fun x => { x.1 with grant := if x.1.grants.isEmpty then x.1.grant else s.freeTag b x.2 x.1 }
      queues := k.queues.map fun c => { c with carved := false, tag := if c.carved then c.tag + 1 else c.tag }
      tiles := k.tiles.map fun _ => Tile.none, streams := k.streams.map fun _ => none, copies := [], xfers := [], colls := [] }
    let s := s.modCore k.core fun c => { c with
      free := c.free + chunks, grew := if 0 < chunks then s.cycle else c.grew, held := c.held ++ held
      growq := c.growq.filter fun q => q.blk != b
      carveTags := ((s.blocks[b]?).elim [] (·.queues)).zipIdx.foldl (fun t x => tset t (16 * k.rslot + x.2) x.1.tag) c.carveTags
      slotTags := (k.slots.zip k.threads).foldl (fun t x => tset t x.1 (x.2.slotTag + 1)) c.slotTags
      fast := c.fast - room
      mmas := c.mmas.filter fun m => m.blk != b }
    (s.leaveBank b).retryGrow k.core

/-- A block's matrix exception counts join its queue's totals (16 R461). -/
def State.joinCounts (s : State) (b : Nat) : State :=
  match s.blocks[b]? with
  | some k => s.modQueue (s.queueOf k) fun q => { q with
      mxnan := satAdd q.mxnan k.mxnan.toNat, mxinf := satAdd q.mxinf k.mxinf.toNat, mxovf := satAdd q.mxovf k.mxovf.toNat }
  | none => s

/-! ### A block is done: the launch's and the child's counts (13 R370, R388, R432) -/

def State.modLaunch (s : State) (l : Nat) (f : Launch → Launch) : State := s.modFront fun x => { x with launches := upd x.launches l f }
/-- The child of a merged grid that a ticket belongs to (15 R433). -/
def Launch.childOf (l : Launch) (ticket : Nat) : Option Nat :=
  l.children.findIdx? fun c => decide (c.first ≤ ticket) && decide (ticket < c.first + c.nblk)
/-- A child after one of its blocks is done. -/
def Child.after (c : Child) (fault : Bool) : Child := { c with remain := c.remain - 1, status := if fault then 2 else c.status }
/-- Write REMAIN and STATUS of the child of a block that is done, in its indirection table (15 R432). False: the table lies on
another package, which has not acknowledged. -/
def State.writeChild (s : State) (k : Block) (fault : Bool) : State × Bool :=
  match s.launch? k with
  | some l => match (l.childOf k.ticket).bind fun i => (l.children[i]?).map fun c => (i, c.after fault) with
    | some (i, c) =>
      if l.lrec.icount = 0 then (s, true)
      else
        let w := s.writePa [7, 6, k.launch, i] false (l.lrec.itab + 32 * i + 24) (toBytes c.remain 4 ++ toBytes c.status 4)
        (w.1, w.2 != .wait)
    | none => (s, true)
  | none => (s, true)
/-- One block of a launch has retired, or has been accounted after a halt. -/
def State.blockDone (s : State) (b : Nat) (fault : Bool) : State :=
  match s.blocks[b]? with
  | none => s
  | some k => s.modLaunch k.launch fun l => { l with
      done := l.done + 1, faulted := l.faulted || fault
      children := match l.childOf k.ticket with
        | some i => upd l.children i fun c => c.after fault
        | none => l.children }
/-- The agents of a block that ask other packages (`who` of a remote request). -/
def whoOf (b : Nat) (w : List Nat) : Bool :=
  match w with
  | x :: y :: _ => ([1, 2, 3, 4, 5, 9].contains x) && y == b
  | _ => false
/-- A request of a block's agents to another package has not been answered. -/
def State.farOut (s : State) (b : Nat) : Bool := s.homes.remotes.any fun r => whoOf b r.who && r.answer.isNone && !r.lost

/-- Every condition of retirement (01 R34). -/
def State.mayRetire (s : State) (b : Nat) : Bool :=
  match s.resident? b with
  | some k => k.halt.isNone && k.threads.all (fun t => !t.live) && k.seq.ended && k.streams.all (·.isNone) && k.cntCp == 0 && k.cntTl == 0 &&
    !s.farOut b
  | none => false
/-- BLOCK_RETIRE: every write of the block has been acknowledged, so the release of 01 R28 holds. -/
def execBlockRetire (b : Nat) (s : State) : Res :=
  .next <| if s.mayRetire b then
    match s.blocks[b]? with
    | some k => match s.sendMessage (clIndex k.core) false (.retired b) with
      | some t =>
        if (t.writeChild k false).2 then (((((t.writeChild k false).1.joinCounts b).freeBlock b .retired false).blockDone b false)).finishVacates
        else (s.writeChild k false).1
      | none => s
    | none => s
  else s

/-! ### Halt records (08 R233) -/

/-- STATUS of a thread in a halt record or a thread record (08 R237, R238). -/
def Thread.statusCode (t : Thread) : Nat :=
  (match t.status with
    | .ready _ | .issued => 0
    | .parked (.queue _) => 1
    | .parked (.barrier _ _) | .parked (.cbar _) => 2
    | .parked (.wait _ _ _ _) | .parked (.limit _ _) | .parked (.pbar _) | .exiting => 3
    | .parked (.sleep _) => 4
    | .parked (.syscall _ _ _) => 5
    | .parked (.replay _) => 6
    | .parked (.grow _) => 7
    | .parked .meet => 8
    | .exited => 9) + 128 * b2n t.intrap
/-- STATUS of a thread of a block: one that waits for its octet has code 8 whether it parked there or not (01 R44). -/
def State.statusOf (s : State) (k : Block) (tid : Nat) (t : Thread) : Nat :=
  if s.waitsOctet k tid t then 8 + 128 * b2n t.intrap else t.statusCode
/-- The bytes of a block's halt record. -/
def State.haltBytes (s : State) (k : Block) (h : Halt) : List Byte :=
  let o := s.origin k h.ftid.isSome h.pc
  [BitVec.ofNat 8 h.code, BitVec.ofNat 8 (b2n h.debug), BitVec.ofNat 8 h.word, 0] ++ toBytes (h.ftid.getD 0xFFFFFFFF) 4 ++
    toBytes k.ticket 4 ++ toBytes (s.logical k.core) 4 ++ toBytes h.pc.toNat 8 ++ toBytes o.1.toNat 8 ++ toBytes o.2 4 ++
    toBytes h.imm 2 ++ toBytes k.threads.length 2 ++ toBytes h.addr.toNat 8 ++ toBytes h.clock.toNat 8 ++
    toBytes (if h.ftid.isNone && h.pc == k.seq.pc then k.seq.pc else k.seq.stopPc).toNat 8 ++
    k.threads.zipIdx.flatMap fun x => toBytes x.1.pc.toNat 8 ++ [BitVec.ofNat 8 x.1.skid, BitVec.ofNat 8 (s.statusOf k x.2 x.1)] ++ List.replicate 6 0
/-- Write a block's halt record after those before it; one that does not fit, or reaches no memory, sets HLOST (13 R359).
The answer is nothing while a write to another package is not acknowledged. -/
def State.writeHalt (s : State) (b : Nat) (k : Block) (h : Halt) : State × Bool :=
  let q := s.queueOf k
  let c := s.queue q
  let bs := s.haltBytes k h
  let mark := fun (s : State) => s.modBlock b fun k => { k with halt := k.halt.map fun h => { h with recorded := true } }
  let pa := c.act.haltBase.toNat + c.haltUsed
  let lost := (mark ((s.modQueue q fun c => { c with hlost := true }).raiseQueue q), true)
  if c.act.haltSize.toNat * 1024 < c.haltUsed + bs.length || !s.reaches pa bs.length then lost
  else
    let w := s.writePa [9, b] false pa bs
    match w.2 with
    | .wait => (w.1, false)
    | .ok => (mark ((w.1.modQueue q fun c => { c with haltUsed := c.haltUsed + bs.length }).raiseQueue q), true)
    | _ => (mark ((w.1.modQueue q fun c => { c with hlost := true }).raiseQueue q), true)

/-! ### Quiesce, accounting and debugging (08 R230–R234) -/

/-- Put every bundle of a block back where its lanes stand. -/
def State.stopBundles (s : State) (b : Nat) : State :=
  (s.bundles.filter fun x => x.blk == b).foldl (fun (s : State) bd => s.dissolve bd) s
/-- The sequencer has an instruction in flight to another package, which it completes unless the block is fatally halted. -/
def State.seqBusy (s : State) (b : Nat) (k : Block) : Bool :=
  !k.dead && s.asking [1, b] && match k.seq.wait with
    | .fault _ => false
    | _ => true
/-- A transfer of a peer moves into the block's tiles. -/
def State.peerFills (s : State) (b : Nat) (k : Block) : Bool :=
  s.blocks.any fun o => o.place == .live && o.xfers.any fun x => x.targets.any fun t => t.1 == b && t.2.2 == k.gen
/-- The block's requests and returns have ended, its sequencer and its engines have nothing in flight, no MMA or transfer of it
remains, and no peer holds or fills a tile of it (08 R231, R236; 12 R344, R353; 14 R399, R404; log 43). -/
def State.drained (s : State) (b : Nat) : Bool :=
  !(s.homes.reqs.any fun r => r.blk == b) && !(s.homes.rets.any fun r => r.blk == b) && !s.farOut b && !s.asking [7, 4, b] &&
  match s.blocks[b]? with
  | some k => k.xfers.isEmpty && k.tiles.all (·.holds == 0) && !s.peerFills b k && !(((s.cores[k.core]?).map fun c => c.mmas.any fun m => m.blk == b).getD false) &&
    !s.seqBusy b k && !k.copies.any (s.copyBusy b) && !k.streams.zipIdx.any fun x => x.1.any (s.strmBusy b x.2)
  | none => true
/-- At a quiesce a LOAD stream discards the row it has read in part (12 R344). -/
def Stream.quiesce (x : Stream) : Stream := if x.dir == 0 then { x with done := x.done - x.buf.length, buf := [] } else x
/-- Every stream of a block at its quiesce. -/
def State.quiesceStreams (s : State) (b : Nat) : State :=
  s.modBlock b fun k => { k with streams := k.streams.map fun x => x.map Stream.quiesce }
/-- Drop the MMAs of a fatally halted block that have not started (08 R231). -/
def State.dropMmas (s : State) (b : Nat) : State :=
  match s.blocks[b]? with
  | some k => match s.cores[k.core]? with
    | some c =>
      let started := match c.unit with
        | .active _ _ => c.mmas.head?.map (·.id)
        | _ => none
      (c.mmas.filter fun m => m.blk == b && some m.id != started).foldl (fun (s : State) m =>
        (s.mmaLeave k.core m).modCore k.core fun c => { c with mmas := c.mmas.filter fun x => x.id != m.id }) s
    | none => s
  | none => s
/-- The open regions of a fatally halted block are discarded (08 R232). -/
def State.abortAll (s : State) (b : Nat) : State :=
  match s.blocks[b]? with
  | some k => (List.range k.threads.length).foldl (fun (s : State) t => s.abortRegion b t) s
  | none => s
/-- BLOCK_ACCOUNTED: once the lanes have stopped and the quiesce has ended, the halt record is written and the block's leaf reports
the halt; a fatally halted block is then accounted, and a debug-stopped one stays (08 R231–R234). -/
def execBlockAccounted (b : Nat) (s : State) : Res :=
  .next <| match s.resident? b with
    | some k => match k.halt with
      | some h =>
        if (s.queue (s.queueOf k)).reset == 1 || (s.runs b && s.bundles.any (fun x => x.blk == b)) then s
        else
          let s := s.stopBundles b
          let s := if h.debug then s else (s.abortAll b).dropMmas b
          if !s.drained b || !k.colls.isEmpty || (h.debug && h.recorded) || 16 ≤ (s.permits (clIndex k.core)).2 then s
          else
            let s := s.quiesceStreams b
            let k := (s.blocks[b]?).getD k
            let w := if h.recorded then (s, true) else (if h.code = Code.linkLost then s.forgetLost else s).writeHalt b k h
            let c := if w.2 && !h.debug then w.1.writeChild k true else w
            if !c.2 then c.1
            else match c.1.sendMessage (clIndex k.core) false (.halted b h.debug) with
              | some s => if h.debug then s else (((s.joinCounts b).freeBlock b .accounted false).blockDone b true).finishVacates
              | none => c.1
      | none => s
    | none => s

/-- DEBUG_HALT: a named block stops, its record naming the sequencer (08 R230). -/
def execDebugHalt (b : Nat) (s : State) : Res :=
  .next <| match s.resident? b with
    | some k => if k.halt.isSome then s else s.haltBlock b Code.debugHalt true 0 none k.seq.pc 0 0
    | none => s
/-- DEBUG_RESUME: a debug-stopped block whose record stands goes on, its regions intact (08 R232). -/
def execDebugResume (b : Nat) (s : State) : Res :=
  .next <| match s.resident? b with
    | some k => match k.halt with
      | some h => if h.debug && h.recorded then s.modBlock b fun k => { k with
          halt := none, threads := k.threads.map fun t => { t with skid := 0, status := if t.status == .ready true then .ready false else t.status } } else s
      | none => s
    | none => s

end Sys2Proof.Machine
end

