-- ==== Sys2Proof/Machine/Launch.lean ====
section
/-! DEFINITION. Launch records and their validation, dealing, ticket pulls, block start and launch completion (spec/01 R23–R28,
spec/03 R103, spec/13 R366–R370, R377–R384, R388, spec/15 R432, R433, spec/09 R242, R252). -/

namespace Sys2Proof.Machine

/-! ### Records (13 R366, R367; 03 R103) -/


def LaunchRec.of (bs : List Byte) : LaunchRec :=
  { code := rdN bs 0 8, tentry := rdN bs 8 4, uentry := rdN bs 0xC 4, nlev := rdN bs 0x10 1, opclass := rdN bs 0x11 1
    prio := rdN bs 0x12 1, chain := rdN bs 0x13 1, ctrl := rdN bs 0x14 4, unroll := rdN bs 0x18 2, growth := rdN bs 0x1A 1
    maxacc := rdN bs 0x1B 1, maxregs := rdN bs 0x1C 2, maxq := rdN bs 0x1E 1, spad := rdN bs 0x20 4, sigaddr := rdN bs 0x28 8
    sblk := rdN bs 0x30 8, smaskk := rdN bs 0x38 16, dblk := rdN bs 0x48 8, dmaskk := rdN bs 0x50 16, itab := rdN bs 0x60 8
    icount := rdN bs 0x68 4
    levels := (List.range (rdN bs 0x10 1)).map fun n =>
      (rdN bs (0x80 + 8 * n) 4, rdN bs (0x84 + 8 * n) 4 % 8, rdN bs (0x84 + 8 * n) 4 / 256 % 8) }
def CodeHdr.of (bs : List Byte) : CodeHdr :=
  { objid := BitVec.ofNat 64 (rdN bs 0 8), toff := rdN bs 0x10 8, tlen := rdN bs 0x18 8, uoff := rdN bs 0x20 8, ulen := rdN bs 0x28 8
    tentry := rdN bs 0x30 8, uentry := rdN bs 0x38 8, soff := rdN bs 0x40 8, scount := rdN bs 0x48 4, tmap := rdN bs 0x50 8
    umap := rdN bs 0x58 8, doff := rdN bs 0x60 8, dlen := rdN bs 0x68 8, loff := rdN bs 0x70 8 }

/-- CTRL fields. -/
def LaunchRec.ordered (r : LaunchRec) : Bool := nbit r.ctrl 0
def LaunchRec.chainEnd (r : LaunchRec) : Bool := nbit r.ctrl 1
def LaunchRec.specMode (r : LaunchRec) : Nat := nfld r.ctrl 2 2
/-- Numbers of the bits set in a K mask. -/
def maskBits (m : Nat) : List Nat := (List.range 128).filter (nbit m)

/-! ### Levels (01 R23–R25) -/

def mulAll (l : List Nat) : Nat := l.foldl (· * ·) 1
def LaunchRec.exts (r : LaunchRec) : List Nat := r.levels.map (·.1)
/-- The block level. -/
def LaunchRec.bl (r : LaunchRec) : Nat := (r.levels.findIdx? fun v => v.2.1 == 2).getD 0
/-- Threads of a block, and blocks of the launch. -/
def LaunchRec.threads (r : LaunchRec) : Nat := mulAll (r.exts.take r.bl)
def LaunchRec.blocks (r : LaunchRec) : Nat := mulAll (r.exts.drop r.bl)
/-- Blocks of one unit of a level. -/
def LaunchRec.unitOf (r : LaunchRec) (n : Nat) : Nat := mulAll ((r.exts.take n).drop r.bl)
/-- Blocks of one unit of the outermost level that carries a domain code. -/
def LaunchRec.unitFor (r : LaunchRec) (dom : Nat) : Option Nat :=
  (((List.range r.levels.length).filter fun n => (r.levels.getD n (1, 0, 0)).2.1 == dom).getLast?).map r.unitOf
/-- The unit of dealing (13 R378). -/
def LaunchRec.dealUnit (r : LaunchRec) : Nat := (r.unitFor 4).getD ((r.unitFor 3).getD 1)
/-- The blocks of a CLUSTER unit; 1 where there is none. -/
def LaunchRec.clUnit (r : LaunchRec) : Nat := (r.unitFor 3).getD 1
/-- Effective domains: VIRTUAL takes that of the level above. -/
def effDoms : List (Nat × Nat × Nat) → List Nat
  | [] => []
  | v :: vs => (if v.2.1 = 7 then (effDoms vs).headD 7 else v.2.1) :: effDoms vs
/-- Minimum scope of an effective domain (01 R25). -/
def minScope (d : Nat) : Nat := [0, 1, 1, 2, 3, 4, 5, 7].getD d 7
def nondecreasing : List Nat → Bool
  | a :: b :: t => decide (a ≤ b) && nondecreasing (b :: t)
  | _ => true
/-- The levels keep every constraint of R23 to R25. -/
def LaunchRec.levelsOk (r : LaunchRec) : Bool :=
  let v := r.levels
  let e := effDoms v
  decide (2 ≤ v.length) && decide (v.length ≤ 8) && v.all (fun x => x.1 != 0) &&
  ((v.zipIdx).all fun x => (x.2 == 0) == (x.1.2.1 == 0)) &&
  ((v.zipIdx).all fun x => x.1.2.1 != 1 || mulAll (r.exts.take x.2) == 8) &&
  countp v (fun x => x.2.1 == 2) == 1 && (v.getLast?.map (·.2.1)) != some 7 && nondecreasing e &&
  (e.take r.bl).all (fun d => decide (d ≤ 2)) &&
  decide (1 ≤ r.threads) && decide (r.threads ≤ 4096) && decide (1 ≤ r.blocks) && decide (r.blocks ≤ 2 ^ 32) &&
  ((List.range v.length).all fun n => (v.getD n (1, 0, 0)).2.1 != 3 || decide (r.unitOf n ≤ 4)) &&
  ((v.zip e).all fun x => decide (x.1.2.2 ≤ 6) && decide (minScope x.2 ≤ x.1.2.2))

/-! ### Validation (13 R368) -/

/-- Chunks a block needs at admission (04 R109). -/
def LaunchRec.reserve (r : LaunchRec) : Nat := 8 * ((r.maxregs - 64) / 64)
def LaunchRec.chunks (r : LaunchRec) : Nat := r.threads + r.reserve
/-- Every field of a record that software writes lies within its values, and every reserved byte is 0. -/
def recordFieldsOk (bs : List Byte) : Bool :=
  let r := LaunchRec.of bs
  r.code % 256 == 0 && decide (2 ≤ r.nlev) && decide (r.nlev ≤ 8) && decide (r.opclass ≤ 7) && decide (r.prio ≤ 3) &&
  decide (r.chain ≤ 63) && decide (r.ctrl < 16) && r.specMode != 3 && decide (1 ≤ r.unroll) && decide (r.unroll ≤ 1024) &&
  decide (1 ≤ r.growth) && decide (r.growth ≤ 16) && decide (r.maxacc ≤ 16) && decide (64 ≤ r.maxregs) && decide (r.maxregs ≤ 1536) &&
  r.maxregs % 64 == 0 && decide (r.maxq ≤ 16) && zeroIn bs 0x1F 0x20 && decide (r.spad ≤ 960) && r.spad % 64 == 0 &&
  zeroIn bs 0x24 0x28 && r.sigaddr % 8 == 0 && (r.smaskk == 0 || r.sblk % 8 == 0) && !nbit r.smaskk 0 &&
  decide ((maskBits r.smaskk).length ≤ 64) && (r.dmaskk == 0 || r.dblk % 8 == 0) && !nbit r.dmaskk 0 &&
  (maskBits r.smaskk).all (fun n => !nbit r.dmaskk n) && r.itab == 0 && r.icount == 0 && zeroIn bs 0x6C 0x80 &&
  zeroIn bs (0x80 + 8 * r.nlev) 0xC0 && zeroIn bs 0xC0 0x100 &&
  (List.range r.nlev).all fun n =>
    let hi := rdN bs (0x84 + 8 * n) 4
    nfld hi 3 5 == 0 && nfld hi 11 21 == 0
/-- The header of a code object keeps R103 as far as the device can see. No field gives the object's length, so that its regions lie
within the object (R103, R368) is checked by no bound here: what lies outside is read where it lies (log 80). -/
def headerOk (bs : List Byte) : Bool :=
  rdN bs 8 4 == 1 && zeroIn bs 0xC 0x10 && zeroIn bs 0x4C 0x50 && zeroIn bs 0x78 0x100 && decide (rdN bs 0x48 4 ≤ 65535) &&
  [0x10, 0x18, 0x20, 0x28, 0x40, 0x50, 0x58, 0x60, 0x70].all fun o => rdN bs o 8 % 8 == 0

/-- Enabled cores of a cluster, by its number in the package. -/
def State.clusterCores (s : State) (cl : Nat) : List Nat := ((List.range 4).map (4 * cl + ·)).filter fun c => s.regs.harv.getD c false
/-- The pool of a cluster; one without an enabled core belongs to none (15 R431). -/
def State.inPool (s : State) (cl pool : Nat) : Bool := !(s.clusterCores cl).isEmpty && s.power.pool.getD cl 0 == pool
/-- A CLUSTER unit fits some cluster of the pool, where the pool holds one. -/
def State.clusterFits (s : State) (r : LaunchRec) : Bool :=
  let cls := (List.range 72).filter fun cl => s.inPool cl r.opclass
  match r.unitFor 3 with
  | some u => cls.isEmpty || cls.any fun cl => decide (u ≤ (s.clusterCores cl).length)
  | none => true

/-- What validation comes to. -/
inductive LaunchCheck where
  | wait | bad | good (r : LaunchRec) (h : CodeHdr) (statics dynamics : List (Nat × DWord))
  deriving DecidableEq, Repr

/-- An access of the command processor: physical agent number `who`, in a context. -/
def cpEng (who : List Nat) (ctx : Nat) : Eng := { who := who, via := Via.plain ctx, core := none }
/-- Read a static or dynamic block: one 64-bit value for each mask bit, in ascending K order. -/
def State.readBlk (s : State) (who : List Nat) (ctx va mask : Nat) : State × EAns × List (Nat × DWord) :=
  if mask = 0 then (s, .ok, [])
  else
    let ks := maskBits mask
    let r := s.readKeep (cpEng who ctx) va (8 * ks.length)
    (r.1, r.2.1, ks.zip (wordsOf r.2.2))
/-- The answer of a stopped read. -/
def EAns.check : EAns → LaunchCheck
  | .wait => .wait
  | _ => .bad
/-- The words that tell where the access streams of a code object lie (03 R103). -/
def CodeHdr.strmWords (h : CodeHdr) (code : Nat) : List Nat := (List.range (2 * h.scount)).map fun i => code + h.soff + 8 * i
/-- The end of a code object: its header, streams, maps, tables and access streams (03 R103). -/
def State.objEnd (s : State) (ctx : Nat) (code : Nat) (h : CodeHdr) : Nat :=
  let map := fun (n : Nat) => (n / 8 + 63) / 64 * 8
  let strms := (List.range h.scount).map fun i =>
    match s.peek none ctx (code + h.soff + 16 * i) .read, s.peek none ctx (code + h.soff + 16 * i + 8) .read with
    | .ok o, .ok n => o.toNat + n.toNat
    | _, _ => 0
  ([256, h.toff + h.tlen, h.uoff + h.ulen, h.soff + 16 * h.scount, h.tmap + map h.tlen, h.umap + map h.ulen, h.doff + h.dlen, h.loff + 256] ++ strms).foldl max 0
/-- The 64 KiB pages of a code object. -/
def State.objPages (s : State) (ctx code : Nat) (h : CodeHdr) : List Nat :=
  (List.range ((code % 2 ^ 16 + s.objEnd ctx code h + 2 ^ 16 - 1) / 2 ^ 16)).map fun i => (code / 2 ^ 16 + i) * 2 ^ 16
/-- The 64 KiB physical units that hold a code object, which an entry for it records (15 R426). -/
def State.objUnits (s : State) (ctx code : Nat) (h : CodeHdr) : List Nat :=
  ((s.objPages ctx code h).filterMap fun va => match s.xlate ctx va .read with
    | .ok pa _ => some (pa / 2 ^ 16)
    | _ => none).eraseDups
/-- What another package must still answer before the units of a code object are known. -/
def State.objWait (s : State) (ctx code : Nat) (h : CodeHdr) : Option Nat :=
  match (h.strmWords code).findSome? (fun va => match s.peek none ctx va .read with
    | .wait ea => some ea
    | _ => none) with
  | some ea => some ea
  | none => (s.objPages ctx code h).findSome? fun va => match s.xlate ctx va .read with
    | .wait ea => some ea
    | _ => none
/-- The header with what Mirage takes from the object: the units that hold it, of a launch that may be specialised (15 R426). -/
def State.withUnits (s : State) (ctx : Nat) (r : LaunchRec) (h : CodeHdr) : CodeHdr ⊕ Nat :=
  if r.specMode = 0 then .inl h
  else match s.objWait ctx r.code h with
    | some ea => .inr ea
    | none => .inl { h with units := s.objUnits ctx r.code h }
/-- Validate a record, and read what acceptance reads (13 R368, R369). A record, header or block that cannot be read is invalid. -/
def State.validate (s : State) (who : List Nat) (ctx : Nat) (bs : List Byte) : State × LaunchCheck :=
  let r := LaunchRec.of bs
  if !(recordFieldsOk bs && r.levelsOk && decide (r.chunks ≤ 4096) && s.clusterFits r) then (s, .bad)
  else match s.readKeep (cpEng (who ++ [1]) ctx) r.code 256 with
    | (s, .ok, hb) =>
      if !headerOk hb then (s, .bad)
      else match s.readBlk (who ++ [2]) ctx r.sblk r.smaskk with
        | (s, .ok, st) => match s.readBlk (who ++ [3]) ctx r.dblk r.dmaskk with
          | (s, .ok, dy) =>
            let r := { r with
              tentry := if r.tentry = 0xFFFFFFFF then (CodeHdr.of hb).tentry else r.tentry
              uentry := if r.uentry = 0xFFFFFFFF then (CodeHdr.of hb).uentry else r.uentry }
            match s.withUnits ctx r (CodeHdr.of hb) with
            | .inr ea => (s.askWalk ea, .wait)
            | .inl h => if r.sigaddr = 0 then (s, .good r h st dy)
            else match s.place1 (cpEng who ctx) r.sigaddr .write with
              | .here _ _ | .there _ _ => (s, .good r h st dy)
              | .walk ea => (s.askWalk ea, .wait)
              | .stop _ => (s, .bad)
          | (s, a, _) => (s, a.check)
        | (s, a, _) => (s, a.check)
    | (s, a, _) => (s, a.check)
/-- Validate a record; the code of another package is read afresh after it (log 34). -/
def State.checkLaunch (s : State) (who : List Nat) (ctx : Nat) (bs : List Byte) : State × LaunchCheck :=
  let r := s.validate who ctx bs
  if r.2 == .wait then r else (r.1.walked.asked who, r.2)

/-! ### Signals (13 R370) -/

/-- Halt a queue: 1 QUEUE_STALE, 2 QUEUE_MALFORMED; QMSI is raised (13 R364). -/
def State.haltQueue (s : State) (q code : Nat) : State :=
  (s.modQueue q fun c => { c with stat := code, fetched := none, waiting := false }).raiseQueue q
/-- Write a completion signal. False: it waits for another package, or for PKGCTL.ENABLE (17 R467). -/
def State.writeSignal (s : State) (who : List Nat) (q ctx addr status seq : Nat) : State × Bool :=
  if addr = 0 then (s, true)
  else if !s.regs.enable then (s, false)
  else if addr % 8 != 0 then (s.haltQueue q 2, true)
  else
    let w := s.writeVa (cpEng who ctx) addr (toBytes (status + seq % 65536 * 2 ^ 32 + 2 ^ 48) 8)
    match w.2 with
    | .ok => (w.1, true)
    | .wait => (w.1, false)
    | _ => (w.1.haltQueue q 2, true)

/-! ### Dealing (13 R378, R381) -/

/-- Enabled cores of a die in a pool. -/
def State.poolCores (s : State) (pool die : Nat) : Nat :=
  countp ((List.range 36).map (36 * die + ·)) fun c => s.regs.harv.getD c false && s.power.pool.getD (clIndex c) 0 == pool
/-- Give the leftover units one each to the dies with cores (log 40). -/
def spread : Nat → List (Nat × Nat) → List Nat
  | _, [] => []
  | left, (n, e) :: rest => if left != 0 && e != 0 then (n + 1) :: spread (left - 1) rest else n :: spread left rest
/-- Contiguous ranges of so many units each, from a ticket. -/
def rangesFrom (u : Nat) : Nat → List Nat → List (List (Nat × Nat))
  | _, [] => []
  | t, n :: rest => (if n = 0 then [] else [(t, t + n * u)]) :: rangesFrom u (t + n * u) rest
/-- The ranges of a launch's dies; none while its pool is empty. -/
def State.dealt (s : State) (r : LaunchRec) (blocks : Nat) : List (List (Nat × Nat)) :=
  let es := (List.range 8).map fun d => s.poolCores r.opclass d
  let e := es.foldl (· + ·) 0
  let u := r.dealUnit
  let n := blocks / u
  if e = 0 then []
  else if r.ordered then [(0, blocks)] :: List.replicate 7 []
  else
    let ns := es.map fun x => n * x / e
    rangesFrom u 0 (spread (n - ns.foldl (· + ·) 0) (ns.zip es))
/-- Enter a launch into dealing; with its pool empty it stays undealt (13 R389). -/
def State.enterDealing (s : State) (l : Nat) : State :=
  match s.front.launches[l]? with
  | some x => s.modLaunch l fun y => { y with state := .dealing, ranges := s.dealt x.lrec x.blocks }
  | none => s
/-- Deal the launches that wait for a pool, when a cluster joins one. -/
def State.dealWaiting (s : State) : State :=
  (List.range s.front.launches.length).foldl (fun (s : State) l => match s.front.launches[l]? with
    | some x => if x.state == .dealing && x.ranges.isEmpty then s.enterDealing l else s
    | none => s) s
/-- Every ticket has been handed out. -/
def Launch.allDealt (l : Launch) : Bool := !l.ranges.isEmpty && l.ranges.all (·.isEmpty)

/-! ### Tickets of a leaf (13 R377–R382) -/

/-- The first tickets of a counter: the first ticket, and what stays. -/
def takeFirst (n : Nat) : List (Nat × Nat) → Option (Nat × List (Nat × Nat))
  | [] => none
  | (a, e) :: rest => some (a, if a + n < e then (a + n, e) :: rest else rest)
/-- The lowest unit that a counter has not handed out: its first ticket, and what stays. -/
def stealUnit (u : Nat) : List (Nat × Nat) → Option (Nat × List (Nat × Nat))
  | [] => none
  | (a, e) :: rest =>
    let b := (a + u - 1) / u * u
    if b + u ≤ e then some (b, (if a < b then [(a, b)] else []) ++ (if b + u < e then [(b + u, e)] else []) ++ rest)
    else (stealUnit u rest).map fun x => (x.1, (a, e) :: x.2)
/-- The ranges after a leaf of a die has stolen what it needs (13 R380). -/
def Launch.reach (l : Launch) (die : Nat) : List (List (Nat × Nat)) :=
  if l.lrec.ordered || !(l.ranges.getD die []).isEmpty then l.ranges
  else
    match (List.range 7).findSome? fun i =>
      let v := (die + 1 + i) % 8
      (stealUnit l.lrec.dealUnit (l.ranges.getD v [])).map fun x => (v, x) with
    | some (v, x) => upd (upd l.ranges v fun _ => x.2) die fun _ => [(x.1, x.1 + l.lrec.dealUnit)]
    | none => l.ranges
/-- The tickets a leaf of a die takes next: the first of them, and the ranges after (13 R379–R382). -/
def Launch.nextTicket (l : Launch) (die : Nat) : Option (Nat × List (List (Nat × Nat))) :=
  let rs := l.reach die
  let d := if l.lrec.ordered then 0 else die
  match takeFirst l.lrec.clUnit (rs.getD d []) with
  | some (t, rest) =>
    let bad := l.lrec.ordered && (l.lrec.unitFor 4).isSome &&
      l.bound.any fun x => x.1 == t / l.lrec.dealUnit && x.2 != die
    if bad then none else some (t, upd rs d fun _ => rest)
  | none => none

/-- Declared accumulator tiles of a bank, with those kept for saved blocks (13 R379, 08 R240). -/
def State.bankTiles (s : State) (c bank : Nat) : Nat :=
  (s.blocks.zipIdx).foldl (fun n x =>
    if x.1.core == c && x.1.bank == bank && x.1.place == .live then n + s.maxacc x.1
    else if x.1.core == c && x.1.bank == bank && x.1.place == .saved && x.1.kept then n + countp x.1.accs (·.isSome)
    else n) 0
/-- The bank a block of a context takes on a core: its context's, else a free one (log 45). -/
def State.bankFor (s : State) (c part ctx maxacc : Nat) : Option Nat :=
  let banks := ((s.cores[c]?).map (·.banks)).getD []
  let room := fun (i : Nat) => if s.bankTiles c i + maxacc ≤ 16 then some i else none
  match banks.findIdx? fun x => x.ctx == some (part, ctx) with
  | some i => room i
  | none => (banks.findIdx? fun x => x.ctx.isNone).bind room
/-- A core takes blocks: enabled, awake, not being vacated, its cluster not on the move. -/
def State.coreOpen (s : State) (c : Nat) : Bool :=
  let cl := clIndex c
  decide (c < s.cores.length) && s.regs.harv.getD c false && !s.vacatingAt c && !s.power.sleep.getD cl false && !s.power.asleep.getD cl false &&
  s.power.pool.getD cl 0 == s.power.poolNext.getD cl 0 && s.regs.clpart.getD cl 0 == s.regs.clpartNext.getD cl 0
/-- Blocks resident on a core. -/
def State.residents (s : State) (c : Nat) : Nat := countp s.blocks fun k => k.core == c && k.place == .live
/-- A block that needs so many threads, chunks, scratchpad units and tiles fits a core (13 R379). -/
def State.fits (s : State) (c : Nat) (l : Launch) (threads chunks maxacc : Nat) : Bool :=
  s.coreOpen c && s.power.pool.getD (clIndex c) 0 == l.lrec.opclass && s.regs.clpart.getD (clIndex c) 0 == l.part &&
  decide (s.residents c < min 32 (s.power.limit.getD (clIndex c) 32)) &&
  decide ((s.slotsBusy c).length + threads ≤ 4096) && decide (chunks ≤ ((s.cores[c]?).map (·.free)).getD 0) &&
  decide (l.lrec.spad / 64 + 1 ≤ (s.l1Units c).length) && (s.bankFor c l.part l.ctx maxacc).isSome
def State.fitsNew (s : State) (c : Nat) (l : Launch) : Bool := s.fits c l l.lrec.threads l.lrec.chunks l.lrec.maxacc
/-- The chunks a saved block's live threads held (04 R109). -/
def Block.savedChunks (k : Block) : Nat := k.threads.foldl (fun n t => n + t.regs / 64) 0
/-- The tiles that a saved block declares anew: all of its launch's, or those beyond the ones its bank has kept (08 R240). -/
def Block.tilesAsked (k : Block) (maxacc : Nat) : Nat := if k.kept then maxacc - countp k.accs (·.isSome) else maxacc
/-- Contexts and slots its records need on a core are free (08 R239). -/
def State.engineRoom (s : State) (c : Nat) (k : Block) : Bool :=
  decide (s.contextsUsed c + countp k.streams (·.isSome) ≤ 16) && decide (s.slotsUsed c + k.copies.length ≤ 32)
/-- A saved block fits a core (08 R239, R240; 16 R447): beside resident blocks of its CLUSTER unit it takes a core of their
cluster that holds none of them, as a unit's blocks lie on cores of their own (13 R382; log 31). -/
def State.fitsSaved (s : State) (c b : Nat) : Bool :=
  match s.blocks[b]? with
  | some k => match s.launch? k with
    | some l =>
      k.place == .saved && (!k.kept || k.core == c) &&
      s.fits c l k.threads.length (k.savedChunks + l.lrec.reserve) (k.tilesAsked l.lrec.maxacc) && s.engineRoom c k &&
      ((l.lrec.unitFor 3).isNone || s.blocks.all fun o => !(o.place == .live && o.launch == k.launch && o.unit == k.unit) || (clIndex o.core == clIndex c && o.core != c))
    | none => false
  | none => false

/-- The cores on which the next tickets go: the one that has room, or with the lowest others of its cluster as many as a CLUSTER unit has
blocks, in ascending order (13 R377, R382; log 31). -/
def State.unitCores (s : State) (c : Nat) (l : Launch) : Option (List Nat) :=
  match l.lrec.unitFor 3 with
  | none => if s.fitsNew c l then some [c] else none
  | some u =>
    let cs := (s.clusterCores (clIndex c)).filter fun x => s.fitsNew x l
    let mine := c :: (cs.filter (· != c)).take (u - 1)
    if cs.contains c && decide (u ≤ cs.length) then some (cs.filter mine.contains) else none
/-- An earlier launch of the queue still has tickets to hand out (13 R365). Children are not launches of the ring. -/
def State.queueHolds (s : State) (l : Nat) (x : Launch) : Bool :=
  !x.child && (s.front.launches.take l).any fun y => !y.child && y.queue == x.queue && (y.state == .building || (y.state == .dealing && !y.allDealt))
/-- A leaf may pull for this launch on this core. -/
def State.pullable (s : State) (c l : Nat) : Bool :=
  match s.front.launches[l]? with
  | some x => x.state == .dealing && !x.ranges.isEmpty && !s.queueHolds l x && (x.nextTicket (dieOf c)).isSome && (s.unitCores c x).isSome
  | none => false
/-- A saved block of the same or higher priority goes first on the core (13 R377). -/
def State.savedFirst (s : State) (c : Nat) (l : Launch) : Bool :=
  (List.range s.blocks.length).any fun b => match s.blocks[b]? with
    | some k => k.place == .saved && decide (l.epri ≤ k.epri) && s.fitsSaved c b
    | none => false
/-- The launch a leaf pulls for: of highest effective priority, then the earliest accepted. -/
def State.bestLaunch (s : State) (c : Nat) : Option Nat :=
  (List.range s.front.launches.length).foldl (fun (best : Option (Nat × Nat)) l =>
    match s.front.launches[l]? with
    | some x => if s.pullable c l && (best.map fun y => decide (y.2 < x.epri)).getD true then some (l, x.epri) else best
    | none => best) none |>.map (·.1)

/-! ### Block start (13 R383) -/

/-- A thread at its start (04 R106; log 2). -/
def Thread.start (pc : DWord) (arrival : Nat) (tag : BitVec 4) : Thread :=
  { v := List.replicate 64 0, pred := 1, flags := 0, utvec := 0, uepc := 0, uepco := 0, uspecit := 0, ucause := 0, ulanes := 0
    udst := 0, intrap := false, pc := pc, status := .ready false, arrival := arrival, late := false, held := false, acted := false, octet := false, alone := false, ralone := false
    unchecked := false, cntLd := 0, cntSt := 0, rpc := pc, opening := true, region := 0, stores := [], pend := 0, epoch := 0
    arrb := 0, slotTag := tag, grants := [], grant := 0, grown := false, skid := 0, blocked := 0 }
def Carve.empty : Carve := ⟨false, 0, 0, 0, 0, false, 0, false, 0, 0, 0⟩
/-- The tags of a block's queues: they go on from those the core's counter slot last had (04 R119). -/
def State.carveTag (s : State) (c rslot q : Nat) : BitVec 4 := (tget (((s.cores[c]?).map (·.carveTags)).getD []) (16 * rslot + q)).getD 0
def Seq.idle : Seq := ⟨0, 0, 0, true, [], .none, none⟩
/-- A block on core 0 with these threads, nothing bound and every K register 0. -/
def Block.fresh (threads : List Thread) : Block :=
  { launch := 0, core := 0, place := .live, ticket := 0, bid := 0, lvidx := List.replicate 8 0, ext := [8, 1, 1, 1, 1, 1, 1, 1]
    threads := threads, gen := 0, k := List.replicate 128 0, queues := List.replicate 16 Carve.empty, bars := startBars, seqArr := 0
    cntCp := 0, cntTl := 0, seq := Seq.idle, tiles := List.replicate 64 Tile.none, accs := List.replicate 16 none, bank := 0
    spad := [], spadBytes := 0, units := [], slots := List.range threads.length, rslot := 0, spadPoison := [], reserve := 0
    reserveWhole := 0, mxnan := 0, mxinf := 0, mxovf := 0, halt := none, streams := List.replicate 16 none, copies := []
    copySeq := 0, xfers := [], colls := [], entry := none, unit := 0, startCycle := 0, queueDeadSince := none, stepWait := none
    saveAddr := 0, saveLen := 0, kept := false, epri := 0 }
/-- The offset of an entry in a residual stream: its first header at or after the entry's clause (13 R374). -/
def Residual.entryAt (r : Residual) (off : Nat) : Nat :=
  8 * ((List.range r.words.length).find? fun i => r.hdrs.getD i false && decide (off ≤ (r.back.getD i (0, 0)).1)).getD r.words.length
/-- The header address at which a block's stream is entered. -/
def State.entryPc (s : State) (k : Block) (thr : Bool) : DWord :=
  match s.launch? k with
  | some l =>
    let off := if thr then l.lrec.tentry else l.lrec.uentry
    BitVec.ofNat 64 ((s.extent k thr).1 + match s.residual k thr with
      | some r => r.entryAt off
      | none => off)
  | none => 0
/-- Indices of a block in the levels from the block level up (01 R23, R27). -/
def lvIndices (exts : List Nat) (bl bid : Nat) : List Word :=
  (List.range 8).map fun n =>
    if n < bl || exts.length ≤ n then 0
    else
      let i := bid / mulAll ((exts.take n).drop bl)
      BitVec.ofNat 32 (if n + 1 = exts.length then i else i % exts.getD n 1)
/-- A core makes a block's allocations: the L1 lines in the units that become scratchpad are invalid (09 R243). -/
def State.allocate (s : State) (c : Nat) (l : Launch) (chunks : Nat) (units : List Nat) (bank : Nat) : State :=
  (s.modCore c fun k => { k with
    free := k.free - chunks
    banks := upd k.banks bank fun x => { x with ctx := some (l.part, l.ctx) } }).modCore c fun k => { k with
      l1 := k.l1.filter fun x => !units.contains (x.set / 16) }
/-- Units and slots that no block of a core holds, lowest first (log 10). -/
def State.freeUnits (s : State) (c n : Nat) : List Nat := (s.l1Units c).take n
def State.freeSlots (s : State) (c n : Nat) : List Nat :=
  let busy := s.slotsBusy c
  ((List.range 4096).filter fun u => !busy.contains u).take n
def State.freeRslot (s : State) (c : Nat) : Nat :=
  ((List.range 32).find? fun j => !(s.blocks.any fun k => k.core == c && k.place == .live && k.rslot == j)).getD 31

/-- The child of a ticket and the block's number within its launch or child (15 R433). -/
def Launch.bidOf (l : Launch) (ticket : Nat) : Nat :=
  match (l.childOf ticket).bind fun i => l.children[i]? with
  | some c => ticket - c.first
  | none => ticket
def Launch.extsOf (l : Launch) (ticket : Nat) : List Nat :=
  match (l.childOf ticket).bind fun i => l.children[i]? with
  | some c => l.lrec.exts.dropLast ++ [c.top]
  | none => l.lrec.exts
def Launch.dynOf (l : Launch) (ticket : Nat) : List (Nat × DWord) :=
  match (l.childOf ticket).bind fun i => l.children[i]? with
  | some c => c.dyn
  | none => l.dynamics
/-- The K registers at block start (13 R369). -/
def startK (vals : List (Nat × DWord)) : List DWord :=
  vals.foldl (fun k x => if x.1 = 0 then k else k.set x.1 x.2) (List.replicate 128 0)
/-- A block enters its streams: the start acquire, the sequencer at its entry, and every thread at the thread entry, whose
headers are checked (01 R28, 02 R52, 13 R368). Where an entry fails the check, no instruction transfers: the record's PC is the
entry for the threads, with FTID 0, and the ended sequencer's 0 (log 77). -/
def State.enterBlock (s : State) (b : Nat) (l : Launch) : State :=
  match s.blocks[b]? with
  | none => s
  | some k =>
    let scope := (l.lrec.levels.getD l.lrec.bl (1, 2, 1)).2.2
    let s := if 2 ≤ scope then s.acquireL1 k.core .cluster else s
    let t := s.entryPc k true
    let s := if s.targetOk k true t then s.modThreads b fun th => { th with pc := t + 8, rpc := t + 8 }
      else (s.modThreads b fun th => { th with pc := t }).haltAt b 0 Code.illegalTarget t t
    if l.hdr.ulen = 0 then s else (s.modSeq b fun q => { q with ended := false }).seqGoto b (s.entryPc k false)

/-- Start one block on a core: allocations and tags, position registers, K registers, then its streams (13 R383). -/
def State.startBlock (s : State) (li : Nat) (l : Launch) (ticket c : Nat) : State :=
  let r := l.lrec
  let slots := s.freeSlots c r.threads
  let tags := ((s.cores[c]?).map (·.slotTags)).getD []
  let threads := slots.map fun n => Thread.start 0 s.cycle ((tget tags n).getD 0)
  let exts := l.extsOf ticket
  let bank := (s.bankFor c l.part l.ctx r.maxacc).getD 0
  let k : Block :=
    { launch := li, core := c, place := .live, ticket := ticket, bid := BitVec.ofNat 32 (l.bidOf ticket)
      lvidx := lvIndices exts r.bl (l.bidOf ticket), ext := (List.range 8).map fun n => BitVec.ofNat 32 (exts.getD n 1)
      threads := threads, gen := (threads.map (·.slotTag)).headD 0, k := startK (l.statics ++ l.dynOf ticket)
      queues := (List.range 16).map fun q => { Carve.empty with tag := s.carveTag c (s.freeRslot c) q }
      bars := startBars, seqArr := 0, cntCp := 0, cntTl := 0, seq := Seq.idle
      tiles := List.replicate 64 Tile.none, accs := List.replicate 16 none, bank := bank, spad := []
      spadBytes := 1024 * r.spad, units := s.freeUnits c (r.spad / 64), slots := slots, rslot := s.freeRslot c, spadPoison := []
      reserve := r.reserve, reserveWhole := r.reserve, mxnan := 0, mxinf := 0, mxovf := 0, halt := none
      streams := List.replicate 16 none, copies := [], copySeq := 0, xfers := [], colls := [], entry := l.entry
      unit := ticket / r.clUnit, startCycle := s.cycle, queueDeadSince := none, stepWait := none, saveAddr := 0, saveLen := 0, kept := false
      epri := l.epri }
  let b := s.blocks.length
  ({ s.allocate c l r.chunks (s.freeUnits c (r.spad / 64)) bank with blocks := s.blocks ++ [k] }).enterBlock b l

/-- TICKET_PULL: a leaf pulls, or steals, for a core with room, by the launch's turn; the blocks of a CLUSTER unit start
together (13 R377–R383). -/
def execTicketPull (c l : Nat) (s : State) : Res :=
  .next <| if !s.regs.enable || s.bestLaunch c != some l then s
  else match s.front.launches[l]? with
    | none => s
    | some x =>
      if ((s.unitCores c x).getD [c]).any fun c => s.savedFirst c x then s
      else match x.nextTicket (dieOf c), s.unitCores c x, s.sendMessage (72 + clIndex c) false (.pull l) with
        | some (t, rs), some cs, some s => match s.sendMessage (72 + clIndex c) true (.ticket t) with
          | none => s
          | some s =>
            let u := t / x.lrec.dealUnit
            let s := s.modLaunch l fun y => { y with
              ranges := rs, held := none
              bound := if x.lrec.ordered && (x.lrec.unitFor 4).isSome && !(y.bound.any fun z => z.1 == u) then (u, dieOf c) :: y.bound else y.bound }
            (cs.zipIdx).foldl (fun (s : State) y => s.startBlock l x (t + y.2) y.1) s
        | _, _, _ => s

/-! ### Completion (13 R370, R388; 09 R252) -/

/-- Clear a chain's id in every slice, and move the superblocks that hold its lines to LRU (09 R252). -/
def State.demote (s : State) (chain : Nat) : State :=
  if chain = 0 then s
  else s.modHomes fun h => { h with
    l2 := h.l2.map fun x => (x.1, (x.2.filter fun y => !y.chains.contains chain) ++ (x.2.filter fun y => y.chains.contains chain).map fun y =>
      { y with chains := y.chains.map fun n => if n == chain then 0 else n }) }
/-- At the end of a launch every L1 invalidates the lines its LDRO loads marked read-only (09 R247). -/
def State.kernelEnd (s : State) (l : Nat) : State :=
  (List.range s.cores.length).foldl (fun (s : State) c => s.l1Drop c fun x => x.ro && x.launch == l) s
/-- Write the signal of a child whose blocks are all done. False: it waits. -/
def State.childSignal (s : State) (l i : Nat) (x : Launch) (c : Child) : State × Bool :=
  let w := s.writeSignal [7, 7, l, i] x.queue x.ctx c.sig c.status 0
  if w.2 then (w.1.modLaunch l fun y => { y with children := upd y.children i fun c => { c with sig := 0 } }, true) else w
/-- LAUNCH_COMPLETION: the signals of a merged grid's children that are done, and, when every block is done, the release, the
chain demotion, the launch's signal, and its completion. -/
def execLaunchCompletion (l : Nat) (s : State) : Res :=
  .next <| match s.front.launches[l]? with
    | some x =>
      if x.state != .dealing || !s.regs.enable then s
      else match x.children.findIdx? fun c => c.remain == 0 && c.sig != 0 with
        | some i => match x.children[i]? with
          | some c => (s.childSignal l i x c).1
          | none => s
        | none =>
          if !x.allDealt || x.done < x.blocks then s
          else
            let d := if x.chainOn && x.lrec.chainEnd then s.demote x.lrec.chain else s
            let w := if x.children.isEmpty then
              d.writeSignal [7, 8, l] x.queue x.ctx x.lrec.sigaddr (if x.faulted then 2 else 0) (if x.child then 0 else x.seq) else (d, true)
            if w.2 then (((w.1.kernelEnd l).modLaunch l fun y => { y with state := .complete }).modFront fun f =>
              { f with cbars := f.cbars.filter fun c => c.launch != l }).mirPurge
            else w.1
    | none => s

end Sys2Proof.Machine
end

