-- ==== Sys2Proof/Machine/Karith.lean ====
section
/-! DEFINITION. The K arithmetic of the uniform sequencer (spec/14 R393). -/

namespace Sys2Proof.Machine

/-! ### K instructions (14 R393) -/

/-- The second operand: K[KB] plus the immediate. -/
def Block.kb (k : Block) (kb : Fin 128) (imm : BitVec 32) : Nat := (k.kreg kb.val + imm.signExtend 64).toNat
def Block.ka (k : Block) (n : Fin 128) : Nat := (k.kreg n.val).toNat
/-- An instruction that writes KD. -/
def State.kOp (s : State) (g : Guard) (kd : Fin 128) (f : Block → Nat) : State :=
  s.onSeq g fun b k => (s.modBlock b fun x => x.setK kd.val (BitVec.ofNat 64 (f k))).seqNext b

/-- 14 R393. -/
def execKadd (g : Guard) (kd ka kb : Fin 128) (imm : BitVec 32) (s : State) : Res := .next (s.kOp g kd fun k => k.ka ka + k.kb kb imm)
/-- 14 R393. -/
def execKsub (g : Guard) (kd ka kb : Fin 128) (imm : BitVec 32) (s : State) : Res :=
  .next (s.kOp g kd fun k => (wrap64 ((k.ka ka : Int) - k.kb kb imm)).toNat)
/-- 14 R393. -/
def execKmul (g : Guard) (kd ka kb : Fin 128) (imm : BitVec 32) (s : State) : Res := .next (s.kOp g kd fun k => k.ka ka * k.kb kb imm)
/-- 14 R393. -/
def execKand (g : Guard) (kd ka kb : Fin 128) (imm : BitVec 32) (s : State) : Res := .next (s.kOp g kd fun k => k.ka ka &&& k.kb kb imm)
/-- 14 R393. -/
def execKor (g : Guard) (kd ka kb : Fin 128) (imm : BitVec 32) (s : State) : Res := .next (s.kOp g kd fun k => k.ka ka ||| k.kb kb imm)
/-- 14 R393. -/
def execKxor (g : Guard) (kd ka kb : Fin 128) (imm : BitVec 32) (s : State) : Res := .next (s.kOp g kd fun k => k.ka ka ^^^ k.kb kb imm)
/-- 14 R393. -/
def execKshl (g : Guard) (kd ka kb : Fin 128) (imm : BitVec 32) (s : State) : Res :=
  .next (s.kOp g kd fun k => k.ka ka * 2 ^ (k.kb kb imm % 64))
/-- 14 R393. -/
def execKshr (g : Guard) (kd ka kb : Fin 128) (imm : BitVec 32) (s : State) : Res :=
  .next (s.kOp g kd fun k => k.ka ka / 2 ^ (k.kb kb imm % 64))
/-- 14 R393. -/
def execKmin (g : Guard) (kd ka kb : Fin 128) (imm : BitVec 32) (s : State) : Res :=
  .next (s.kOp g kd fun k => if sval 64 (k.kb kb imm) < sval 64 (k.ka ka) then k.kb kb imm else k.ka ka)
/-- 14 R393. -/
def execKmax (g : Guard) (kd ka kb : Fin 128) (imm : BitVec 32) (s : State) : Res :=
  .next (s.kOp g kd fun k => if sval 64 (k.ka ka) < sval 64 (k.kb kb imm) then k.kb kb imm else k.ka ka)
/-- KSET compares with K[KB] alone (14 R393). -/
def execKset (g : Guard) (kd ka kb : Fin 128) (c : Cmp) (s : State) : Res :=
  .next (s.kOp g kd fun k => b2n (cmpInt 64 c (k.ka ka) (k.ka kb)))
/-- 14 R393. -/
def execKmovi (g : Guard) (kd : Fin 128) (imm : BitVec 32) (s : State) : Res := .next (s.kOp g kd fun _ => (imm.signExtend 64).toNat)
/-- 14 R393. -/
def execKmovhi (g : Guard) (kd ka : Fin 128) (imm : BitVec 32) (s : State) : Res :=
  .next (s.kOp g kd fun k => k.ka ka % 2 ^ 32 + imm.toNat * 2 ^ 32)

end Sys2Proof.Machine
end

