-- ==== Sys2Proof/Machine/Shapes.lean ====
section
/-! DEFINITION. What each instruction word names: the operands of the vector instructions with their meanings, the K
arithmetic, and the registers that any instruction reads and writes (spec/02 R61–R83; used by the specialiser, spec/13 R372,
R373). -/

namespace Sys2Proof.Machine

/-- The operands of CVT (07 R194). -/
def cvtOp (g : Guard) (d : Dst) (a : Src) (b : Option Src) (src dst : Ty) : VOp :=
  ⟨g, (a, if src.wide then 2 else 1) :: (b.toList.map fun x => (x, 1)), [],
    .reg d (if dst.wide || (src.narrow && dst.oneReg) then 2 else 1), false, true⟩

/-- A vector instruction that acts lane by lane: its operands and its meaning (opcodes 0x01–0x32, 0x37, 0x40–0x5C). -/
def vectorOf : Instr → Option (VOp × (State → Res))
  | .iadd g d a b => some (.w1 g d [a, b], execIadd g d a b)
  | .isub g d a b => some (.w1 g d [a, b], execIsub g d a b)
  | .iaddi g d a imm => some (.w1 g d [a], execIaddi g d a imm)
  | .imul g d a b => some (.w1 g d [a, b], execImul g d a b)
  | .imulhi g d a b => some (.w1 g d [a, b], execImulhi g d a b)
  | .imulhu g d a b => some (.w1 g d [a, b], execImulhu g d a b)
  | .imad g d a b c => some (.w1 g d [a, b, c], execImad g d a b c)
  | .idiv g d a b => some (.w1 g d [a, b], execIdiv g d a b)
  | .idivu g d a b => some (.w1 g d [a, b], execIdivu g d a b)
  | .irem g d a b => some (.w1 g d [a, b], execIrem g d a b)
  | .iremu g d a b => some (.w1 g d [a, b], execIremu g d a b)
  | .imin g d a b => some (.w1 g d [a, b], execImin g d a b)
  | .imax g d a b => some (.w1 g d [a, b], execImax g d a b)
  | .iminu g d a b => some (.w1 g d [a, b], execIminu g d a b)
  | .imaxu g d a b => some (.w1 g d [a, b], execImaxu g d a b)
  | .iabs g d a => some (.w1 g d [a], execIabs g d a)
  | .and g d a b => some (.w1 g d [a, b], execAnd g d a b)
  | .or g d a b => some (.w1 g d [a, b], execOr g d a b)
  | .xor g d a b => some (.w1 g d [a, b], execXor g d a b)
  | .andn g d a b => some (.w1 g d [a, b], execAndn g d a b)
  | .andi g d a imm => some (.w1 g d [a], execAndi g d a imm)
  | .ori g d a imm => some (.w1 g d [a], execOri g d a imm)
  | .xori g d a imm => some (.w1 g d [a], execXori g d a imm)
  | .shl g d a b => some (.w1 g d [a, b], execShl g d a b)
  | .shr g d a b => some (.w1 g d [a, b], execShr g d a b)
  | .sar g d a b => some (.w1 g d [a, b], execSar g d a b)
  | .rotl g d a b => some (.w1 g d [a, b], execRotl g d a b)
  | .shli g d a n => some (.w1 g d [a], execShli g d a n)
  | .shri g d a n => some (.w1 g d [a], execShri g d a n)
  | .sari g d a n => some (.w1 g d [a], execSari g d a n)
  | .bfe g d a c => some (.w1 g d [a, c], execBfe g d a c)
  | .bfeu g d a c => some (.w1 g d [a, c], execBfeu g d a c)
  | .bfi g d a b c => some (.w1 g d [a, b, c], execBfi g d a b c)
  | .popc g d a => some (.w1 g d [a], execPopc g d a)
  | .clz g d a => some (.w1 g d [a], execClz g d a)
  | .ctz g d a => some (.w1 g d [a], execCtz g d a)
  | .brev g d a => some (.w1 g d [a], execBrev g d a)
  | .add64 g d a b => some (.to64 g d [(a, 2), (b, 2)], execAdd64 g d a b)
  | .sub64 g d a b => some (.to64 g d [(a, 2), (b, 2)], execSub64 g d a b)
  | .shl64 g d a b => some (.to64 g d [(a, 2), (b, 1)], execShl64 g d a b)
  | .shr64 g d a b sx => some (.to64 g d [(a, 2), (b, 1)], execShr64 g d a b sx)
  | .lea g d a b sh zx => some (.to64 g d [(a, 2), (b, 1)], execLea g d a b sh zx)
  | .mov g d a w => some (⟨g, [(a, movWords w)], [], .reg d (movWords w), false, false⟩, execMov g d a w)
  | .movi g d imm => some (.w1 g d [], execMovi g d imm)
  | .movhi g d a imm => some (.w1 g d [a], execMovhi g d a imm)
  | .sel g d a b p inv => some (.w1 g d [a, b], execSel g d a b p inv)
  | .isetp g p a b c => some (.toPred g p [a, b], execIsetp g p a b c)
  | .psetp g p a b o => some (⟨g, [], [a, b], .pred p.val, false, false⟩, execPsetp g p a b o)
  | .p2v g d => some (.w1 g d [], execP2v g d)
  | .v2p g a b => some (⟨g, [(a, 1), (b, 1)], [], .preds, false, false⟩, execV2p g a b)
  | .idot4 g d a b c => some (.w1 g d [a, b, c], execIdot4 g d a b c)
  | .fadd g d a b rm => some (.f2 g d a.src b.src, execFadd g d a b rm)
  | .fsub g d a b rm => some (.f2 g d a.src b.src, execFsub g d a b rm)
  | .fmul g d a b rm => some (.f2 g d a.src b.src, execFmul g d a b rm)
  | .ffma g d a b c => some (⟨g, [(a, 1), (b, 1), (c, 1)], [], .reg d 1, false, true⟩, execFfma g d a b c)
  | .fmin g d a b => some (.f2 g d a.src b.src, execFmin g d a b)
  | .fmax g d a b => some (.f2 g d a.src b.src, execFmax g d a b)
  | .fsetp g p a b c => some (⟨g, [(a.src, 1), (b.src, 1)], [], .pred p.val, false, true⟩, execFsetp g p a b c)
  | .frcp g d a => some (.f1 g d a, execFrcp g d a)
  | .frsq g d a => some (.f1 g d a, execFrsq g d a)
  | .fexp2 g d a => some (.f1 g d a, execFexp2 g d a)
  | .flog2 g d a => some (.f1 g d a, execFlog2 g d a)
  | .fsin g d a => some (.f1 g d a, execFsin g d a)
  | .fcos g d a => some (.f1 g d a, execFcos g d a)
  | .ftanh g d a => some (.f1 g d a, execFtanh g d a)
  | .fsqrt g d a rm => some (.f1 g d a, execFsqrt g d a rm)
  | .fdiv g d a b rm => some (.f2 g d a.src b.src, execFdiv g d a b rm)
  | .frnd g d a rm => some (.f1 g d a, execFrnd g d a rm)
  | .fclass g d a => some (.w1 g d [a.src], execFclass g d a)
  | .fscale g d a b rm => some (.f2 g d a.src b, execFscale g d a b rm)
  | .hadd2 g d a b bf => some (.f2 g d a.src b.src, execHadd2 g d a b bf)
  | .hsub2 g d a b bf => some (.f2 g d a.src b.src, execHsub2 g d a b bf)
  | .hmul2 g d a b bf => some (.f2 g d a.src b.src, execHmul2 g d a b bf)
  | .hfma2 g d a b c => some (⟨g, [(a, 1), (b, 1), (c, 1)], [], .reg d 1, false, true⟩, execHfma2 g d a b c)
  | .hmin2 g d a b bf => some (.f2 g d a.src b.src, execHmin2 g d a b bf)
  | .hmax2 g d a b bf => some (.f2 g d a.src b.src, execHmax2 g d a b bf)
  | .cvt g d a b src dst rm => some (cvtOp g d a b src dst, execCvt g d a b src dst rm)
  | .pack8 g d a b ovf head rm => some (⟨g, [(a, if head then 2 else 4), (b, 1)], [], .reg d 1, false, true⟩, execPack8 g d a b ovf head rm)
  | .unpack8 g d a b rm => some (⟨g, (a, 1) :: (b.toList.map fun x => (x, 1)), [], .reg d (if b.isSome then 4 else 2), false, true⟩, execUnpack8 g d a b rm)
  | .bscale g d a b => some (.f2 g d a b, execBscale g d a b)
  | _ => none

/-- K arithmetic: guard, KD, the K registers read, and its meaning (opcodes 0xC0–0xCC). -/
def karithOf : Instr → Option (Guard × Fin 128 × List Nat × (State → Res))
  | .kadd g kd ka kb imm => some (g, kd, [ka.val, kb.val], execKadd g kd ka kb imm)
  | .ksub g kd ka kb imm => some (g, kd, [ka.val, kb.val], execKsub g kd ka kb imm)
  | .kmul g kd ka kb imm => some (g, kd, [ka.val, kb.val], execKmul g kd ka kb imm)
  | .kand g kd ka kb imm => some (g, kd, [ka.val, kb.val], execKand g kd ka kb imm)
  | .kor g kd ka kb imm => some (g, kd, [ka.val, kb.val], execKor g kd ka kb imm)
  | .kxor g kd ka kb imm => some (g, kd, [ka.val, kb.val], execKxor g kd ka kb imm)
  | .kshl g kd ka kb imm => some (g, kd, [ka.val, kb.val], execKshl g kd ka kb imm)
  | .kshr g kd ka kb imm => some (g, kd, [ka.val, kb.val], execKshr g kd ka kb imm)
  | .kmin g kd ka kb imm => some (g, kd, [ka.val, kb.val], execKmin g kd ka kb imm)
  | .kmax g kd ka kb imm => some (g, kd, [ka.val, kb.val], execKmax g kd ka kb imm)
  | .kset g kd ka kb c => some (g, kd, [ka.val, kb.val], execKset g kd ka kb c)
  | .kmovi g kd imm => some (g, kd, [], execKmovi g kd imm)
  | .kmovhi g kd ka imm => some (g, kd, [ka.val], execKmovhi g kd ka imm)
  | _ => none

/-! ### Registers read and written -/

/-- A place that holds a value: a V register, a predicate, a K register. -/
inductive Loc where
  | v (n : Nat) | p (n : Nat) | k (n : Nat)
  deriving DecidableEq, Repr

/-- What an instruction touches: its guard, what it reads and writes besides, and whether its V writes land later. -/
structure Touch where
  guard  : Nat
  reads  : List Loc
  writes : List Loc
  late   : Bool := false
  deriving DecidableEq, Repr

def vLocs (n words : Nat) : List Loc := (List.range words).map fun i => .v (n + i)
def srcLocs (x : Src) (words : Nat) : List Loc :=
  match x with
  | .v n _ => vLocs n.val words
  | .k h => [.k (h.val / 2)]
  | .q _ => []
def dstLocs (d : Dst) (words : Nat) : List Loc :=
  match d with
  | .v n => vLocs n.val words
  | _ => []
def DstOp.locs : DstOp → List Loc
  | .reg d w => dstLocs d w
  | .pred n => [.p n]
  | .preds => (List.range 7).map fun i => .p (i + 1)
  | .sys _ | .none => []
def VOp.locs (o : VOp) : List Loc := o.srcs.flatMap (fun x => srcLocs x.1 x.2) ++ o.preds.map fun p => .p p.n.val
def sizeWords (z : Size) : Nat := max 1 (z.bytes / 4)
def wideSys (n : BitVec 12) : Nat := if ((sysreg n.toNat).map (·.wide)).getD false then 2 else 1
def dataLocs (x : StData) (words : Nat) : List Loc :=
  match x with
  | .v n => vLocs n.val words
  | .q _ => []
def atomTouch (g : Guard) (d : Dst) (m : AtomF) (opnds : Nat) : Touch :=
  ⟨g.val, vLocs m.addr.val 2 ++ srcLocs m.opnd (opnds * sizeWords m.size), dstLocs d (sizeWords m.size), true⟩
def addrTouch (g : Guard) (a : Fin 1536) : Touch := ⟨g.val, vLocs a.val 2, [], false⟩
def kTouch (g : Guard) (reads writes : List Nat) : Touch := ⟨g.val, reads.map .k, (writes.filter (· != 0)).map .k, false⟩

/-- The instructions that are neither vector operations nor K arithmetic; the K register that a stream's base comes from is
given by `base`. -/
def otherTouch (base : Nat → Nat) : Instr → Touch
  | .shuf g d a b _ => ⟨g.val, srcLocs a 1 ++ srcLocs b 1, dstLocs d 1, false⟩
  | .vote g d a => ⟨g.val, [.p a.n.val], (match d with
      | .all p | .any p | .uni p => [.p p.val]
      | .ballot r => dstLocs r 1), false⟩
  | .redoct g d a _ _ => ⟨g.val, srcLocs a 1, dstLocs d 1, false⟩
  | .matchL g d a w => ⟨g.val, srcLocs a (if w then 2 else 1), dstLocs d 1, false⟩
  | .ld g d m | .ldro g d m | .lds g d m => ⟨g.val, vLocs m.addr.val 2, dstLocs d (sizeWords m.size), true⟩
  | .st g x m | .sts g x m => ⟨g.val, vLocs m.addr.val 2 ++ dataLocs x (sizeWords m.size), [], false⟩
  | .atomAdd g d m | .atomMin g d m | .atomMax g d m | .atomMinu g d m | .atomMaxu g d m | .atomAnd g d m | .atomOr g d m
  | .atomXor g d m | .atomExch g d m | .atomFadd g d m | .atomFmin g d m | .atomFmax g d m => atomTouch g d m 1
  | .atomCas g d m => atomTouch g d m 2
  | .pref g a _ _ _ _ | .cctlL1line g a _ _ | .cctlL2wb g a _ _ | .cctlL2inv g a _ _ | .pwb g a _ _ _ => addrTouch g a
  | .qlen g d _ _ => ⟨g.val, [], dstLocs d 1, false⟩
  | .qtryPop g d _ p => ⟨g.val, dstLocs d 1, .p p.val :: dstLocs d 1, false⟩
  | .qtryPush g _ a p => ⟨g.val, srcLocs a 1, [.p p.val], false⟩
  | .qeos g p _ => ⟨g.val, [], [.p p.val], false⟩
  | .brx g a | .ret g a => ⟨g.val, srcLocs a 2, [], false⟩
  | .call g d _ => ⟨g.val, [], dstLocs d 2, false⟩
  | .trap g _ => ⟨g.val, vLocs 0 8, vLocs 0 8, false⟩
  | .utret g m => ⟨g.val, (match m with
      | .subst a => srcLocs a 1
      | .substW64 a => srcLocs a 2
      | _ => []), [], false⟩
  | .rdsr g d n => ⟨g.val, [], dstLocs d (wideSys n), false⟩
  | .wrsr g n a => ⟨g.val, srcLocs a (wideSys n), [], false⟩
  | .shrink g n => ⟨g.val, [], vLocs n.toNat (1536 - n.toNat), false⟩
  | .nop g | .fence g _ _ | .cctlRoinv g | .cctlL1inv g | .pbar g _ | .qclose g _ | .bra g _ | .exit g | .region g | .yield g
  | .bkpt g _ | .grow g _ | .sleep g _ => ⟨g.val, [], [], false⟩
  | .kld g kd ka _ _ _ => kTouch g [ka.val] [kd.val]
  | .kst g ks ka _ _ _ => kTouch g [ks.val, ka.val] []
  | .kloop ka _ => kTouch 0 [ka.val] []
  | .krdsr g kd _ => kTouch g [] [kd.val]
  | .talloc g _ _ koff => kTouch g [koff.val] []
  | .tload g _ _ ks kp _ _ _ | .tstore g _ ks kp _ _ _ => kTouch g [ks.val, kp.val] []
  | .astore g _ d _ _ => kTouch g (match d with
      | .rows ka kp _ => [ka.val, kp.val]
      | .tile _ => []) []
  | .aload g _ _ ka kp _ => kTouch g [ka.val, kp.val] []
  | .cpy g _ _ a b c | .cpyec g _ a b c => kTouch g [a.val, b.val, c.val] []
  | .cpya g _ _ a b c | .cpyg g _ a b c | .cpys g _ a b c => kTouch g [a.val, b.val, c.val, c.val + 1] []
  | .cpyq g _ b c => kTouch g [b.val, c.val] []
  | .cpycan g kd _ _ => kTouch g [] [kd.val]
  | .qcfg g _ ka _ _ _ => kTouch g [ka.val] []
  | .strm g _ pidx _ => kTouch g [base pidx.toNat] []
  | .launch g ka _ | .coll g ka _ => kTouch g [ka.val] []
  | .step g kd ka => kTouch g [ka.val] [kd.val]
  | .barArrive g d _ => ⟨g.val, [], dstLocs d 1, false⟩
  | .barWait g _ (.reg a _) => ⟨g.val, srcLocs a 1, [], false⟩
  | .barExpect g _ _ (some a) _ => ⟨g.val, srcLocs a 1, [], false⟩
  | .signal g (.v n) _ => ⟨g.val, vLocs n.val 3, [], false⟩
  | .signal g (.k m) _ => kTouch g [m.val, m.val + 1] []
  | .kbra g _ | .tfree g _ | .tset g _ | .mma g _ _ _ _ _ | .aalloc g _ | .afree g _ | .aclr g _ | .qrel g _ | .strmstop g _
  | .barSync g _ | .cbar g | .wait g _ _ _ _ | .barWait g _ _ | .barExpect g _ _ _ _ => kTouch g [] []
  | _ => ⟨0, [], [], false⟩
/-- What an instruction touches. SEL, P2V and V2P name predicates beside their operands (05 R142, R145). -/
def touchOf (base : Nat → Nat) (i : Instr) : Touch :=
  match vectorOf i, karithOf i with
  | some (o, _), _ => ⟨o.guard.val, o.locs ++ (match i with
      | .sel _ _ _ _ p _ => [.p p.val]
      | .p2v _ _ => DstOp.preds.locs
      | _ => []), o.dst.locs, false⟩
  | none, some (g, kd, rs, _) => kTouch g rs [kd.val]
  | none, none => otherTouch base i

/-! ### Queue operands (13 R373) -/

def srcIsQ : Src → Bool
  | .q _ => true
  | _ => false
def dstIsQ : Dst → Bool
  | .q _ => true
  | _ => false
/-- The instruction names a Q register: as an operand, or as the queue that a queue instruction works on. -/
def namesQ (i : Instr) : Bool :=
  match vectorOf i with
  | some (o, _) => o.usesQ
  | none => match i with
    | .qlen _ _ _ _ | .qtryPop _ _ _ _ | .qtryPush _ _ _ _ | .qclose _ _ | .qeos _ _ _ | .qcfg _ _ _ _ _ _ | .qrel _ _ | .cpyq _ _ _ _ => true
    | .shuf _ d a b _ => dstIsQ d || srcIsQ a || srcIsQ b
    | .vote _ (.ballot d) _ => dstIsQ d
    | .redoct _ d a _ _ | .matchL _ d a _ => dstIsQ d || srcIsQ a
    | .ld _ d _ | .ldro _ d _ | .lds _ d _ | .call _ d _ | .rdsr _ d _ | .barArrive _ d _ => dstIsQ d
    | .st _ x _ | .sts _ x _ => StData.isQ x
    | .atomAdd _ d m | .atomMin _ d m | .atomMax _ d m | .atomMinu _ d m | .atomMaxu _ d m | .atomAnd _ d m | .atomOr _ d m
    | .atomXor _ d m | .atomExch _ d m | .atomFadd _ d m | .atomFmin _ d m | .atomFmax _ d m | .atomCas _ d m => dstIsQ d || srcIsQ m.opnd
    | .brx _ a | .ret _ a | .wrsr _ _ a | .barWait _ _ (.reg a _) | .barExpect _ _ _ (some a) _ => srcIsQ a
    | .utret _ (.subst a) | .utret _ (.substW64 a) => srcIsQ a
    | _ => false

end Sys2Proof.Machine
end

