-- ==== Sys2Proof/Machine/Specialise.lean ====
section
/-! DEFINITION. The launch specialiser: which values are static, which instructions fold, loops that unroll, and the residual
streams with their clause maps and back-maps (spec/13 R372–R375, spec/15 R427; log 33). -/

namespace Sys2Proof.Machine

/-! ### A stream as clauses (02 R50–R54, R89) -/

/-- A clause of a stream: its byte offset, header and words, and its instructions; none where the check of 02 R88 fails. -/
structure Cl where
  off   : Nat
  hdr   : DWord
  words : List DWord
  ins   : Option (List Instr)
  deriving DecidableEq, Repr

def Cl.list (c : Cl) : List Instr := c.ins.getD []
def Cl.last (c : Cl) : Option Instr := c.list.getLast?
def decodeAll (ws : List DWord) : Option (List Instr) := ws.mapM fun w => match decode w with
  | .ok i => some i
  | .error _ => none
/-- Cut marked words into clauses that follow one another with no gap; `fuel` bounds their number. -/
def cutClauses (thr : Bool) : Nat → Nat → List (DWord × Bool) → Option (List Cl)
  | _, _, [] => some []
  | 0, _, _ => none
  | fuel + 1, off, (h, mark) :: rest =>
    let n := (Hdr.of h).n
    let body := rest.take n
    if !mark || body.length != n || body.any (·.2) then none
    else
      let ws := body.map (·.1)
      let ins := if (clauseFault thr (h :: ws)).isNone then decodeAll ws else none
      (cutClauses thr fuel (off + 8 * (n + 1)) (rest.drop n)).map fun cs => ⟨off, h, ws, ins⟩ :: cs
/-- The clause that starts at a byte offset. -/
def clauseAt (cs : List Cl) (off : Int) : Option Nat := cs.findIdx? fun c => decide ((c.off : Int) = off)

/-! ### Static values (13 R372) -/

/-- What is known where control stands (a stream's entry knows the static K values): static values, locations that a return may still
reach, and the folded instructions (by offset) whose values each location may hold. -/
structure Facts where
  known : List (Loc × Nat)
  pend  : List Loc
  defs  : List (Loc × Nat)
  deriving DecidableEq, Repr

def Facts.join (a b : Facts) : Facts :=
  ⟨a.known.filter fun x => b.known.contains x, (a.pend ++ b.pend).eraseDups, (a.defs ++ b.defs).eraseDups⟩
/-- Facts that say no more than others. -/
def Facts.covers (a b : Facts) : Bool :=
  a.known.all (b.known.contains ·) && b.pend.all (a.pend.contains ·) && b.defs.all (a.defs.contains ·)

/-- What the specialiser is given: the stream, the static block, the K registers a thread may take as static, and whether no V or
P register is static (13 R372). -/
structure SpecEnv where
  thr    : Bool
  sblk   : Nat
  block  : List DWord
  tk     : List (Nat × DWord)
  wild   : Bool
  unroll : Nat
  base   : Nat → Nat

/-- The static value of a location. -/
def SpecEnv.val (e : SpecEnv) (f : Facts) (l : Loc) : Option Nat :=
  match l with
  | .p 0 => some 1
  | .k 0 => some 0
  | .k n => if e.thr then (e.tk.find? fun x => x.1 == n).map fun x => x.2.toNat else (f.known.find? fun x => x.1 == l).map (·.2)
  | _ => if e.wild || f.pend.contains l then none else (f.known.find? fun x => x.1 == l).map (·.2)
/-- The static value of a guard. -/
def SpecEnv.guard (e : SpecEnv) (f : Facts) (g : Nat) : Option Bool :=
  if g = 0 then some true else (e.val f (if e.thr then .p g else .k g)).map (· != 0)

/-! ### Evaluation (13 R373, R375) -/

/-- A thread and block that hold static values, and nothing else. -/
def evalThread (vals : List (Loc × Nat)) : Thread :=
  vals.foldl (fun t x => match x.1 with
    | .v n => t.setReg n (BitVec.ofNat 32 x.2)
    | .p n => t.setP n (x.2 != 0)
    | .k _ => t) { Thread.start 0 0 0 with v := List.replicate 1536 0, status := .issued, opening := false }
def evalBlock (vals : List (Loc × Nat)) : Block :=
  vals.foldl (fun k x => match x.1 with
    | .k n => k.setK n (BitVec.ofNat 64 x.2)
    | _ => k) { Block.fresh [evalThread vals] with seq := ⟨0, 1, 2, false, [], .none, none⟩ }
/-- Run one instruction on them, in a machine that does nothing else. -/
def State.evalOn (s : State) (thr : Bool) (vals : List (Loc × Nat)) (run : State → Res) : Option Block :=
  let bd : Bundle := ⟨0, 0, [0], 0, 1, 2, false, false, true, false, 0, 0, 0, none⟩
  match run { s with blocks := [evalBlock vals], bundles := [bd], cur := if thr then .bundle 0 else .sequencer 0 } with
  | .next t => t.blocks[0]?
  | _ => none
/-- The values an instruction gives its destinations when every source is static, if it raises no flag and no fault. -/
def State.evaluate (s : State) (thr : Bool) (vals : List (Loc × Nat)) (run : State → Res) (dst : List Loc) : Option (List (Loc × Nat)) :=
  match s.evalOn thr vals run with
  | none => none
  | some k => match k.threads[0]? with
    | none => none
    | some t =>
      if k.halt.isSome || t.pend != 0 || (thr && t.status != .issued) then none
      else some (dst.map fun l => (l, match l with
        | .v n => (t.reg n).toNat
        | .p n => b2n (t.p n)
        | .k n => (k.kreg n).toNat))

/-! ### What happens to an instruction (13 R373) -/

/-- Copied; removed; made unguarded; folded with the values of its destinations; a loop of a static count. -/
inductive Fate where
  | copy | drop | always | fold (vals : List (Loc × Nat)) | loop (n : Nat)
  deriving DecidableEq, Repr

/-- A V destination beyond the 64 registers every thread has: a removal could hide REG_BOUNDS (13 R375). -/
def Loc.beyond : Loc → Bool
  | .v n => decide (64 ≤ n)
  | _ => false
/-- The value of V2P's mask (05 R145). -/
def maskHalf (e : SpecEnv) (f : Facts) : Instr → Option Nat
  | .v2p _ _ (.k h) => (e.val f (.k (h.val / 2))).map fun v => v / 2 ^ (32 * (h.val % 2)) % 2 ^ 32
  | .v2p _ _ (.v n _) => e.val f (.v n.val)
  | _ => some 0

/-- The fate of an instruction where these facts hold. -/
def State.fate (s : State) (e : SpecEnv) (f : Facts) (marked : Bool) (w : DWord) (i : Instr) : Fate :=
  let t := touchOf e.base i
  let vals := t.reads.filterMap fun l => (e.val f l).map fun v => (l, v)
  let static := t.reads.all fun l => (e.val f l).isSome
  if !marked then .copy
  else match e.guard f t.guard, vectorOf i, karithOf i with
  | some false, _, _ => if namesQ i || (e.thr && isMeetWord w) then .copy else .drop
  | some true, some (o, run), _ =>
    if o.usesQ || o.meet || !static then .copy
    else
      let dst := match o.dst, maskHalf e f i with
        | .preds, some m => DstOp.preds.locs.filter fun l => match l with
          | .p n => nbit m n
          | _ => false
        | d, _ => d.locs.filter (· != .p 0)
      match s.evaluate true vals (fun s => run s) dst with
      | some r => .fold r
      | none => .copy
  | some true, none, some (_, kd, _, run) =>
    if !static then .copy
    else match s.evaluate false vals (fun s => run s) (if kd.val = 0 then [] else [.k kd.val]) with
      | some r => .fold r
      | none => .copy
  | some true, none, none => match i with
    | .bra g _ | .kbra g _ => if g.val = 0 then .copy else .always
    | .kloop ka _ => match e.val f (.k ka.val) with
      | some n => .loop n
      | none => .copy
    | .kld _ kd ka _ _ imm => match e.val f (.k ka.val) with
      | some b =>
        let a := (BitVec.ofNat 64 b + imm.signExtend 64).toNat
        let j := (a - e.sblk) / 8
        if decide (e.sblk ≤ a) && (a - e.sblk) % 8 == 0 then
          match e.block[j]? with
          | some v => .fold (if kd.val = 0 then [] else [(.k kd.val, v.toNat)])
          | none => .copy
        else .copy
      | none => .copy
    | _ => .copy
  | none, _, _ => .copy

/-- What one instruction leaves: the facts after it, and the folded instructions whose values it reads. A loop's count is not
read by the loop's unrolled copies. -/
def SpecEnv.after (e : SpecEnv) (f : Facts) (off : Nat) (i : Instr) (x : Fate) : Facts × List Nat :=
  let t := touchOf e.base i
  match x with
  | .drop => (f, [])
  | .fold vals =>
    ({ f with
       known := (vals.filter fun y => !f.pend.contains y.1) ++ f.known.filter fun y => !(vals.any fun z => z.1 == y.1)
       defs := (vals.map fun y => (y.1, off)) ++ f.defs.filter fun y => !(vals.any fun z => z.1 == y.1) },
     if e.wild || vals.any (fun y => y.1.beyond) then [off] else [])
  | x =>
    let reads := if x == .always then [] else t.reads ++ (if t.guard = 0 then [] else [if e.thr then .p t.guard else .k t.guard])
    let must := e.guard f t.guard == some true
    let wr := fun (l : Loc) => t.writes.contains l
    let g : Facts :=
      { known := f.known.filter fun y => !wr y.1
        pend := if t.late then (f.pend ++ t.writes).eraseDups else f.pend
        defs := if must then f.defs.filter fun y => !wr y.1 else f.defs }
    let landed := match i with
      | .wait _ ld _ _ _ => must && ld.val == 0
      | _ => false
    (if landed then { g with pend := [] } else g, (f.defs.filter fun y => reads.contains y.1).map (·.2))

/-- The fates of a clause's instructions, the folded instructions it reads (with the offset of the reader), and the facts at its
end. -/
def State.runClause (s : State) (e : SpecEnv) (c : Cl) (f : Facts) : List Fate × List (Nat × Nat) × Facts :=
  let f0 := if e.thr && (Hdr.of c.hdr).ld == 0 then { f with pend := [] } else f
  (c.list.zipIdx).foldl (fun (acc : List Fate × List (Nat × Nat) × Facts) x =>
    let off := c.off + 8 * (x.2 + 1)
    let d := s.fate e acc.2.2 (nbit (Hdr.of c.hdr).smask x.2) (c.words.getD x.2 0) x.1
    let r := e.after acc.2.2 off x.1 d
    (acc.1 ++ [d], acc.2.1 ++ r.2.map fun n => (off, n), r.1)) ([], [], f0)

/-! ### Loops and paths (13 R372, R374; 14 R394) -/

/-- A counted loop: the clause of its KLOOP, the first clause after its body, how deep it is nested, and whether a branch
crosses its bounds. The body is the clauses between; its last one ends in KEND. -/
structure LoopAt where
  head : Nat
  stop : Nat
  deriving DecidableEq, Repr

/-- The PC-relative target of an instruction that has one, as a byte offset in the stream (02 R53). -/
def targetOf (c : Cl) : Instr → Option Int
  | .bra _ imm | .call _ _ imm => some (c.off + 8 * imm.toInt)
  | .kbra _ imm | .kloop _ imm => some (c.off + 8 * imm.toInt)
  | _ => none
/-- From a loop's body on, the clause whose KEND closes it. -/
def closingKend : List (Nat × Cl) → Nat → Option Nat
  | [], _ => none
  | (i, c) :: rest, depth => match c.last with
    | some (.kloop _ _) => closingKend rest (depth + 1)
    | some .kend => if depth = 0 then some i else closingKend rest (depth - 1)
    | _ => closingKend rest depth
/-- The loops whose exit is the clause after their closing KEND. -/
def loopsOf (cs : List Cl) : List LoopAt :=
  (cs.zipIdx).filterMap fun x => match x.1.last with
    | some (.kloop ka imm) => match closingKend ((cs.zipIdx).drop (x.2 + 1) |>.map fun y => (y.2, y.1)) 0 with
      | some e => if (targetOf x.1 (.kloop ka imm)).bind (clauseAt cs) == some (e + 1) then some ⟨x.2, e + 1⟩ else none
      | none => none
    | _ => none
/-- A clause lies in a loop's body. -/
def LoopAt.holds (l : LoopAt) (i : Nat) : Bool := decide (l.head < i) && decide (i < l.stop)
/-- A KBRA crosses the bounds of the loop's body (13 R374). -/
def LoopAt.crossed (l : LoopAt) (cs : List Cl) : Bool :=
  (cs.zipIdx).any fun x => match x.1.last with
    | some (.kbra g imm) => match (targetOf x.1 (.kbra g imm)).bind (clauseAt cs) with
      | some j => l.holds x.2 != l.holds j
      | none => l.holds x.2
    | _ => false
def LoopAt.depth (l : LoopAt) (ls : List LoopAt) : Nat := countp ls fun m => m.holds l.head
/-- The deepest nest that holds the loop (14 R394). -/
def LoopAt.nest (l : LoopAt) (ls : List LoopAt) : Nat :=
  ls.foldl (fun n m => if m == l || l.holds m.head then max n (m.depth ls + 1) else n) 0

/-- The clauses control may reach from the end of a clause (13 R372). -/
def succs (cs : List Cl) (ls : List LoopAt) (i : Nat) (c : Cl) (last : Option Fate) : List Nat :=
  let next := if i + 1 < cs.length then [i + 1] else []
  let aim := fun (x : Instr) => ((targetOf c x).bind (clauseAt cs)).toList
  match c.last with
  | none => []
  | some x => if last == some .drop then next else match x with
    | .bra g _ | .kbra g _ => aim x ++ (if last == some .always || g.val = 0 then [] else next)
    | .call _ _ _ => aim x ++ next
    | .kloop _ _ => next ++ aim x
    | .kend =>
      let starts := (cs.zipIdx).filterMap fun y => match y.1.last with
        | some (.kloop _ _) => some (y.2 + 1)
        | _ => none
      match ls.find? fun l => l.stop == i + 1 with
      | some l => if ls.any fun m => m.crossed cs then next ++ starts else (l.head + 1) :: next
      | none => next ++ starts
    | .exit g | .brx g _ | .ret g _ | .utret g _ => if g.val = 0 then [] else next
    | _ => next

/-- One round of the analysis: each clause that control reaches hands its facts on. -/
def State.flowRound (s : State) (e : SpecEnv) (cs : List Cl) (ls : List LoopAt) (fs : List (Option Facts)) : List (Option Facts) :=
  (cs.zipIdx).foldl (fun (fs : List (Option Facts)) x => match (fs[x.2]?).join with
    | none => fs
    | some f =>
      let r := s.runClause e x.1 f
      (succs cs ls x.2 x.1 r.1.getLast?).foldl (fun (fs : List (Option Facts)) j =>
        upd fs j fun old => match old with
          | none => some r.2.2
          | some g => some (g.join r.2.2)) fs) fs
/-- Rounds until nothing changes; nothing where `fuel` rounds do not suffice. -/
def State.flow (s : State) (e : SpecEnv) (cs : List Cl) (ls : List LoopAt) : Nat → List (Option Facts) → Option (List (Option Facts))
  | 0, _ => none
  | fuel + 1, fs =>
    let gs := s.flowRound e cs ls fs
    let same := (fs.zip gs).all fun x => match x with
      | (some a, some b) => a.covers b && b.covers a
      | (none, none) => true
      | _ => false
    if same then some fs else s.flow e cs ls fuel gs

/-! ### Residual code (13 R373, R374) -/

/-- A stream with the fates of its instructions, the readers of its folded values (by offset), and the K registers whose folded
values the other stream reads. -/
structure Plan where
  thr   : Bool
  cs    : List Cl
  ls    : List LoopAt
  fates : List (List Fate)
  reads : List (Nat × Nat)
  kread : List Nat

/-- A residual word: the offset it came from, its bits, and for a PC-relative transfer its target clause. -/
structure Item where
  off : Nat
  w   : DWord
  tgt : Option (Option Nat)

/-- The instructions that give a location its folded value (13 R373). -/
def replaceWords (x : Loc × Nat) : List DWord :=
  let enc := fun (l : List Instr) => l.filterMap encode
  match x.1 with
  | .v n =>
    let d : Fin 1536 := Fin.ofNat 1536 n
    let v := sval 32 x.2
    if -(2 ^ 27) ≤ v ∧ v < 2 ^ 27 then enc [.movi 0 (.v d) (BitVec.ofInt 28 v)]
    else enc [.movi 0 (.v d) (BitVec.ofNat 28 (x.2 % 2 ^ 16)), .movhi 0 (.v d) (.v d .ident) (BitVec.ofNat 16 (x.2 / 2 ^ 16))]
  | .p n => enc [.psetp 0 (Fin.ofNat 8 n) ⟨0, .ident⟩ ⟨0, .ident⟩ (if x.2 != 0 then .and else .xor)]
  | .k n =>
    let d : Fin 128 := Fin.ofNat 128 n
    if sval 64 x.2 = sval 32 x.2 then enc [.kmovi 0 d (BitVec.ofNat 32 x.2)]
    else enc [.kmovi 0 d (BitVec.ofNat 32 x.2), .kmovhi 0 d d (BitVec.ofNat 32 (x.2 / 2 ^ 32))]

/-- The loops that are unrolled, with their counts. -/
abbrev Unrolled := List (LoopAt × Nat)
def Unrolled.head (u : Unrolled) (i : Nat) : Option (LoopAt × Nat) := u.find? fun x => x.1.head == i
def Unrolled.stops (u : Unrolled) (i : Nat) : Bool := u.any fun x => x.1.stop == i + 1
/-- A folded instruction's value is read by an unfolded one: not by a KLOOP that is unrolled. -/
def Plan.needed (p : Plan) (u : Unrolled) (off : Nat) (vals : List (Loc × Nat)) : Bool :=
  (p.reads.any fun r => r.2 == off && !(u.any fun x => match p.cs[x.1.head]? with
    | some c => c.off + 8 * c.words.length == r.1
    | none => false)) || vals.any fun v => match v.1 with
    | .k n => p.kread.contains n
    | _ => false
/-- What is left of a clause's instructions. -/
def Plan.items (p : Plan) (u : Unrolled) (i : Nat) (c : Cl) : List Item :=
  match c.ins with
  | none => (c.words.zipIdx).map fun x => ⟨c.off + 8 * (x.2 + 1), x.1, none⟩
  | some ins =>
    let fs := p.fates.getD i []
    ((c.words.zip ins).zipIdx).flatMap fun x =>
      let off := c.off + 8 * (x.2 + 1)
      let tgt := (targetOf c x.1.2).map (clauseAt p.cs)
      let fate := fs.getD x.2 .copy
      match x.1.2 with
      | .kloop _ _ => if (u.head i).isSome then [] else [⟨off, x.1.1, tgt⟩]
      | .kend => if u.stops i then [] else [⟨off, x.1.1, tgt⟩]
      | _ => match fate with
        | .drop => []
        | .fold vals => if p.needed u off vals then (vals.flatMap replaceWords).map fun w => ⟨off, w, none⟩ else []
        | .always => [⟨off, x.1.1 &&& ~~~0x700, tgt⟩]
        | _ => [⟨off, x.1.1, tgt⟩]
/-- Lists of at most 16 items. -/
def chunks16 : Nat → List Item → List (List Item)
  | _, [] => []
  | 0, l => [l]
  | n + 1, l => l.take 16 :: chunks16 n (l.drop 16)
def Plan.parts (p : Plan) (u : Unrolled) (i : Nat) (c : Cl) : List (List Item) :=
  if c.ins.isNone then [p.items u i c] else chunks16 c.words.length (p.items u i c)
/-- The clauses a stream has with these loops unrolled. -/
def Plan.size (p : Plan) (u : Unrolled) : Nat :=
  (p.cs.zipIdx).foldl (fun n x => n + mulAll ((u.filter fun y => y.1.holds x.2).map (·.2)) * (p.parts u x.2 x.1).length) 0

/-- Choose the loops to unroll, each after the loops inside it, within the growth limit (13 R374). A loop that must stay rolled
keeps every loop around it rolled. -/
def Plan.choose (p : Plan) (limit unroll entry : Nat) : Unrolled :=
  let ls := p.ls.mergeSort fun a b => decide (a.stop ≤ b.stop)
  (ls.foldl (fun (acc : Unrolled × List LoopAt) l =>
    let count := match ((p.fates[l.head]?).bind fun (fs : List Fate) => fs.getLast?) with
      | some (.loop n) => if n ≤ unroll then some n else none
      | _ => none
    let fixed := l.crossed p.cs || decide (4 < l.nest p.ls) || l.holds entry || acc.2.any fun m => l.holds m.head
    if fixed then (acc.1, l :: acc.2)
    else match count with
      | none => acc
      | some n => if p.size ((l, n) :: acc.1) ≤ limit then ((l, n) :: acc.1, acc.2) else (acc.1, l :: acc.2)) ([], [])).1

/-- The clauses in the order of the residual stream, each with the iteration and count of the unrolled loops around it. -/
def Unrolled.order (u : Unrolled) : Nat → Nat → Nat → List (Nat × Nat) → List (Nat × List (Nat × Nat))
  | 0, _, _, _ => []
  | fuel + 1, lo, hi, ctx =>
    if hi ≤ lo then []
    else (lo, ctx) :: match u.head lo with
      | some (l, n) => ((List.range n).flatMap fun i => u.order fuel (lo + 1) l.stop (ctx ++ [(i, n)])) ++ u.order fuel l.stop hi ctx
      | none => u.order fuel (lo + 1) hi ctx
/-- The iteration number of the back-map (15 R427). -/
def iterOf (ctx : List (Nat × Nat)) : Nat := if ctx.isEmpty then 0 else 1 + ctx.foldl (fun a x => a * x.2 + x.1) 0

/-- One placed clause: the source clause and its iteration, its byte offset, and its residual clauses. -/
structure Placed where
  idx   : Nat
  ctx   : List (Nat × Nat)
  pos   : Nat
  parts : List (DWord × List Item)
/-- Headers of a clause's residual clauses: SMASK 0, the region start on the first, the yield on the last (13 R374). -/
def headersOf (c : Cl) (region : Bool) (ps : List (List Item)) : List (DWord × List Item) :=
  (ps.zipIdx).map fun x =>
    let h := c.hdr &&& ~~~(0xFFFF00000000 ||| 0x500000F)
    let h := if region && x.2 == 0 then h ||| 0x1000000 else h
    let h := if (Hdr.of c.hdr).yield && x.2 + 1 == ps.length then h ||| 0x4000000 else h
    (h ||| BitVec.ofNat 64 (x.1.length - 1), x.1)
/-- Place the clauses one after another; a region start of a dropped clause moves on. -/
def Plan.place (p : Plan) (u : Unrolled) (order : List (Nat × List (Nat × Nat))) : List Placed :=
  (order.foldl (fun (acc : List Placed × Nat × Bool) x => match p.cs[x.1]? with
    | none => acc
    | some c =>
      let region := acc.2.2 || (c.ins.isSome && (Hdr.of c.hdr).region)
      let ps := p.parts u x.1 c
      let parts := if c.ins.isNone then [(c.hdr, ps.flatten)] else headersOf c region ps
      (⟨x.1, x.2, acc.2.1, parts⟩ :: acc.1, acc.2.1 + (parts.foldl (fun n y => n + 8 * (y.2.length + 1)) 0),
        if c.ins.isSome && !ps.isEmpty then false else region)) ([], 0, false)).1.reverse
/-- A transfer's word with its displacement from the header at `pos`; a target that was no header stays out of the stream. -/
def Plan.aim (p : Plan) (u : Unrolled) (out : List Placed) (pos : Nat) (ctx : List (Nat × Nat)) (x : Item) : DWord :=
  match x.tgt with
  | none => x.w
  | some t =>
    let aim := t.bind fun j => (out.find? fun o => o.idx == j && o.ctx == ctx.take (countp u fun y => y.1.holds j)).map (·.pos)
    let d : Int := match aim with
      | some a => ((a : Int) - pos) / 8
      | none => if p.thr then -(2 ^ 27) else -(2 ^ 31)
    if p.thr then (x.w &&& 0xFFFFFFFFF) ||| ((BitVec.ofInt 28 d).setWidth 64 <<< 36)
    else (x.w &&& 0xFFFFFFFF) ||| ((BitVec.ofInt 32 d).setWidth 64 <<< 32)
/-- The residual stream of a plan. -/
def Plan.residual (p : Plan) (u : Unrolled) : Residual :=
  let out := p.place u (u.order (p.cs.length + 1) 0 p.cs.length [])
  let words := out.flatMap fun o =>
    let src := ((p.cs[o.idx]?).map (·.off)).getD 0
    (o.parts.foldl (fun (acc : List (DWord × Bool × Nat × Nat) × Nat) y =>
      (acc.1 ++ (y.1, true, src, iterOf o.ctx) :: (y.2.map fun x => (p.aim u out acc.2 o.ctx x, false, x.off, iterOf o.ctx)),
        acc.2 + 8 * (y.2.length + 1))) ([], o.pos)).1
  ⟨words.map (·.1), words.map (·.2.1), words.map (·.2.2)⟩
/-- A stream that is copied as it is. -/
def copied (ws : List (DWord × Bool)) : Residual :=
  ⟨ws.map (·.1), ws.map (·.2), (List.range ws.length).map fun i => (8 * i, 0)⟩

/-! ### The two streams (13 R372–R374) -/

/-- The words of a stream with the bits of its clause map. -/
def State.streamWords (s : State) (ctx va len map : Nat) : Option (List (DWord × Bool)) :=
  (List.range (len / 8)).mapM fun i =>
    let m := map + i / 8
    match s.peek none ctx (va + 8 * i) .fetch, s.peek none ctx (alignDown m 8) .read with
    | .ok w, .ok b => some (w, b.getLsbD (8 * (m % 8) + i % 8))
    | _, _ => none
/-- KBASE of a stream program of the object (12 R336). -/
def State.streamBase (s : State) (l : Launch) (pidx : Nat) : Nat :=
  match s.peek none l.ctx (l.lrec.code + l.hdr.soff + 16 * pidx) .read with
  | .ok o => match s.peek none l.ctx (l.lrec.code + o.toNat) .read with
    | .ok h => progKbase h.toNat
    | _ => 0
  | _ => 0
/-- A WRSR of UTVEC or UEPC, a BRX, a RET or a UTRET: no V or P register is static (13 R372). -/
def unsettles : Instr → Bool
  | .brx _ _ | .ret _ _ | .utret _ _ => true
  | .wrsr _ n _ => n == 0x031 || n == 0x032
  | _ => false
/-- Fold and lay out one stream; a stream whose clauses do not follow one another, or that would outgrow its limit, is copied. -/
def State.specialise (s : State) (e : SpecEnv) (ws : List (DWord × Bool)) (entry growth : Nat) (start : Facts)
    (kread : List Nat) : Residual × List Nat :=
  match cutClauses e.thr ws.length 0 ws with
  | none => (copied ws, List.range 128)
  | some cs =>
    let ls := if e.thr then [] else loopsOf cs
    let first := (clauseAt cs entry).getD cs.length
    let init := (List.range cs.length).map fun i => if e.wild || i == first then some start else none
    match (if e.wild then some init else s.flow e cs ls (64 * cs.length + 64) init) with
    | none => (copied ws, List.range 128)
    | some fs =>
      let runs := (cs.zip fs).map fun x => x.2.map fun f => s.runClause e x.1 f
      let p : Plan := ⟨e.thr, cs, ls, runs.map fun r => (r.map (·.1)).getD [], runs.flatMap fun r => (r.map (·.2.1)).getD [], kread⟩
      let limit := min (growth * cs.length) 65536
      if limit < p.size [] then (copied ws, List.range 128)
      else
        let used := ((cs.zip p.fates).flatMap fun x => (x.1.list.zipIdx).flatMap fun y => match x.2.getD y.2 .copy with
          | .fold _ | .drop => []
          | _ => (touchOf e.base y.1).reads.filterMap fun l => match l with
            | .k n => some n
            | _ => none).eraseDups
        (p.residual (p.choose limit e.unroll first), used)
/-- Clauses of a residual stream. -/
def Residual.clauses (r : Residual) : Nat := countp r.hdrs id
/-- The residual thread and uniform streams of a launch; nothing where its code cannot be read, or where even its copy holds more clauses
than a residual stream may, 65,536 (13 R372–R375). -/
def State.residuals (s : State) (l : Launch) : Option (Residual × Residual) :=
  match s.streamWords l.ctx (l.lrec.code + l.hdr.toff) l.hdr.tlen (l.lrec.code + l.hdr.tmap),
      s.streamWords l.ctx (l.lrec.code + l.hdr.uoff) l.hdr.ulen (l.lrec.code + l.hdr.umap) with
  | some tw, some uw =>
    let base := s.streamBase l
    let us := cutClauses false uw.length 0 uw
    let writes := ((us.getD []).flatMap fun c => c.list.flatMap fun i => (touchOf base i).writes).eraseDups
    let insT := ((cutClauses true tw.length 0 tw).getD []).flatMap Cl.list
    let env : SpecEnv :=
      { thr := true, sblk := l.lrec.sblk, block := l.statics.map (·.2), tk := l.statics.filter fun x => us.isSome && !writes.contains (.k x.1)
        wild := insT.any unsettles, unroll := l.lrec.unroll, base := base }
    let t := s.specialise env tw l.lrec.tentry l.lrec.growth ⟨[], [], []⟩ []
    let u := s.specialise { env with thr := false, wild := false } uw l.lrec.uentry l.lrec.growth
      ⟨l.statics.map fun x => (.k x.1, x.2.toNat), [], []⟩ t.2
    if t.1.clauses ≤ 65536 ∧ u.1.clauses ≤ 65536 then some (t.1, u.1) else none
  | _, _ => none

end Sys2Proof.Machine
end

