-- ==== Sys2Proof/Machine/Mirage.lean ====
section
/-! DEFINITION. Mirage: keys and lookups, builds and their insertion into the residual-code window (spec/13 R371, R375, spec/15
R425–R428). -/

namespace Sys2Proof.Machine

/-- A launch's key (15 R425). -/
def Launch.mirKey (l : Launch) : List Byte :=
  toBytes l.hdr.objid.toNat 8 ++ toBytes l.lrec.tentry 4 ++ toBytes l.lrec.uentry 4 ++ toBytes l.lrec.smaskk 16 ++
    (l.statics.flatMap fun x => toBytes x.2.toNat 8) ++ toBytes l.lrec.unroll 2 ++ toBytes l.lrec.growth 1

/-! ### Lookup (13 R371, 15 R425, R429) -/

def State.countMiss (s : State) : State := s.modMirage fun m => { m with miss := m.miss + 1 }
/-- Resolve a launch's specialisation at acceptance: it enters dealing, on residual or generic code, or waits for a build. -/
def State.resolveSpec (s : State) (l : Nat) : State :=
  match s.front.launches[l]? with
  | none => s
  | some x =>
    let mode := x.lrec.specMode
    let key := x.mirKey
    if mode = 0 then s.enterDealing l
    else if !s.mirage.enabled then s.countMiss.enterDealing l
    else match s.mirage.entries.find? fun e => e.key == key && !e.dropped with
      | some e =>
        let s := s.modMirage fun m => { m with hit := m.hit + 1, entries := m.entries.filter (fun y => y.id != e.id) ++ [e] }
        (s.modLaunch l fun y => { y with entry := some e.id }).enterDealing l
      | none =>
        let s := s.countMiss
        if s.mirage.entries.any fun e => !e.dropped && shake16 e.key == shake16 key then s.enterDealing l
        else
          let r : State × Nat := match s.mirage.builds.find? fun b => b.key == key && !b.discarded with
            | some b => (s, b.id)
            | none =>
              let (s, id) := s.newId
              (s.modMirage fun m => { m with builds := m.builds ++ [⟨id, l, key, x.hdr.objid, x.hdr.units, false⟩] }, id)
          let s := r.1.modLaunch l fun y => { y with build := some r.2 }
          if mode = 1 then s else s.enterDealing l

/-! ### Insertion (15 R426) -/

/-- Bytes an entry holds: streams, clause maps, back-maps. -/
def Residual.mapBytes (r : Residual) : List Byte :=
  let n := (r.hdrs.length + 63) / 64
  (List.range (8 * n)).map fun k => BitVec.ofNat 8 ((List.range 8).foldl (fun v j => v + 2 ^ j * b2n (r.hdrs.getD (8 * k + j) false)) 0)
def Residual.bytes (r : Residual) : List Byte :=
  (r.words.flatMap fun w => toBytes w.toNat 8) ++ r.mapBytes ++ r.back.flatMap fun b => toBytes b.1 4 ++ toBytes b.2 4
/-- The lowest place in the window with so many bytes free (log 44). -/
def State.mirPlace (s : State) (n : Nat) : Option Nat :=
  let used := s.mirage.entries.map fun e => (e.tbase, e.size)
  ((0 :: used.map fun u => u.1 + u.2).filter fun p =>
    decide (p + n ≤ s.windowSize) && used.all fun u => !overlap (p, n) u).min?
/-- Free unpinned entries in order of least recent lookup until the entry fits. -/
def State.mirRoom (s : State) (n : Nat) : Nat → State × Option Nat
  | 0 => (s, s.mirPlace n)
  | f + 1 => match s.mirPlace n with
    | some p => (s, some p)
    | none => match s.mirage.entries.find? fun e => !s.pinned e.id with
      | some e => (s.modMirage fun m => { m with entries := m.entries.filter fun x => x.id != e.id }).mirRoom n f
      | none => (s, none)
/-- The residual streams fit once every unpinned entry is freed. -/
def State.mirFits (s : State) (n : Nat) : Bool :=
  ((s.modMirage fun m => { m with entries := m.entries.filter fun e => s.pinned e.id }).mirPlace n).isSome
/-- Insert a build's result; the answer is the new entry's number. Its bytes lie in the HBM region behind the window. -/
def State.mirInsert (s : State) (b : Build) (t u : Residual) : State × Option Nat :=
  let n := t.bytes.length + u.bytes.length
  if !s.mirFits n then (s, none)
  else match s.mirRoom n s.mirage.entries.length with
    | (s, some p) =>
      let (s, id) := s.newId
      let s := s.modMirage fun m => { m with
        entries := m.entries ++ [⟨id, b.key, b.objid, b.units, t, u, p, p + t.bytes.length, n, false⟩] }
      (s.modHomes fun h => { h with mem := Memory.put h.mem (s.mirage.inBase + p) (t.bytes ++ u.bytes) }, some id)
    | (s, none) => (s, none)

/-! ### Builds (13 R371) -/

/-- The launches that take a build's residual code have it, or none; those that wait for it enter dealing, and a queue that held its
packet for one goes on. -/
def State.releaseBuild (s : State) (id : Nat) (entry : Option Nat) : State :=
  (List.range s.front.launches.length).foldl (fun (s : State) l => match s.front.launches[l]? with
    | some x =>
      if x.build != some id then s
      else
        let s := s.modLaunch l fun y => { y with build := none, entry := entry }
        if x.state == .building then
          let s := s.enterDealing l
          if x.child then s else s.packetDone x.queue
        else s
    | none => s) s
/-- SPECIALISER_BUILD: the result is inserted, unless the build was discarded, its code cannot be read, or it does not fit. -/
def execSpecialiserBuild (n : Nat) (s : State) : Res :=
  .next <| match s.mirage.builds.find? fun b => b.id == n with
    | none => s
    | some b =>
      let s' := s.modMirage fun m => { m with builds := m.builds.filter fun x => x.id != n }
      match s.front.launches[b.launch]? with
      | none => s'.releaseBuild b.id none
      | some x =>
        let r := if b.discarded then none else s.residuals x
        match r with
        | some (t, u) =>
          let i := s'.mirInsert b t u
          i.1.releaseBuild b.id i.2
        | none => s'.releaseBuild b.id none

end Sys2Proof.Machine
end

