-- ==== Sys2Proof/Machine/Front.lean ====
section
/-! DEFINITION. The queue front ends, packet by packet, and the child-launch aggregator (spec/13 R359–R365, R387, spec/15 R432,
R433). PREEMPT stands in `Preempt`. -/

namespace Sys2Proof.Machine

/-! ### Queues (13 R359–R361) -/

/-- Units of a queue's ring. -/
def Queue.units (c : Queue) : Nat := 2 ^ c.act.rsize / 64
def Queue.enabled (c : Queue) : Bool := c.cfg.ctrl.getLsbD 0
/-- The front end of a queue works: the package and the queue enabled, not halted, no reset running (17 R467). -/
def State.fronts (s : State) (q : Nat) : Bool :=
  let c := s.queue q
  s.regs.enable && c.enabled && c.stat == 0 && c.reset != 1
/-- A write of QCTRL: 0 to 1 takes over the fields and starts the queue afresh (log 42). -/
def State.queueEnable (s : State) (q : Nat) (v : BitVec 16) : State :=
  let c := s.queue q
  let cfg := { c.cfg with ctrl := v &&& 0xF }
  if c.enabled || !v.getLsbD 0 then s.modQueue q fun c => { c with cfg := cfg }
  else
    let ok := decide (12 ≤ cfg.rsize) && decide (cfg.rsize ≤ 24)
    let s := (s.asked [6, q]).modQueue q fun c => { c with
      cfg := cfg, act := cfg, rd := 0, wr := 0, expect := 0, retries := 0, retryAt := 0, due := false, fetched := none, waiting := false
      stat := 0, part := (tget s.regs.qpart q).getD 0 }
    if ok then s else s.haltQueue q 2
/-- QUEUE_ENABLE. -/
def execQueueEnable (q : Nat) (v : BitVec 16) (s : State) : Res := .next (if q < 4096 then s.queueEnable q v else s)

/-- A write of a wake register (13 R360): a value that is not older than WR lets a fetch begin. A queue that is disabled or halted takes
no wake (logs 26 and 69). -/
def State.wakeWrite (s : State) (q : Nat) (w : Word) : State :=
  let c := s.queue q
  if !c.enabled || c.stat != 0 then s
  else if c.units < (w - c.rd).toNat then s.haltQueue q 2
  else if (c.wr - c.rd).toNat ≤ (w - c.rd).toNat then s.modQueue q fun c => { c with wr := w, due := true }
  else s
/-- WAKE. -/
def execWake (q : Nat) (w : Word) (s : State) : Res := .next (if q < 4096 then s.wakeWrite q w else s)

/-! ### Fetching a packet (13 R362–R364) -/

def pktType (bs : List Byte) : Nat := rdN bs 0 1
def pktLen (bs : List Byte) : Nat := rdN bs 1 1 % 64
def pktSeq (bs : List Byte) : Nat := rdN bs 2 2
def pktArg (bs : List Byte) : Nat := rdN bs 4 4
/-- A whole packet keeps R363 (log 39). -/
def packetOk (bs : List Byte) : Bool :=
  decide (rdN bs 1 1 < 64) &&
  match pktType bs with
  | 0 => zeroIn bs 4 8
  | 1 => pktLen bs == 4 && zeroIn bs 4 64
  | 2 => pktLen bs == 0 && decide (pktArg bs < 4) && rdN bs 8 8 % 8 == 0 && zeroIn bs 32 64
  | 3 => pktLen bs == 0 && decide (pktArg bs < 2) && rdN bs 8 8 % 8 == 0 && zeroIn bs 24 64
  | 4 => pktLen bs == 0 && zeroIn bs 4 64
  | 5 => pktLen bs == 0 && decide (pktArg bs < 2) && rdN bs 8 36 < 2 ^ 288 && zeroIn bs 44 48 && rdN bs 48 8 % 4096 == 0 && rdN bs 56 8 % 4096 == 0
  | _ => false
/-- The physical address of a ring unit. -/
def Queue.unitPa (c : Queue) (i : Nat) : Nat := c.act.rbase.toNat + 64 * (i % max 1 c.units)
/-- Work on the header that stands at RD; `bad` is what a number that differs does. An incomplete packet waits for a later wake. -/
def State.fetchPacket (s : State) (q : Nat) (bad : State → State) : State :=
  let c := s.queue q
  let pa := c.unitPa c.rd.toNat
  if !s.recordOk pa 64 then s.haltQueue q 2
  else match s.readPaKeep [6, q, 10] pa 8 with
    | (s, .ok, h) =>
      if BitVec.ofNat 16 (pktSeq h) != c.expect then bad (s.asked [6, q, 10])
      else
        let n := pktLen h + 1
        if c.units < c.rd.toNat % max 1 c.units + n then s.haltQueue q 2
        else if (c.wr - c.rd).toNat < n then (s.asked [6, q, 10]).modQueue q fun c => { c with retries := 0, due := false }
        else if !s.recordOk pa (64 * n) then s.haltQueue q 2
        else match s.readPa [6, q, 11] pa (64 * n) with
          | (s, .ok, bs) => if packetOk bs then (s.asked [6, q, 10]).modQueue q fun c => { c with fetched := some bs, retries := 0, due := false } else s.haltQueue q 2
          | (s, .wait, _) => s
          | (s, _, _) => s.haltQueue q 2
    | (s, .wait, _) => s
    | (s, _, _) => s.haltQueue q 2
/-- A packet may be fetched. -/
def State.mayFetch (s : State) (q : Nat) : Bool :=
  let c := s.queue q
  s.fronts q && c.fetched.isNone && c.rd != c.wr
/-- A number that differs: the next retry is due 1 µs later. `retries` is one more than those that failed. -/
def State.seqDiffers (s : State) (q : Nat) : State :=
  s.modQueue q fun c => { c with retries := c.retries + 1, retryAt := s.clock.toNat + 1000, due := false }
/-- PACKET_FETCH, once a wake or the packet before lets it begin: a number that differs begins the retries; between two of them it changes
nothing but that this attempt is over (13 R360, R364). -/
def execPacketFetch (q : Nat) (s : State) : Res :=
  .next <| if s.mayFetch q && (s.queue q).due then s.fetchPacket q fun s =>
    if (s.queue q).retries = 0 then s.seqDiffers q else s.modQueue q fun c => { c with due := false } else s
/-- SEQ_RETRY, 1 µs after the number last differed; the 64th failed retry halts the queue. -/
def execSeqRetry (q : Nat) (s : State) : Res :=
  .next <| if s.mayFetch q && (s.queue q).retries != 0 && decide ((s.queue q).retryAt ≤ s.clock.toNat) then
    s.fetchPacket q fun s => if 64 ≤ (s.queue q).retries then s.haltQueue q 1 else s.seqDiffers q
  else s

/-- Process the fetched packet of a type. -/
def State.onPacket (s : State) (q ty : Nat) (f : Queue → List Byte → State) : State :=
  if !s.fronts q then s
  else match (s.queue q).fetched with
    | some bs => if pktType bs = ty then f (s.queue q) bs else s
    | none => s
/-- PAD. -/
def execPad (q : Nat) (s : State) : Res := .next (s.onPacket q 0 fun _ _ => s.packetDone q)

/-! ### LAUNCH (13 R365) -/

/-- A launch as it is accepted. -/
def Launch.new (r : LaunchRec) (h : CodeHdr) (st dy : List (Nat × DWord)) : Launch :=
  { queue := 0, ctx := 0, part := 0, chainOn := false, lrec := r, hdr := h, raddr := 0, seq := 0, child := false, children := []
    statics := st, dynamics := dy, epri := 0, state := .building, blocks := r.blocks, unit := r.dealUnit, ranges := [], bound := []
    done := 0, faulted := false, entry := none, held := none, build := none }
/-- Accept a launch: its number is its place in the list. -/
def State.acceptLaunch (s : State) (l : Launch) : State :=
  (s.modFront fun f => { f with launches := f.launches ++ [l] }).resolveSpec s.front.launches.length
/-- LAUNCH_PACKET. -/
def execLaunchPacket (q : Nat) (s : State) : Res :=
  .next <| s.onPacket q 1 fun c bs =>
    if c.waiting then s
    else
      let rb := bs.drop 64
      match s.checkLaunch [6, q, 0] c.act.ctx rb with
      | (s, .wait) => s
      | (s, .bad) =>
        let w := s.writeSignal [6, q, 4] q c.act.ctx (LaunchRec.of rb).sigaddr 1 (pktSeq bs)
        if w.2 then w.1.packetDone q else w.1
      | (s, .good r h st dy) =>
        let n := s.front.launches.length
        let s := s.acceptLaunch { Launch.new r h st dy with
          queue := q, ctx := c.act.ctx, part := c.part, chainOn := c.act.ctrl.getLsbD 1, raddr := c.unitPa (c.rd.toNat + 1)
          seq := pktSeq bs, epri := min r.prio c.act.prio }
        if ((s.front.launches[n]?).map (·.state)) == some .building then s.modQueue q fun c => { c with waiting := true }
        else s.packetDone q

/-! ### WAIT, WRITE, FENCE (13 R363) -/

/-- The comparison of a WAIT packet. -/
def waitHolds (code a b : Nat) : Bool :=
  match code with
  | 0 => a == b | 1 => a != b | 2 => decide (b ≤ a) | _ => decide (a < b)
/-- Read the word of a WAIT packet, and release the queue when the comparison holds. -/
def State.waitRead (s : State) (q : Nat) (c : Queue) (bs : List Byte) : State :=
  match s.readVa (cpEng [6, q, 5] c.act.ctx) (rdN bs 8 8) 8 with
  | (s, .ok, v) =>
    if waitHolds (pktArg bs) (ofBytes v &&& rdN bs 24 8) (rdN bs 16 8 &&& rdN bs 24 8) then s.packetDone q
    else s.modQueue q fun c => { c with waiting := true }
  | (s, .wait, _) => s.modQueue q fun c => { c with waiting := true }
  | (s, _, _) => s.haltQueue q 2
/-- WAIT_PACKET: the first read. -/
def execWaitPacket (q : Nat) (s : State) : Res :=
  .next <| s.onPacket q 2 fun c bs => if c.waiting then s else s.waitRead q c bs
/-- WAIT_POLL: every later one. -/
def execWaitPoll (q : Nat) (s : State) : Res :=
  .next <| s.onPacket q 2 fun c bs => if c.waiting then s.waitRead q c bs else s
/-- Every earlier launch of the ring has completed. -/
def State.earlierDone (s : State) (q : Nat) : Bool :=
  s.front.launches.all fun l => l.child || l.queue != q || l.state == .complete || l.state == .discarded
/-- WRITE_PACKET. -/
def execWritePacket (q : Nat) (s : State) : Res :=
  .next <| s.onPacket q 3 fun c bs =>
    if !s.earlierDone q then s
    else match s.writeVa (cpEng [6, q, 6] c.act.ctx) (rdN bs 8 8) ((bs.drop 16).take 8) with
      | (s, .ok) => (if pktArg bs = 1 then s.raiseQueue q else s).packetDone q
      | (s, .wait) => s
      | (s, _) => s.haltQueue q 2
/-- FENCE_PACKET. -/
def execFencePacket (q : Nat) (s : State) : Res :=
  .next <| s.onPacket q 4 fun _ _ => if s.earlierDone q then s.packetDone q else s

/-! ### The aggregator (13 R387, 15 R432, R433) -/

/-- What children must agree in: every field but DBLK, SIGADDR and the extent of the top level. -/
def LaunchRec.key (r : LaunchRec) : LaunchRec :=
  { r with dblk := 0, sigaddr := 0, levels := r.levels.dropLast ++ (r.levels.getLast?.map fun v => (0, v.2.1, v.2.2)).toList }
/-- A number of an indirection table that no open grid uses. -/
def State.freeTable (s : State) : Option Nat :=
  (List.range 64).find? fun g => !(s.front.launches.any fun l =>
    l.lrec.icount != 0 && l.lrec.itab == s.regs.aggBase.toNat + 2 ^ 17 * g && (l.state == .building || l.state == .dealing))
/-- The launch that a window's children form, from its parent. -/
def Window.launch (w : Window) (p : Launch) (itab : Nat) : Launch :=
  let r := { w.lrec with
    tentry := if w.lrec.tentry = 0xFFFFFFFF then w.hdr.tentry else w.lrec.tentry
    uentry := if w.lrec.uentry = 0xFFFFFFFF then w.hdr.uentry else w.lrec.uentry
    itab := itab, icount := w.kids.length }
  { Launch.new r w.hdr w.statics [] with
    queue := p.queue, ctx := p.ctx, part := p.part, chainOn := p.chainOn, raddr := (w.kids.map (·.raddr)).headD 0, child := true
    children := w.kids, epri := p.epri, blocks := w.kids.foldl (fun n c => n + c.nblk) 0 }
/-- The 32 bytes of an entry of an indirection table (15 R432). -/
def Child.bytes (c : Child) : List Byte :=
  toBytes c.first 4 ++ toBytes c.nblk 4 ++ toBytes c.dblk 8 ++ toBytes c.sig 8 ++ toBytes c.remain 4 ++ toBytes c.status 4
/-- A child of a window as a launch of its own, with ICOUNT 0 (15 R433). -/
def Window.alone (w : Window) (p : Launch) (c : Child) : Launch :=
  let r := { w.lrec with
    tentry := if w.lrec.tentry = 0xFFFFFFFF then w.hdr.tentry else w.lrec.tentry
    uentry := if w.lrec.uentry = 0xFFFFFFFF then w.hdr.uentry else w.lrec.uentry
    dblk := c.dblk, sigaddr := c.sig
    levels := w.lrec.levels.dropLast ++ (w.lrec.levels.getLast?.map fun v => (c.top, v.2.1, v.2.2)).toList }
  { Launch.new r w.hdr w.statics c.dyn with
    queue := p.queue, ctx := p.ctx, part := p.part, chainOn := p.chainOn, raddr := c.raddr, child := true, epri := min r.prio p.epri }
/-- Write a window's table, close the window and deal its grid; with AGGBASE 0 by now each child is dealt as its own launch (15 R433).
False: no table is free, or the table lies on another package, which has not acknowledged it. -/
def State.closeWindow (s : State) (w : Window) : State × Bool :=
  let closed := fun (s : State) => s.modFront fun f => { f with windows := f.windows.filter fun x => x.id != w.id }
  match s.front.launches[w.parent]? with
  | none => (s, false)
  | some p =>
    if s.regs.aggBase = 0 then (w.kids.foldl (fun (s : State) c => s.acceptLaunch (w.alone p c)) (closed s), true)
    else match s.freeTable with
      | none => (s, false)
      | some g =>
        let base := s.regs.aggBase.toNat + 2 ^ 17 * g
        let t := s.writePa [7, 11, w.parent, w.id] false base (w.kids.flatMap Child.bytes)
        if t.2 == .wait then (t.1, false) else ((closed t.1).acceptLaunch (w.launch p base), true)
/-- A window is over: 2 µs old (13 R387). -/
def State.windowOver (s : State) (w : Window) : Bool := decide (w.opened + 2000 ≤ s.clock.toNat)
/-- MERGE_WINDOW_CLOSE: 2 µs after it opened, or with its 4,096th child. -/
def execMergeWindowClose (n : Nat) (s : State) : Res :=
  .next <| match s.front.windows.find? fun w => w.id == n with
    | some w => if s.windowOver w || w.kids.length = 4096 then (s.closeWindow w).1 else s
    | none => s
/-- A window takes the children of a parent with a key: its records agree with it, and its parent is of the same queue (log 41). -/
def State.joins (s : State) (w : Window) (parent : Nat) (r : LaunchRec) : Bool :=
  w.lrec.key == r.key && ((s.front.launches[w.parent]?).map (·.queue)) == ((s.front.launches[parent]?).map (·.queue))
/-- Add a child to its window, opening one where it has none. False: a window must close first, and cannot yet. -/
def State.joinWindow (s : State) (parent : Nat) (r : LaunchRec) (h : CodeHdr) (st : List (Nat × DWord)) (c : Child) : State × Bool :=
  let fresh := fun (s : State) =>
    let (s, id) := s.newId
    s.modFront fun f => { f with windows := f.windows ++ [⟨id, parent, r, h, st, s.clock.toNat, [{ c with first := 0 }]⟩] }
  let after := fun (x : State × Bool) => if x.2 then (fresh x.1, true) else x
  match s.front.windows.find? fun w => s.joins w parent r with
  | some w =>
    let first := w.kids.foldl (fun n c => n + c.nblk) 0
    if decide (first + c.nblk ≤ 2 ^ 32) && decide (w.kids.length < 4096) && !s.windowOver w then
      let w' := { w with kids := w.kids ++ [{ c with first := first }] }
      let s := s.modFront fun f => { f with windows := f.windows.map fun x => if x.id == w.id then w' else x }
      if w'.kids.length = 4096 then ((s.closeWindow w').1, true) else (s, true)
    else after (s.closeWindow w)
  | none => match s.front.windows.head? with
    | some w => if 64 ≤ s.front.windows.length then after (s.closeWindow w) else (fresh s, true)
    | none => (fresh s, true)
/-- Hand a child record to the aggregator. False: it must be handed in again later (log 41). -/
def State.aggregate (s : State) (b : Nat) (k : Block) (va : Nat) (bs : List Byte) : State × Bool :=
  match s.launch? k with
  | none => (s, true)
  | some p =>
    match s.checkLaunch [1, b, 5] p.ctx bs with
    | (s, .wait) => (s, false)
    | (s, .bad) => s.writeSignal [1, b, 6] p.queue p.ctx (LaunchRec.of bs).sigaddr 1 0
    | (s, .good r h st dy) =>
      let c : Child := ⟨0, r.blocks, r.dblk, dy, (r.exts.getLast?).getD 1, r.sigaddr, r.blocks, 0, va⟩
      if s.regs.aggBase = 0 || 2 ^ 32 ≤ r.blocks then
        (s.acceptLaunch { Launch.new r h st dy with
          queue := p.queue, ctx := p.ctx, part := p.part, chainOn := p.chainOn, raddr := va, child := true, epri := min r.prio p.epri }, true)
      else s.joinWindow k.launch (LaunchRec.of bs) h st c

end Sys2Proof.Machine
end

