-- ==== Sys2Proof/Machine/Save.lean ====
section
/-! DEFINITION. The block save area: its bytes, and a block restored from them (spec/08 R237–R239, spec/12 R335, R344, R353,
spec/14 R394, R399, spec/16 R446, spec/18 R486–R488). -/

namespace Sys2Proof.Machine

/-! ### Writing an area -/

/-- Pad bytes to a length. -/
def padTo (n : Nat) (bs : List Byte) : List Byte := bs ++ List.replicate (n - bs.length) 0
/-- A barrier record (18 R487). -/
def Barrier.bytes (x : Barrier) : List Byte :=
  toBytes (x.expected.getD 0xFFFF) 2 ++ toBytes x.arrived 2 ++ toBytes (b2n x.phase) 4 ++ toBytes x.pending.toNat 8
def TileState.code : TileState → Nat
  | .unbound => 0 | .empty => 1 | .filling => 2 | .ready => 3 | .draining => 4
/-- A tile record (14 R399). -/
def Tile.bytes (t : Tile) (name : Nat) : List Byte :=
  if t.bound then padTo 16 (toBytes t.offset 4 ++ [BitVec.ofNat 8 (Ty.code t.ty), BitVec.ofNat 8 t.state.code, BitVec.ofNat 8 name]) else padTo 16 []
/-- A queue record (12 R335). -/
def Carve.bytes (c : Carve) : List Byte :=
  if !c.carved then padTo 32 []
  else padTo 16 (toBytes c.offset 4 ++ toBytes c.cap 2 ++ toBytes c.head 2 ++ toBytes c.count 2 ++
    toBytes (1 + 2 * b2n c.row + 4 * c.width + 16 * b2n c.closed + 32 * b2n (c.closed && c.count == 0)) 1) ++
    toBytes c.pushes.toNat 8 ++ toBytes c.pops.toNat 8
/-- A copy record (12 R353): at a save every command is quiesced. -/
def Copy.bytes (c : Copy) : List Byte :=
  padTo 64 ([BitVec.ofNat 8 c.op, 4, BitVec.ofNat 8 (c.bq + 16 * b2n c.baren), if c.b8 then 3 else 0] ++ toBytes c.seq 4 ++ toBytes c.src.toNat 8 ++
    toBytes c.dst.toNat 8 ++ toBytes c.desc.toNat 8 ++ toBytes c.aux.toNat 8 ++ toBytes c.done 8 ++ toBytes c.faultVa.toNat 8)
/-- A stream record (12 R344): a partial row that a LOAD stream has read is given up. -/
def Stream.bytes (x : Stream) (h : Nat) : List Byte :=
  padTo 64 (toBytes x.pidx 2 ++ [BitVec.ofNat 8 h, 4, BitVec.ofNat 8 x.tile, 0, 0, 0] ++ toBytes x.base.toNat 8 ++
    toBytes (x.done - x.buf.length) 8 ++ toBytes x.faultVa.toNat 8)
/-- A store entry of a thread record (08 R238). -/
def BufStore.bytes (x : BufStore) : List Byte :=
  toBytes x.addr 8 ++ [BitVec.ofNat 8 (Size.code x.size), BitVec.ofNat 8 (Path.code x.path), BitVec.ofNat 8 (b2n x.sts), 0, 0, 0, 0, 0] ++ toBytes x.data.toNat 16
/-- WAKE of a thread record (08 R238, 16 R446). -/
def Thread.wakeField (t : Thread) : Nat :=
  match t.status with
  | .parked (.sleep d) => d
  | .parked (.syscall (some i) _ _) => i
  | .parked (.grow n) => (n - t.regs) / 64
  | .parked (.barrier b p) => b + 16 * b2n p
  | .parked (.cbar p) => 16 * b2n p + 32
  | _ => 0
/-- Where a lane goes on that has completed the instruction at its PC while its octet parked there: the instruction after it in
the clause, or the first of the next clause (01 R42). -/
def State.pastPc (s : State) (k : Block) (pc : DWord) : DWord :=
  match s.standAt k pc with
  | some (h, _) => match s.fetchWord k true h with
    | .ok w => if pc == h + BitVec.ofNat 64 (8 * (Hdr.of w).n) then pc + 16 else pc + 8
    | _ => pc + 8
  | none => pc + 8
/-- A thread as its record gives it: a syscall whose record is not written yet stands ready at its TRAP (log 27), a lane that has
completed its instruction after it, and one that trapped in a clause it has left at its handler (log 28). -/
def State.saveView (s : State) (k : Block) (t : Thread) : Thread :=
  match t.status with
  | .parked (.syscall none _ _) => { t with pc := s.trapPc k t.pc, rpc := s.trapPc k t.pc, status := .ready false }
  | _ =>
    if s.pastClause k t then { t with pc := t.utvec + 8, rpc := t.utvec + 8, opening := false, status := .ready false }
    else if t.acted then { t with pc := s.pastPc k t.pc }
    else t
/-- A thread record (08 R238). -/
def Thread.bytes (t : Thread) (tid code : Nat) : List Byte :=
  padTo 0x80 (toBytes t.pc.toNat 8 ++ toBytes (if t.opening then t.pc else t.rpc).toNat 8 ++ toBytes t.utvec.toNat 8 ++ toBytes t.uepc.toNat 8 ++ toBytes t.uepco.toNat 8 ++
    toBytes t.wakeField 8 ++ toBytes t.flags.toNat 4 ++ toBytes t.ucause.toNat 4 ++ toBytes t.uspecit.toNat 4 ++ toBytes tid 4 ++
    toBytes t.regs 2 ++ toBytes t.udst.toNat 2 ++ [t.pred.setWidth 8 ||| 1, t.pend.setWidth 8, t.ulanes, BitVec.ofNat 8 code, BitVec.ofNat 8 t.stores.length] ++
    List.replicate 7 0 ++ toBytes t.epoch.toNat 4 ++ toBytes t.arrb.toNat 2) ++
  (t.stores.flatMap BufStore.bytes) ++ t.v.flatMap fun w => toBytes w.toNat 4

/-- The mask of mapped handles. -/
def Block.accMask (k : Block) : Nat := (List.range 16).foldl (fun n h => n + 2 ^ h * b2n (k.acc h).isSome) 0
/-- Byte 0x22: the sequencer's barrier wait (16 R446). -/
def SeqWait.field : SeqWait → Nat
  | .barrier b p => b + 16 * b2n p + 128
  | .cbar p => 16 * b2n p + 64 + 128
  | _ => 0
/-- Offsets of the ten sections (18 R486). -/
def sectionOffsets (k : Block) (keep : Bool) : List Nat :=
  let accs := if keep then 0 else 16384 * countp k.accs (·.isSome)
  [0x100, 0x140, 0x540, 0x640, 0xA40, 0xC40, 0x1440, 0x1840, 0x1840 + accs, 0x1840 + accs + k.spadBytes]
/-- The 256-byte header (08 R237, 18 R486). -/
def State.saveHeader (s : State) (k : Block) (keep : Bool) : List Byte :=
  let l := s.launch? k
  let child := ((l.map (·.child)).getD false)
  let raddr := match l with
    | some l => match (l.childOf k.ticket).bind fun i => l.children[i]? with
      | some c => c.raddr
      | none => l.raddr
    | none => 0
  padTo 0x40 (toBytes 1 4 ++ toBytes (b2n k.halt.isSome + 2 * b2n ((k.halt.map (·.debug)).getD false) + 4 * b2n k.seq.ended + 8 * b2n child) 4 ++
    toBytes k.bid.toNat 4 ++ toBytes k.threads.length 4 ++ toBytes raddr 8 ++ toBytes k.seq.stopPc.toNat 8 ++
    [BitVec.ofNat 8 k.cntCp, BitVec.ofNat 8 k.cntTl, BitVec.ofNat 8 k.seq.wait.field, BitVec.ofNat 8 (cslotOf k.core)] ++
    toBytes k.mxnan.toNat 4 ++ toBytes k.mxinf.toNat 4 ++ toBytes k.mxovf.toNat 4 ++ toBytes k.seqArr.toNat 2 ++ toBytes k.accMask 2) ++
  padTo 0xC0 (((sectionOffsets k keep).flatMap fun o => toBytes o 8) ++
    toBytes (if keep && k.accMask != 0 then s.logical k.core + 65536 * k.bank + 2 ^ 31 else 0) 4)
/-- The whole save area of a block (logs 35 and 36). -/
def State.saveBytes (s : State) (k : Block) (keep : Bool) : List Byte :=
  s.saveHeader k keep ++
  padTo 64 (k.seq.loops.flatMap fun x => toBytes x.1.toNat 8 ++ toBytes x.2.toNat 8) ++
  ((List.range 128).flatMap fun n => toBytes (k.kreg n).toNat 8) ++
  (k.bars.flatMap Barrier.bytes) ++
  ((List.range 64).flatMap fun i => (k.tile i).bytes i) ++
  (k.queues.flatMap Carve.bytes) ++
  padTo 2048 ((k.copies.mergeSort fun a b => decide (a.seq ≤ b.seq)).flatMap Copy.bytes) ++
  padTo 1024 ((List.range 16).flatMap fun h => ((k.stream h).map fun x => x.bytes h).getD []) ++
  (if keep then [] else (List.range 16).flatMap fun h => if (k.acc h).isSome then (s.accWords k h).flatMap fun w => toBytes w.toNat 4 else []) ++
  Memory.bytes k.spad 0 k.spadBytes ++
  (k.threads.zipIdx).flatMap fun x => (s.saveView k x.1).bytes x.2 (s.statusOf k x.2 (s.saveView k x.1))
/-- The lines of memory that hold a scratchpad line of a block's area, whose scratchpad lies at an offset. -/
def Block.areaLines (k : Block) (off line : Nat) : List Nat := (lines (k.saveAddr + off + 128 * line) 128).map (·.1)
/-- The lines of the area that hold a poisoned line of the scratchpad carry its poison (09 R263; log 36). -/
def State.savePoison (s : State) (k : Block) (off : Nat) : State :=
  k.spadPoison.foldl (fun (s : State) n => (k.areaLines off n).foldl (fun (s : State) a => s.markPoison (s.phys a) true) s) s
/-- The poisoned scratchpad lines of an area; those of an area on another package are as they were saved (log 36). -/
def State.savedPoison (s : State) (k : Block) (off : Nat) : List Nat :=
  match s.phys k.saveAddr with
  | .remote _ => k.spadPoison
  | _ => (List.range (k.spadBytes / 128)).filter fun n => (k.areaLines off n).any fun a => s.partPoisoned (s.placePhys a)
/-- A line of an area that holds no byte of the scratchpad is poisoned: the area cannot be read (09 R263; log 36). -/
def State.areaPoisoned (s : State) (k : Block) (off : Nat) : Bool :=
  (lines k.saveAddr k.saveLen).any fun x => s.partPoisoned (s.placePhys x.1) && !overlap (alignDown x.1 128, 128) (k.saveAddr + off, k.spadBytes)
/-- The registers a thread may have when its block is saved: a GROW that it waits on may be granted until then (04 R110; log 36). -/
def Thread.mostRegs (t : Thread) : Nat :=
  match t.status with
  | .parked (.grow n) => max n t.regs
  | _ => t.regs
/-- The bytes that a block's save area needs at the most; the next one begins at a multiple of 64. -/
def Block.areaSize (k : Block) (keep : Bool) : Nat :=
  let threads := k.threads.foldl (fun n t => n + 0x80 + 32 * t.stores.length + 4 * t.mostRegs) 0
  ((sectionOffsets k keep).getLastD 0 + threads + 63) / 64 * 64

/-! ### Reading an area -/

/-- Bytes cut into records of a length. -/
def recordsOf (bs : List Byte) (n len : Nat) : List (List Byte) := (List.range n).map fun i => (bs.drop (len * i)).take len
def Barrier.ofBytes (r : List Byte) : Barrier :=
  ⟨if rdN r 0 2 = 0xFFFF then none else some (rdN r 0 2), rdN r 2 2, rdN r 4 1 % 2 == 1, BitVec.ofNat 64 (rdN r 8 8)⟩
def Tile.ofBytes (r : List Byte) : Tile :=
  let st := [TileState.unbound, .empty, .filling, .ready, .draining].getD (rdN r 5 1) .unbound
  if st == .unbound then Tile.none else ⟨st, rdN r 0 4, (Ty.ofCode (rdN r 4 1)).getD .fp32, 0⟩
def Carve.ofBytes (r : List Byte) (tag : BitVec 4) : Carve :=
  let c := rdN r 10 1
  ⟨nbit c 0, rdN r 0 4, rdN r 4 2, rdN r 6 2, rdN r 8 2, nbit c 1, nfld c 2 2, nbit c 4, BitVec.ofNat 64 (rdN r 16 8), BitVec.ofNat 64 (rdN r 24 8), tag⟩
/-- A cluster-form address whose slot is the saved core's takes the new core's (18 R488). -/
def rebind (old new ea : Nat) : Nat := if ea / 2 ^ 20 = old then new * 2 ^ 20 + ea % 2 ^ 20 else ea
def Copy.ofBytes (c : Copy) (r : List Byte) (old new : Nat) (tag : BitVec 4) : Copy :=
  let d := CpyDesc.of (BitVec.ofNat 64 (rdN r 0x18 8))
  let adj := fun (sp n : Nat) => BitVec.ofNat 64 (if sp = 1 then rebind old new n else n)
  { c with op := rdN r 0 1, state := 1, bq := rdN r 2 1 % 16, baren := nbit (rdN r 2 1) 4, hold := none, b8 := rdN r 3 1 == 3, seq := rdN r 4 4
           src := adj d.ssp (rdN r 8 8), dst := adj d.dsp (rdN r 0x10 8), desc := BitVec.ofNat 64 (rdN r 0x18 8), aux := BitVec.ofNat 64 (rdN r 0x20 8)
           done := rdN r 0x28 8, faultVa := BitVec.ofNat 64 (rdN r 0x30 8), qtag := tag }
/-- The program a stream record names, re-read from the code object (12 R344); the one it ran where that cannot be read. -/
def State.reloadProg (s : State) (k : Block) (x : Stream) : List DWord :=
  match s.launch? k with
  | none => x.prog
  | some l =>
    let rd := fun (va : Nat) => match s.peek none l.ctx va .read with
      | .ok w => some w
      | _ => none
    match rd (l.lrec.code + l.hdr.soff + 16 * x.pidx) with
    | some off =>
      let ws := (List.range x.prog.length).map fun i => rd (l.lrec.code + off.toNat + 8 * i)
      if ws.all (·.isSome) then ws.filterMap id else x.prog
    | none => x.prog
def State.restoreStream (s : State) (k : Block) (x : Stream) (r : List Byte) (qtag gen : BitVec 4) : Stream :=
  { x with pidx := rdN r 0 2, state := 1, tile := rdN r 4 1, base := BitVec.ofNat 64 (rdN r 8 8), done := rdN r 0x10 8
           faultVa := BitVec.ofNat 64 (rdN r 0x18 8), prog := s.reloadProg k x, buf := [], qtag := qtag, gen := gen }
/-- A store entry restored: its record holds no EVICT (log 85). -/
def BufStore.ofBytes (r : List Byte) (old new : Nat) : BufStore :=
  let sts := rdN r 10 1 == 1
  { addr := if sts then rebind old new (rdN r 0 8) else rdN r 0 8, size := (Size.ofCode (rdN r 8 1)).getD .s8
    path := (Path.ofCode (rdN r 9 1)).getD .gen, sts := sts, data := BitVec.ofNat 128 (rdN r 16 16), evict := 0 }
/-- The status a record gives (08 R239): only barriers, SLEEP, syscalls and GROW are restored parked. -/
def statusOf (code wake regs : Nat) : TStatus :=
  match code % 128 with
  | 2 => .parked (if nbit wake 5 then .cbar (nbit wake 4) else .barrier (wake % 16) (nbit wake 4))
  | 4 => .parked (.sleep wake)
  | 5 => .parked (.syscall (some wake) 0 [])
  | 7 => .parked (.grow (regs + 64 * wake))
  | 9 => .exited
  | _ => .ready false
/-- A thread restored from its record (08 R238, R239). One that awaited replay runs its region again from RPC. Its extended
registers are one grant, with a new tag (04 R119, R127); the clause it enters is checked again (02 R88). Reserved bits of FLAGS, UCAUSE
and UDST are dropped (00 R15). -/
def Thread.ofBytes (t : Thread) (r : List Byte) (cycle old new : Nat) (tag : BitVec 4) : Thread :=
  let code := rdN r 0x47 1
  let regs := if code % 128 = 9 then 0 else rdN r 0x40 2
  let n := rdN r 0x48 1
  let w := fun (o : Nat) => BitVec.ofNat 32 (rdN r o 4)
  let d := fun (o : Nat) => BitVec.ofNat 64 (rdN r o 8)
  { t with
    pc := if code % 128 = 6 then d 8 else d 0, rpc := d 8, utvec := d 0x10, uepc := d 0x18, uepco := d 0x20, flags := w 0x30 &&& 0x71F, ucause := w 0x34 &&& 0x777FF, uspecit := w 0x38
    udst := BitVec.ofNat 32 (rdN r 0x42 2 % 2048), pred := BitVec.ofNat 8 (rdN r 0x44 1), pend := BitVec.ofNat 5 (rdN r 0x45 1), ulanes := BitVec.ofNat 8 (rdN r 0x46 1)
    status := statusOf code (rdN r 0x28 8) regs, intrap := nbit code 7, epoch := w 0x50, arrb := BitVec.ofNat 16 (rdN r 0x54 2)
    stores := (List.range n).map fun i => BufStore.ofBytes ((r.drop (0x80 + 32 * i)).take 32) old new
    v := (List.range regs).map fun i => BitVec.ofNat 32 (rdN r (0x80 + 32 * n + 4 * i) 4)
    cntLd := 0, cntSt := n, arrival := cycle, opening := false, region := t.region + 1, slotTag := tag, late := false, alone := false
    ralone := false, unchecked := true, held := false, acted := false, octet := false, grants := if 64 < regs then [(64, regs, t.grant)] else [], blocked := 0 }
/-- The thread records, each as long as its NSTORE and REGS say. -/
def threadRecords : List Byte → Nat → List (List Byte)
  | _, 0 => []
  | bs, n + 1 =>
    let len := 0x80 + 32 * rdN bs 0x48 1 + (if rdN bs 0x47 1 % 128 = 9 then 0 else 4 * rdN bs 0x40 2)
    bs.take len :: threadRecords (bs.drop len) n

/-- A lane that trapped in its meet clause still waits for the clause's end: it is in a trap whose instruction lies before its PC
in the same clause (07 R201; log 28). -/
def State.reheld (s : State) (k : Block) (t : Thread) : Thread :=
  match s.clauseOf k true t.pc, s.clauseOf k true t.uepc with
  | some x, some y => if t.intrap && x.1 == y.1 && decide (t.uepc.toNat < t.pc.toNat) then { t with held := true } else t
  | _, _ => t
/-- A lane that had completed the instruction at which a mate of its octet stands, when the octet was saved parked there, stands
there with it again and does not act (01 R42; log 28). -/
def State.reacted (s : State) (k : Block) (tid : Nat) (code : Nat) (t : Thread) : Thread :=
  if code % 128 != 8 then t
  else match (List.range 8).findSome? fun i => (k.threads[8 * (tid / 8) + i]?).bind fun u =>
      if u.live && u.pc != t.pc && s.pastPc k u.pc == t.pc && s.inMeet k u.pc then some u.pc else none with
    | some pc => { t with pc := pc, acted := true }
    | none => t
/-- A lane inside a meet clause, some of whose octet stand elsewhere, is one that UTRET sent there; at the clause's first word it is
one where its record says that it runs or waits on a queue there, and a mate stands elsewhere or waits for its octet. Its region began so
where it began inside a meet clause and no mate's began with it (08 R224; log 28). -/
def State.realone (s : State) (k : Block) (codes : List Nat) (tid : Nat) (t : Thread) : Thread :=
  let code := fun (i : Nat) => codes.getD i 0 % 128
  let mates := (List.range 8).filterMap fun i =>
    if i = tid % 8 then none else ((k.threads[8 * (tid / 8) + i]?).filter Thread.live).map fun u => (u, code (8 * (tid / 8) + i))
  let apart := mates.any fun u => u.1.pc != t.pc
  let alone := t.live && s.inMeet k t.pc && match s.standAt k t.pc with
    | some (_, false) => apart
    | _ => (code tid == 0 && (apart || mates.any fun u => u.2 == 8 && !u.1.acted)) || (code tid == 1 && apart)
  let inside := match s.standAt k t.rpc with
    | some (_, first) => !first && s.inMeet k t.rpc
    | none => false
  { t with alone := alone, ralone := (alone && t.rpc == t.pc) || (inside && mates.all fun u => u.1.rpc != t.rpc) }
/-- What the records leave unsaid of a restored block's lanes. -/
def State.relane (s : State) (b : Nat) (codes : List Nat) : State :=
  let each := fun (s : State) (f : Block → Nat → Thread → Thread) =>
    s.modBlock b fun k => { k with threads := k.threads.zipIdx.map fun x => f k x.2 x.1 }
  let s := each s fun k _ t => s.reheld k t
  let s := each s fun k i t => s.reacted k i (codes.getD i 0) t
  each s fun k i t => s.realone k codes i t
/-- A thread's GROW request (04 R110). -/
def Thread.asksGrow (t : Thread) : Option Nat :=
  match t.status with
  | .parked (.grow n) => some n
  | _ => none
/-- Threads restored parked on GROW ask again at the resume cycle, in TID order; the lanes of one meet clause ask as one (04 R113,
08 R239). -/
def State.requeueGrow (s : State) (b : Nat) : State :=
  match s.blocks[b]? with
  | none => s
  | some k =>
    let meet := fun (t : Thread) => !t.alone && s.inMeet k (s.trapPc k t.pc)
    let rows := (k.threads.zipIdx).filterMap fun x => x.1.asksGrow.map fun n => (x.2, n, meet x.1)
    let reqs := rows.filterMap fun x =>
      if x.2.2 then
        let oct := (rows.filter fun y => y.2.2 && sameOctet x.1 y.1).map (·.1)
        if oct.head? == some x.1 then some (GrowReq.mk s.cycle b k.ticket x.2.1 oct) else none
      else some ⟨s.cycle, b, k.ticket, x.2.1, [x.1]⟩
    (s.modCore k.core fun c => { c with growq := reqs.foldl (fun q r => insertGrow r q) c.growq }).retryGrow k.core

end Sys2Proof.Machine
end

