-- ==== Sys2Proof/Machine/Preempt.lean ====
section
/-! DEFINITION. Spatial pre-emption: the PREEMPT packet and the automatic trigger, saves, resumes, and the discard of a save
(spec/08 R235–R240, spec/13 R377, R385, R386, spec/04 R127), and the passing of time. -/

namespace Sys2Proof.Machine

/-! ### Vacating a core (08 R235, R236; 13 R385) -/

/-- The live blocks of a core. -/
def State.liveOn (s : State) (c : Nat) : List Nat :=
  (List.range s.blocks.length).filter fun b => ((s.resident? b).map (·.core)) == some c
/-- Its save area holds a saved block, or is kept for a block being saved: the extents in use in a pool. -/
def State.areas (s : State) (lo size : Nat) : List (Nat × Nat) :=
  s.blocks.filterMap fun k =>
    let on := k.place == .saved || (k.place == .live && s.vacatingAt k.core)
    if on && k.saveLen != 0 && decide (lo ≤ k.saveAddr) && decide (k.saveAddr < lo + size) then some (k.saveAddr, k.saveLen) else none
/-- The lowest place of a pool with so many bytes free and memory behind them. -/
def State.poolPlace (s : State) (lo size n : Nat) : Option Nat :=
  let used := s.areas lo size
  ((lo :: used.map fun u => u.1 + u.2).filter fun p =>
    decide (p + n ≤ lo + size) && (used.all fun u => !overlap (p, n) u) && s.recordOk p n).min?
/-- Give each of a core's blocks its place in a pool; nothing where one does not fit. -/
def State.placeSaves (s : State) (keep : Bool) (pool : Nat → Nat × Nat) : List Nat → Option State
  | [] => some s
  | b :: bs => match s.blocks[b]? with
    | some k => match s.poolPlace (pool b).1 (pool b).2 (k.areaSize keep) with
      | some p => (s.modBlock b fun k => { k with saveAddr := p, saveLen := k.areaSize keep }).placeSaves keep pool bs
      | none => none
    | none => s.placeSaves keep pool bs
/-- Stop placing blocks on a core, stop its bundles, and place its saves; nothing where they do not fit their pools. -/
def State.vacate (s : State) (c : Nat) (keep : Bool) (pool : Nat → Nat × Nat) : Option State :=
  let bs := s.liveOn c
  let s := bs.foldl (fun (s : State) b => s.stopBundles b) s
  (s.modCore c fun k => { k with vacating := true }).placeSaves keep pool bs
/-- Vacate cores in order while their saves fit; the answer names those taken. -/
def State.vacateAll (s : State) (keep : Bool) (pool : Nat → Nat × Nat) : List Nat → State × List Nat
  | [] => (s, [])
  | c :: cs => match s.vacate c keep pool with
    | some s => let r := s.vacateAll keep pool cs; (r.1, c :: r.2)
    | none => (s, [])
/-- Tell the leaves of cores to vacate them; nothing while a link has no permit (13 R376). -/
def State.tellLeaves (s : State) (keep : Bool) (cs : List Nat) : Option State :=
  s.sendAll true (cs.map fun c => (clIndex c, .vacate c keep))
/-- PREEMPT_PACKET: the masked cores of the partition, in ascending logical order; the packet is done with the last save. -/
def execPreemptPacket (q : Nat) (s : State) : Res :=
  .next <| s.onPacket q 5 fun c bs =>
    if c.waiting then s.finishVacates
    else
      let mask := rdN bs 8 36
      let cores := (((List.range s.regs.ltab.length).filter (nbit mask)).map fun i => s.regs.ltab.getD i 0).filter fun x =>
        s.regs.clpart.getD (clIndex x) 0 == c.part && decide (x < s.cores.length) && !s.vacatingAt x
      let keep := pktArg bs == 1
      let r := s.vacateAll keep (fun _ => (rdN bs 48 8, rdN bs 56 8)) cores
      match r.1.tellLeaves keep r.2 with
      | some t =>
        let t := t.modFront fun f => { f with vacates := f.vacates ++ [⟨some q, r.2, rdN bs 48 8, rdN bs 56 8, 0, keep⟩] }
        (t.modQueue q fun c => { c with waiting := true }).finishVacates
      | none => s

/-! ### The automatic trigger (13 R385, R386) -/

/-- Tickets that have not been handed out. -/
def Launch.undealt (l : Launch) : Nat := l.ranges.foldl (fun n r => r.foldl (fun n x => n + (x.2 - x.1)) n) 0
/-- Blocks of a launch that an empty core takes. -/
def State.perCore (s : State) (c : Nat) (l : Launch) : Nat :=
  let r := l.lrec
  let cap := fun (n d : Nat) => if d = 0 then 4096 else n / d
  if (r.unitFor 3).isSome then 1
  else max 1 (min (min (cap 4096 r.threads) (cap 4096 r.chunks)) (min (min (cap 15 (r.spad / 64)) (cap 16 r.maxacc)) (min 32 (s.power.limit.getD (clIndex c) 32))))
/-- Every block of a core belongs to a launch of lower priority whose queue allows it to be pre-empted. -/
def State.eligible (s : State) (c : Nat) (l : Launch) : Bool :=
  s.coreOpen c && s.power.pool.getD (clIndex c) 0 == l.lrec.opclass && s.regs.clpart.getD (clIndex c) 0 == l.part && !(s.liveOn c).isEmpty &&
  (s.liveOn c).all fun b => match s.blocks[b]? with
    | some k => decide (k.epri < l.epri) && (s.queue (s.queueOf k)).act.ctrl.getLsbD 3
    | none => true
/-- The order in which eligible cores are chosen: victim priority, most recent start, higher logical core. -/
def State.victimKey (s : State) (c : Nat) : Nat × Nat × Nat :=
  let ks := (s.liveOn c).filterMap fun b => s.blocks[b]?
  (ks.foldl (fun n k => max n k.epri) 0, ks.foldl (fun n k => max n k.startCycle) 0, s.logical c)
def victimBefore (a b : Nat × Nat × Nat) : Bool :=
  decide (a.1 < b.1) || (a.1 == b.1 && (decide (b.2.1 < a.2.1) || (a.2.1 == b.2.1 && decide (b.2.2 ≤ a.2.2))))
/-- The save pool of a block's queue. -/
def State.queuePool (s : State) (b : Nat) : Nat × Nat :=
  match s.blocks[b]? with
  | some k => let q := s.queue (s.queueOf k); (q.act.saveBase.toNat, q.act.saveSize.toNat)
  | none => (0, 0)
/-- Vacate up to `n` cores in order, passing over those whose saves have no room. -/
def State.vacateSome (s : State) : Nat → List Nat → State × List Nat
  | 0, _ => (s, [])
  | _, [] => (s, [])
  | n + 1, c :: cs => match s.vacate c false s.queuePool with
    | some s => let r := s.vacateSome n cs; (r.1, c :: r.2)
    | none => s.vacateSome (n + 1) cs
/-- AUTO_PREEMPT: a ticket whose block has fitted no core for PDELAY µs makes room. -/
def execAutoPreempt (l : Nat) (s : State) : Res :=
  .next <| match s.front.launches[l]? with
    | some x =>
      let delay := (s.queue x.queue).act.pdelay.toNat
      match x.held with
      | some t =>
        if delay = 0 || s.clock.toNat < t + 1000 * delay || x.state != .dealing then s
        else
          let cs := ((List.range 288).filter fun c => s.eligible c x).mergeSort fun a b => victimBefore (s.victimKey a) (s.victimKey b)
          let per := s.perCore (cs.headD 0) x
          let r := s.vacateSome ((x.undealt + per - 1) / per) cs
          match r.1.tellLeaves false r.2 with
          | some t => (t.modLaunch l fun y => { y with held := none }).modFront fun f =>
              if r.2.isEmpty then f else { f with vacates := f.vacates ++ [⟨none, r.2, 0, 0, 0, false⟩] }
          | none => s
      | none => s
    | none => s

/-- A ticket of the launch waits and its block fits no core. -/
def State.ticketWaits (s : State) (l : Nat) (x : Launch) : Bool :=
  x.state == .dealing && !s.queueHolds l x && decide (0 < x.undealt) && s.regs.enable && !((List.range 288).any fun c => (s.unitCores c x).isSome)
/-- Watch the tickets as time passes: since when each has fitted no core. -/
def State.watchTickets (s : State) : State :=
  s.modFront fun f => { f with launches := (f.launches.zipIdx).map fun x => { x.1 with
    held := if x.1.state == .dealing && s.ticketWaits x.2 x.1 then some (x.1.held.getD s.clock.toNat) else none } }
/-- The passing of time: the conditions watched hold from its start (log 70). -/
def State.passTime (s : State) (cycles counts : Nat) : State :=
  let s := s.watchQueues.watchTickets
  { s with cycle := s.cycle + cycles, clock := s.clock + BitVec.ofNat 64 counts }

/-! ### Saves (08 R236) -/

/-- The command that vacates a core. -/
def State.vacateOf (s : State) (c : Nat) : Option Vacate := s.front.vacates.find? fun v => v.cores.contains c
/-- The block's quiesce has ended. -/
def State.quiesced (s : State) (b : Nat) (k : Block) : Bool :=
  s.drained b && k.colls.isEmpty && k.streams.all (fun x => match x with
    | some x => x.dir != 1 || x.buf.isEmpty
    | none => true) &&
  (match k.halt with
    | some h => h.debug && h.recorded
    | none => true)
/-- PREEMPT_SAVE: the save area is written, the allocations are freed, and the core is reported with its last save (13 R376). -/
def execPreemptSave (b : Nat) (s : State) : Res :=
  .next <| match s.resident? b with
    | none => s
    | some k => match s.vacateOf k.core with
      | none => s
      | some v =>
        let s := s.stopBundles b
        let k := (s.blocks[b]?).getD k
        if !s.quiesced b k || 16 ≤ (s.permits (clIndex k.core)).2 then s
        else
          let keep := v.keep && k.accMask != 0
          let w := s.writePa [9, b] false k.saveAddr (s.saveBytes k keep)
          match w.2 with
          | .ok =>
            let s := ((w.1.savePoison k ((sectionOffsets k keep).getD 8 0)).freeBlock b .saved keep).modBlock b fun x => { x with
              streams := k.streams, copies := k.copies, accs := if keep then k.accs else x.accs, saveLen := k.areaSize keep, stepWait := none }
            ((s.sendMessage (clIndex k.core) false (.saved b)).getD s).finishVacates
          | _ => w.1

/-! ### Resume (08 R239) -/

/-- Map a restored handle to a free tile of its bank. -/
def State.restoreAcc (s : State) (b h : Nat) (ws : List Word) : State :=
  match s.blocks[b]? with
  | some k => match s.bank? k with
    | some bank => match bank.tiles.findIdx? fun t => t.owner.isNone with
      | some i =>
        let tag := ((bank.tiles[i]?).map (·.tag)).getD 0
        (s.modAccTile k i fun t => { t with owner := some (b, h), words := ws }).modBlock b fun k => { k with accs := k.accs.set h (some (i, tag)) }
      | none => s
    | none => s
  | none => s
/-- The sequencer restored from the header's PC and wait (18 R486, 16 R446). -/
def State.restoreSeq (s : State) (k : Block) (bs : List Byte) : Seq :=
  let pc := BitVec.ofNat 64 (rdN bs 0x18 8)
  let f := rdN bs 0x22 1
  let wait : SeqWait := if !nbit f 7 then .none else if nbit f 6 then .cbar (nbit f 4) else .barrier (f % 16) (nbit f 4)
  let loops := ((recordsOf (bs.drop 0x100) 4 16).map fun r => (BitVec.ofNat 64 (rdN r 0 8), BitVec.ofNat 64 (rdN r 8 8))).filter fun x => x.1 != 0
  if nbit (rdN bs 4 4) 2 then Seq.idle
  else match s.clauseOf k false pc with
    | some x => if pc = x.1 + 8 then ⟨x.1, 0, 0, false, loops, wait, none⟩ else ⟨x.1, (pc.toNat - x.1.toNat) / 8, x.2, false, loops, wait, none⟩
    | none => ⟨pc - 8, 0, 0, false, loops, wait, none⟩
/-- Every section of the area restored onto the block. -/
def State.restoreBlock (s : State) (b : Nat) (k : Block) (bs : List Byte) (tags : List (BitVec 4)) (c : Nat) : State :=
  let old := rdN bs 0x23 1 % 4
  let new := cslotOf c
  let off := fun (i : Nat) => rdN bs (0x40 + 8 * i) 8
  let sec := fun (i : Nat) => bs.drop (off i)
  let gen := tags.headD 0
  let queues := (recordsOf (sec 4) 16 32).zipIdx.map fun x => Carve.ofBytes x.1 (s.carveTag c k.rslot x.2)
  let qtag := fun (q : Nat) => ((queues[q]?).map (·.tag)).getD 0
  let recs := threadRecords (sec 9) k.threads.length
  let k' : Block := { k with
    core := c, place := .live, gen := gen
    seq := s.restoreSeq k bs, cntCp := rdN bs 0x20 1, cntTl := rdN bs 0x21 1
    mxnan := BitVec.ofNat 32 (rdN bs 0x24 4), mxinf := BitVec.ofNat 32 (rdN bs 0x28 4), mxovf := BitVec.ofNat 32 (rdN bs 0x2C 4)
    seqArr := BitVec.ofNat 16 (rdN bs 0x30 2)
    k := (recordsOf (sec 1) 128 8).map fun r => BitVec.ofNat 64 (rdN r 0 8)
    bars := (recordsOf (sec 2) 16 16).map Barrier.ofBytes
    tiles := (recordsOf (sec 3) 64 16).map Tile.ofBytes
    queues := queues
    copies := ((recordsOf (sec 5) k.copies.length 64).zip (k.copies.mergeSort fun a b => decide (a.seq ≤ b.seq))).map fun x =>
      x.2.ofBytes x.1 old new (qtag (rdN x.1 2 1 % 16))
    streams := (k.streams.zipIdx).map fun x => x.1.bind fun y =>
      ((recordsOf (sec 6) 16 64).find? fun r => rdN r 3 1 != 0 && rdN r 2 1 == x.2).map fun r => s.restoreStream k y r (qtag y.q) gen
    spad := Memory.put [] 0 ((sec 8).take k.spadBytes), spadPoison := s.savedPoison k (off 8)
    threads := ((k.threads.zip recs).zip tags).map fun x => x.1.1.ofBytes x.1.2 s.cycle old new x.2
    queueDeadSince := none, stepWait := none, saveAddr := 0, saveLen := 0 }
  let s := (s.modBlock b fun _ => k').relane b (recs.map fun r => rdN r 0x47 1)
  let hs := (List.range 16).filter (nbit (rdN bs 0x32 2))
  if k.kept then s.modBlock b fun k => { k with kept := false }
  else ((hs.zip (recordsOf (sec 7) hs.length 16384)).foldl (fun (s : State) x =>
    s.restoreAcc b x.1 ((recordsOf x.2 4096 4).map fun r => BitVec.ofNat 32 (rdN r 0 4))) s)
/-- A launch of higher effective priority may take the core: it goes first (13 R377, R386). -/
def State.outranked (s : State) (c : Nat) (k : Block) : Bool :=
  ((s.bestLaunch c).bind fun l => s.front.launches[l]?).any fun l => decide (k.epri < l.epri)
/-- BLOCK_RESUME: a saved block takes a core that fits it, with fresh allocations and new tags, and is restored from its area. On
another core than before, no generic load finds a line that its L1 holds, so that a thread reads its own writes (11 R298; log 37). -/
def execBlockResume (n c : Nat) (s : State) : Res :=
  .next <| if !s.regs.enable || !s.fitsSaved c n then s
  else match s.blocks[n]? with
    | none => s
    | some k => if s.outranked c k then s else match s.launch? k with
      | none => s
      | some l => match s.farCode k true with
      | some ea => s.askWalk ea
      | none =>
        let r := s.readPhys { devEng [9, n] with raw := true } k.saveAddr k.saveLen
        match r.2.1 with
        | .ok => if s.areaPoisoned k (rdN r.2.2 (0x40 + 8 * 8) 8) then s else
          let s := r.1.asked [9, n]
          let bank := if k.kept then k.bank else (s.bankFor c l.part l.ctx l.lrec.maxacc).getD 0
          let slots := s.freeSlots c k.threads.length
          let tags := slots.map fun i => (tget (((s.cores[c]?).map (·.slotTags)).getD []) i).getD 0
          let units := s.freeUnits c (l.lrec.spad / 64)
          let s' := s.allocate c l (k.savedChunks + l.lrec.reserve) units bank
          let s' := if k.core == c then s' else s'.l1Stale c fun _ => true
          let k := { k with bank := bank, units := units, slots := slots, rslot := s.freeRslot c, reserve := l.lrec.reserve, core := c }
          (((s'.restoreBlock n k r.2.2 tags c).requeueGrow n).cbarDue n)
        | _ => r.1

/-- SAVE_DISCARD: the tiles kept for a saved block are freed and its bank unbound (08 R240; log 38). -/
def execSaveDiscard (n : Nat) (s : State) : Res :=
  .next <| match s.blocks[n]? with
    | some k => if k.place == .saved then ((s.freeAccs n).modBlock n fun k => { k with place := .discarded }).leaveBank n else s
    | none => s

end Sys2Proof.Machine
end

