-- ==== Sys2Proof/Machine/Reset.lean ====
section
/-! DEFINITION. Resets: of a queue, of a function, of the package; power loss; enumeration; and the package enable
(spec/12 R355, spec/15 R431, spec/17 R467, R472, R480, R481, spec/09 R241, R256, spec/11 R314, spec/16 R457). -/

namespace Sys2Proof.Machine

/-! ### Queue-level reset (12 R355) -/

/-- The block's launch belongs to the queue. -/
def State.ofQueue (s : State) (q : Nat) (k : Block) : Bool := ((s.launch? k).map (·.queue)) == some q
/-- The command processor's agents that work for a queue: its packets, its launches' tables and signals, its blocks' syscall records
(`who` of a remote request). -/
def State.whoQueue (s : State) (q : Nat) (w : List Nat) : Bool :=
  let mine := fun (l : Nat) => ((s.front.launches[l]?).map (·.queue)) == some q
  match w with
  | 6 :: x :: _ => x == q
  | 7 :: x :: y :: _ =>
    if x = 6 || x = 7 || x = 8 || x = 11 then mine y
    else x == 4 && ((s.blocks[y]?).map fun k => mine k.launch) == some true
  | _ => false
/-- A packet that changes memory. -/
def isWrite : LinkPacket → Bool
  | .write _ _ _ _ _ | .atomic _ _ _ _ _ _ _ _ | .pwb _ _ _ _ _ => true
  | _ => false
/-- A write that some agent sent to another package has not been acknowledged. -/
def State.farWrite (s : State) (who : List Nat → Bool) : Bool :=
  s.homes.remotes.any fun r => who r.who && isWrite r.packet && r.answer.isNone && !r.lost
/-- A write of a block's threads or engines has not been performed at its home. -/
def State.writesOut (s : State) (b : Nat) : Bool :=
  (s.homes.reqs.any fun r => r.blk == b && match r.op with
    | .store | .atomic _ | .pwb _ => true
    | _ => false) || s.farWrite (whoOf b)
/-- The collective engine gives up a block's ranks (16 R450). -/
def State.abandon (s : State) (b : Nat) : State :=
  { s with coll := { s.coll with joins := s.coll.joins.filter fun j => !((j.owner.map (·.1)) == some b && !j.fin) } }
/-- A resident block of a queue being reset is halted as by a fatal halt, and no record will be written. -/
def State.resetBlock (s : State) (b : Nat) : State :=
  let s := ((((s.abortAll b).stopBundles b).dropMmas b).abandon b)
  s.modBlock b fun k => { k with
    halt := some ⟨0, false, 0, none, 0, 0, 0, s.clock, s.cycle, true, true⟩
    streams := k.streams.map fun _ => none, copies := [], xfers := [], colls := [], stepWait := none }
/-- A saved block of a queue being reset is discarded. -/
def State.discardSaved (s : State) (b : Nat) : State :=
  ((s.freeAccs b).modBlock b fun k => { k with place := .discarded }).leaveBank b
/-- Start a queue's reset: steps 1 to 3 (log 60). -/
def State.queueReset (s : State) (q : Nat) : State :=
  if (s.queue q).reset = 1 then s
  else
    let mine := fun (l : Nat) => ((s.front.launches[l]?).map (·.queue)) == some q
    let s := s.modQueue q fun c => { c with reset := 1, fetched := none, waiting := false, retries := 0, due := false }
    let s := s.modFront fun f => { f with
      launches := f.launches.map fun l => if l.queue == q && (l.state == .building || l.state == .dealing) then { l with state := .discarded } else l
      windows := f.windows.filter fun w => !mine w.parent
      vacates := f.vacates.map fun v => if v.queue == some q then { v with queue := none } else v }
    (List.range s.blocks.length).foldl (fun (s : State) b => match s.blocks[b]? with
      | some k => if !s.ofQueue q k then s else match k.place with
        | .live => s.resetBlock b
        | .saved => s.discardSaved b
        | _ => s
      | none => s) s
/-- QUEUE_RESET. -/
def execQueueReset (q : Nat) (s : State) : Res := .next (if q < 4096 then s.queueReset q else s)
/-- The live blocks of a queue. -/
def State.liveOf (s : State) (q : Nat) : List Nat :=
  (List.range s.blocks.length).filter fun b => ((s.resident? b).map (s.ofQueue q)) == some true
/-- The block's writes have ended, and a started MMA of it has retired. -/
def State.resetDone (s : State) (b : Nat) : Bool :=
  !s.writesOut b && match s.blocks[b]? with
  | some k => !(((s.cores[k.core]?).map fun c => c.mmas.any fun m => m.blk == b).getD false)
  | none => true
/-- The read-only lines of the launches that a reset has discarded (09 R247). -/
def State.discardedEnd (s : State) (q : Nat) : State :=
  (s.front.launches.zipIdx).foldl (fun (s : State) x => if x.1.queue == q && x.1.state == .discarded then s.kernelEnd x.2 else s) s
/-- QUEUE_RESET_COMPLETE: steps 4 and 5, once no write of the queue's work is on its way (11 R311). -/
def execQueueResetComplete (q : Nat) (s : State) : Res :=
  .next <| if (s.queue q).reset != 1 || !(s.liveOf q).all s.resetDone || s.farWrite (s.whoQueue q) || (s.liveOf q).any (fun b => s.asking [7, 4, b]) then s
  else
    let bs := s.liveOf q
    let s := (s.discardedEnd q).modHomes fun h => { h with remotes := h.remotes.filter fun r => !s.whoQueue q r.who }
    let s := bs.foldl (fun (s : State) b => (s.freeBlock b .discarded false).modHomes fun h => { h with
      remotes := h.remotes.filter fun r => !whoOf b r.who }) s
    let s := s.modFront fun f => { f with cbars := f.cbars.filter fun c => ((f.launches[c.launch]?).map (·.queue)) != some q }
    (((s.modQueue q fun c => { c with cfg := { c.cfg with ctrl := c.cfg.ctrl &&& 0xFFFE }, reset := 2 }).raiseQueue q).mirPurge).finishVacates

/-! ### Function level resets (17 R472) -/

/-- The partition a queue belongs to: the one in force while it is enabled, else the one it will take. -/
def State.queuePart (s : State) (q : Nat) : Nat := if (s.queue q).enabled then (s.queue q).part else (tget s.regs.qpart q).getD 0
/-- Clear a function's MSI-X table. -/
def State.clearMsix (s : State) (fn : Nat) : State :=
  s.modRegs fun r => { r with msix := r.msix.filter fun v => decide (v.1 < msixRow fn 0) || decide (msixRow fn 0 + msixRows fn ≤ v.1) }
/-- FLR_VIRTUAL_FUNCTION. -/
def execFlrVirtualFunction (p : Nat) (s : State) : Res :=
  .next <| if p = 0 || 8 < p then s
  else ((List.range 4096).foldl (fun (s : State) q => if s.queuePart q = p then s.queueReset q else s) s).clearMsix p
/-- FLR_PHYSICAL_FUNCTION: the same for every queue of the package, and ENABLE is cleared. -/
def execFlrPhysicalFunction (s : State) : Res :=
  .next <| (((List.range 4096).foldl (fun (s : State) q => s.queueReset q) s).clearMsix 0).modRegs fun r => { r with enable := false }

/-! ### Package reset and power loss (17 R472, R480, R481; 15 R431; 09 R241, R256) -/

/-- Enumeration: the harvest map is the fused map without the deconfigured cores; below 224 cores the package is retired and
enumerates none (15 R431, 00 R2). -/
def enumerate (fuse dcfg : List Bool) (r : Regs) : Regs :=
  let map := (List.range 288).map fun i => fuse.getD i false && !dcfg.getD i false
  let on := (List.range 288).filter fun i => map.getD i false
  if on.length < 224 then { r with harv := List.replicate 288 false, lcount := 0, ltab := [] }
  else { r with harv := map, lcount := on.length, ltab := on }
/-- The package as a reset finds it: the SCM media, the fuses and what is kept in non-volatile storage stay; everything else is as
after reset. `boot` is BOOTSTAT: while it is BOOTING nothing has been enumerated (17 R508). -/
def State.restart (s : State) (boot : Word) : State :=
  let d := s.drainAll
  let r := { Regs.reset with bootstat := boot, badpages := s.regs.badpages, rev := s.regs.rev }
  { State.reset with
    agenda := s.agenda, fresh := s.fresh, out := s.out, fuse := s.fuse
    homes := { Homes.reset with
      mem := d.homes.media, media := d.homes.media, poison := d.homes.mediaPoison, mediaPoison := d.homes.mediaPoison
      gtags := d.homes.gtags, nextId := d.homes.nextId }
    ageing := { Ageing.reset with rows := s.ageing.rows.map fun r => (0, r.2.1, r.2.2), dcfgmap := s.ageing.dcfgmap }
    boot := s.boot
    regs := if boot = 0 then { r with harv := List.replicate 288 false, lcount := 0, ltab := [] } else enumerate s.fuse s.ageing.dcfgmap r }
/-- The boot ROM takes an image: its key is the fused one's, its version no older than the counter allows, and its signature checks
(17 R481; log 97). -/
def Boot.verifies (b : Boot) (i : Image) : Bool :=
  shake32 i.key == b.keyHash && decide (b.floor ≤ i.version) && Config.mldsaVerify i.key (toBytes i.version 8 ++ i.body) i.sig
/-- CONVENTIONAL_RESET: package reset, with the images of the security processor, the power controller and Trelwester as the boot ROM
finds them. -/
def execConventionalReset (images : Images) (s : State) : Res :=
  let is := [images.security, images.power, images.dealer]
  .next { s.restart (if is.all s.boot.verifies then 1 else 2) with boot := { s.boot with images := is } }
/-- POWER_LOSS: the Caravan queues drain on the hold-up charge, and all that is volatile is lost; the package stays down, as
BOOTING, until the reset after power returns. -/
def execPowerLoss (s : State) : Res := .next (s.restart 0)

/-- While every clock is stopped only the Caravan queues drain; while the boot has not succeeded only the host link answers; a
conventional reset ends either (17 R477, R481). -/
def State.allows (s : State) (i : Instr) : Bool :=
  match i with
  | .conventionalReset _ | .powerLoss => true
  | .caravanDrain _ _ => s.regs.bootstat == 1
  | .hostAccess _ | .registerWrite _ _ _ => !s.power.stopped
  | _ => !s.power.stopped && s.regs.bootstat == 1

/-! ### PKGCTL (17 R467) -/

/-- A write of PKGCTL: HBMMODE is taken until the first enable latches it. -/
def State.packageEnable (s : State) (v : Word) : State :=
  s.modRegs fun r =>
    let mode := if r.hbmLatched.isSome then r.hbmmode else v.getLsbD 1
    { r with
      enable := v.getLsbD 0, hbmmode := mode
      hbmLatched := if v.getLsbD 0 && !r.enable && r.hbmLatched.isNone then some mode else r.hbmLatched }
/-- PACKAGE_ENABLE. -/
def execPackageEnable (v : Word) (s : State) : Res := .next (s.packageEnable v)

end Sys2Proof.Machine
end

