-- ==== Sys2Proof/Machine/Power.lean ====
section
/-! DEFINITION. The power controller, the hardware limits beneath it, cluster sleep, pools and partitions, ageing and
deconfiguration (spec/17 R471, R475–R480, spec/13 R389, R390, spec/15 R435). -/

namespace Sys2Proof.Machine

def State.modPower (s : State) (f : Power → Power) : State := { s with power := f s.power }

/-! ### PWRSTAT (17 R475) -/

/-- Set a bit of PWRSTAT; PWRMSI is raised when a sticky bit sets. -/
def State.setPwrstat (s : State) (i : Nat) : State :=
  if s.power.stat.getLsbD i then s
  else
    let s := s.modPower fun p => { p with stat := p.stat ||| BitVec.ofNat 32 (2 ^ i) }
    if i < 5 then s.raiseMsix 0 s.power.msi else s
/-- A write of PWRSTAT clears the sticky bits written 1; clearing WDOG lets the controller write again, and its 10 ms begin anew. -/
def State.pwrstatClear (s : State) (v : Word) : State :=
  s.modPower fun p => { p with
    stat := p.stat &&& ~~~ (v &&& 0x1F)
    written := if p.wdogged && v.getLsbD 2 then s.clock.toNat else p.written
    wdogged := p.wdogged && !v.getLsbD 2 }
/-- PWRSTAT_CLEAR. -/
def execPwrstatClear (v : Word) (s : State) : Res := .next (s.pwrstatClear v)

/-! ### The controller's loop (17 R476, R479; 13 R390) -/

/-- The band in force of a pool (17 R475). -/
def Power.band (p : Power) (pool : Nat) : Nat × Nat :=
  let o := p.opt.getD pool (0, 0)
  let lo := max o.1 p.envLo
  let hi := min o.2 p.envHi
  if lo ≤ hi then (lo, hi) else (p.envLo, p.envLo)
def clamp (lo hi x : Nat) : Nat := max lo (min hi x)
/-- The cap in watts: 0 means 2,600. -/
def Power.capW (p : Power) : Nat := if p.cap = 0 then 2600 else min 2600 p.cap.toNat
/-- The grants of the partitions' floors under an enforced cap. -/
def Power.grants (p : Power) (cap : Nat) : List (Nat × Nat × Bool) :=
  let sum := p.floors.foldl (fun n f => n + f.1) 0
  p.floors.map fun f => if cap < sum then (f.1, f.1 * cap / sum, decide (f.1 * cap / sum < f.1)) else (f.1, f.1, false)
/-- The caps and floors as one loop assesses them. -/
def State.assessPower (s : State) : State :=
  let cap := max s.power.capW s.power.idlew.toNat
  let s := if s.power.capW < s.power.idlew.toNat then s.setPwrstat 0 else s
  let old := s.power.floors
  let new := s.power.grants cap
  let s := s.modPower fun p => { p with floors := new }
  let s := if new.any (·.2.2) then s.setPwrstat 1 else s
  (List.range 9).foldl (fun (s : State) p =>
    if p != 0 && (new.getD p (0, 0, false)).2.2 && !(old.getD p (0, 0, false)).2.2 then s.raiseMsix p s.power.msi else s) s
/-- The ageing check of one cluster. -/
def State.ageCluster (s : State) (margins : List Nat) (cl : Nat) : State :=
  match s.ageing.rows[cl]? with
  | none => s
  | some (m, gb, worn) =>
    let m := (margins[cl]?.map (· % 256)).getD m
    let low := decide (m < s.ageing.mthr)
    let wear := low && gb == 8 && !worn
    let s := { s with ageing := { s.ageing with
      rows := upd s.ageing.rows cl fun _ => (m, if low && decide (gb < 8) then gb + 1 else gb, worn || wear) } }
    if wear then s.raiseMsix 0 s.ageing.msi else s
/-- POWER_CONTROLLER_LOOP: nothing while the firmware is being replaced, or its writes are ignored (log 61). -/
def execPowerControllerLoop (x : Sensors) (s : State) : Res :=
  .next <| if s.power.fwctl || s.power.wdogged then s
  else
    let awake := fun (cl : Nat) => !s.power.asleep.getD cl false
    let s := s.modPower fun p => { p with
      idlew := BitVec.ofNat 32 x.idleW, written := s.clock.toNat
      freq := (p.freq.zipIdx).map fun f => if awake f.2 then
        let b := p.band (p.pool.getD f.2 0); clamp b.1 b.2 (x.freq.getD f.2 f.1) else f.1
      limit := (p.limit.zipIdx).map fun l => if awake l.2 then clamp 1 32 (x.limit.getD l.2 l.1) else l.1 }
    (List.range 72).foldl (fun (s : State) cl => s.ageCluster x.margin cl) s.assessPower

/-! ### The hardware limits (17 R477) -/

/-- The safe table: every cluster at FSAFE. -/
def State.safeTable (s : State) : State := s.modPower fun p => { p with freq := p.freq.map fun _ => p.fsafe }
/-- WATCHDOG: the controller has written no target for 10 ms. -/
def execWatchdog (s : State) : Res :=
  .next <| if s.power.wdogged || s.clock.toNat < s.power.written + 10000000 then s
  else ((s.safeTable.modRegs fun r => { r with ramps := List.replicate 8 0x53924924 }).modPower fun p => { p with wdogged := true }).setPwrstat 2
/-- CURRENT_LIMIT: the die's clock is halved once more. -/
def execCurrentLimit (die : Nat) (s : State) : Res :=
  .next <| if die < 8 then (s.modPower fun p => { p with halved := upd p.halved die (· + 1) }).setPwrstat 4 else s
/-- THERMAL_THROTTLE. -/
def execThermalThrottle (die : Nat) (s : State) : Res :=
  .next <| if die < 8 then (s.modPower fun p => { p with hot := upd p.hot die fun _ => true }).setPwrstat 3 else s
/-- DIE_COOLS_TO_100_C. -/
def execDieCools (die : Nat) (s : State) : Res := .next (s.modPower fun p => { p with hot := upd p.hot die fun _ => false })
/-- THERMAL_SHUTDOWN: every clock stops (see `State.allows`). -/
def execThermalShutdown (s : State) : Res := .next (s.modPower fun p => { p with stopped := true })

/-- A write of 1 to FWCTL.UPDATE, also during an update (17 R477). -/
def State.firmwareUpdate (s : State) : State :=
  (s.safeTable.modPower fun p => { p with fwctl := true }).setPwrstat 5
/-- A write of 0. -/
def State.firmwareRestart (s : State) : State :=
  s.modPower fun p => { p with fwctl := false, stat := p.stat &&& ~~~ 0x20 }
/-- FIRMWARE_UPDATE. -/
def execFirmwareUpdate (s : State) : Res := .next s.firmwareUpdate
/-- FIRMWARE_RESTART. -/
def execFirmwareRestart (s : State) : Res := .next s.firmwareRestart

/-! ### Clusters: sleep, pool, partition (17 R471, R475; 13 R389) -/

/-- A block is resident on the cluster. -/
def State.clusterBusy (s : State) (cl : Nat) : Bool := s.blocks.any fun k => k.place == .live && clIndex k.core == cl
/-- CLUSTER_SLEEP: a SLEEP write of 1 takes effect. -/
def execClusterSleep (cl : Nat) (s : State) : Res :=
  .next <| if s.power.sleep.getD cl false && !s.clusterBusy cl then s.modPower fun p => { p with asleep := upd p.asleep cl fun _ => true } else s
/-- A SLEEP write of 0 wakes the cluster. -/
def State.clusterWake (s : State) (cl : Nat) : State :=
  s.modPower fun p => { p with sleep := upd p.sleep cl fun _ => false, asleep := upd p.asleep cl fun _ => false }
/-- CLUSTER_WAKE. -/
def execClusterWake (cl : Nat) (s : State) : Res := .next (s.clusterWake cl)
/-- CLUSTER_POOL_CHANGE: the cluster joins its new pool, and the launches that wait for a pool are dealt. -/
def execClusterPoolChange (cl : Nat) (s : State) : Res :=
  .next <| if s.power.poolNext.getD cl 0 != s.power.pool.getD cl 0 && !s.clusterBusy cl then
    (s.modPower fun p => { p with pool := upd p.pool cl fun _ => p.poolNext.getD cl 0 }).dealWaiting else s
/-- CLUSTER_PARTITION_MOVE. -/
def execClusterPartitionMove (cl : Nat) (s : State) : Res :=
  .next <| if s.regs.clpartNext.getD cl 0 != s.regs.clpart.getD cl 0 && !s.clusterBusy cl then
    s.modRegs fun r => { r with clpart := upd r.clpart cl fun _ => r.clpartNext.getD cl 0 } else s

/-! ### Deconfiguration (17 R480) -/

/-- A DCFG write; one that names no core is ignored. Its reserved bits act as zeros (00 R15). -/
def State.dcfgWrite (s : State) (v : DWord) : State :=
  let c := fld v 0 9
  if 288 ≤ c then s
  else { s with ageing := { s.ageing with dcfgmap := (s.ageing.dcfgmap.zipIdx).map fun x =>
    x.1 || x.2 == c || (v.getLsbD 9 && clIndex x.2 == clIndex c) } }
/-- DCFG. -/
def execDcfg (v : DWord) (s : State) : Res := .next (s.dcfgWrite v)

end Sys2Proof.Machine
end

