-- ==== Sys2Proof/Machine/Rebuild.lean ====
section
/-! DEFINITION. The rebuild of a lost member of an erasure stripe, on the spare, and what a survivor serves (spec/16 R458–R460). -/

namespace Sys2Proof.Machine

def State.modRebuild (s : State) (f : Rebuild → Rebuild) : State := { s with rebuild := f s.rebuild }

/-! ### The descriptor (16 R458) -/

/-- One member of a stripe. -/
structure Member where
  pkg    : Nat
  role   : Nat
  slot   : Nat
  stride : Nat
  live   : Nat
  man    : Nat
  deriving DecidableEq, Repr
def Member.of (bs : List Byte) : Member := ⟨rdN bs 0 2, rdN bs 2 1, rdN bs 8 8, rdN bs 0x10 8, rdN bs 0x18 8, rdN bs 0x20 8⟩
def planK (bs : List Byte) : Nat := rdN bs 0 1
def planM (bs : List Byte) : Nat := rdN bs 1 1
def planLost (bs : List Byte) (i : Nat) : Bool := nbit (rdN bs 2 2) i
def planUnit (bs : List Byte) : Nat := rdN bs 4 4
def planUnits (bs : List Byte) : Nat := rdN bs 8 4
def planStep (bs : List Byte) : Nat := rdN bs 0xC 4
/-- The bytes of the descriptor with its entries. -/
def planSize (bs : List Byte) : Nat := 64 + 64 * (planK bs + planM bs)
def planMember (bs : List Byte) (i : Nat) : Member := Member.of (bs.drop (64 + 64 * i))
def planMembers (bs : List Byte) : List Member := (List.range (planK bs + planM bs)).map (planMember bs)
/-- The header's K and M. -/
def planHeadOk (bs : List Byte) : Bool :=
  decide (1 ≤ planK bs) && decide (planK bs ≤ 14) && decide (1 ≤ planM bs) && decide (planM bs ≤ 2)
/-- The descriptor keeps R458: every data role appears, each role once, and its reserved bytes are 0 (log 96). MANADDR of a lost member is
not tested: software adds a member to LOST by LOST alone (16 R459, 20 R506). -/
def planOk (bs : List Byte) : Bool :=
  let n := planK bs + planM bs
  let ms := planMembers bs
  let roles := ms.map (·.role)
  planHeadOk bs && decide (rdN bs 2 2 < 2 ^ n) && planUnit bs % 32 == 0 && decide (32 ≤ planUnit bs) && decide (planUnit bs ≤ 2 ^ 20) &&
  decide (1 ≤ planUnits bs) && rdN bs 0x10 8 % 256 == 0 && decide (planUnit bs ≤ rdN bs 0x10 8) && zeroIn bs 0x18 0x40 &&
  (roles.eraseDups.length == n) && (List.range (planK bs)).all (roles.contains ·) &&
  (ms.all fun m => (decide (m.role < planK bs) || m.role == 0x80 || m.role == 0x81) && decide (m.pkg < 1024) && m.stride % 32 == 0) &&
  (List.range n).all fun i =>
    let e := bs.drop (64 + 64 * i)
    zeroIn e 3 8 && zeroIn e 0x28 0x40 && (planLost bs i || (planMember bs i).live == 0)
/-- The `k` survivors chosen: data members ascending, then P, then Q. -/
def planChosen (bs : List Byte) : List Nat :=
  let alive := (List.range (planK bs + planM bs)).filter fun i => !planLost bs i
  (alive.mergeSort fun a b => decide ((planMember bs a).role ≤ (planMember bs b).role)).take (planK bs)

/-! ### Solving (16 R459, 12 R351) -/

def gpow (a : Nat) : Nat → Nat
  | 0 => 1
  | n + 1 => gmul a (gpow a n)
/-- The inverse of a non-zero element. -/
def ginv (a : Nat) : Nat := gpow a 254
/-- Every data byte, from one byte of each chosen survivor by role. -/
def solveData (k : Nat) (have1 : List (Nat × Nat)) : List Nat :=
  let get := fun (r : Nat) => (have1.find? fun x => x.1 == r).map (·.2)
  let data := (List.range k).map get
  let lost := (List.range k).filter fun i => (get i).isNone
  let sum := fun (f : Nat → Nat) => (data.zipIdx).foldl (fun a x => match x.1 with
    | some v => a ^^^ gmul (f x.2) v
    | none => a) 0
  let p := fun (_ : Unit) => ((get 0x80).getD 0) ^^^ sum fun _ => 1
  let q := fun (_ : Unit) => ((get 0x81).getD 0) ^^^ sum (gpow 2)
  let fill := fun (vals : List (Nat × Nat)) => (data.zipIdx).map fun x => x.1.getD (((vals.find? fun y => y.1 == x.2).map (·.2)).getD 0)
  match lost with
  | [] => fill []
  | [x] => fill [(x, if (get 0x80).isSome then p () else gmul (q ()) (ginv (gpow 2 x)))]
  | x :: y :: _ =>
    let dx := gmul (q () ^^^ gmul (gpow 2 y) (p ())) (ginv (gpow 2 x ^^^ gpow 2 y))
    fill [(x, dx), (y, p () ^^^ dx)]
/-- The byte of a role, from every data byte. -/
def roleByte (data : List Nat) (role : Nat) : Nat :=
  if role = 0x80 then data.foldl (· ^^^ ·) 0
  else if role = 0x81 then (data.zipIdx).foldl (fun a x => a ^^^ gmul (gpow 2 x.2) x.1) 0
  else data.getD role 0

/-! ### The run (16 R459) -/

/-- Forget what other packages have answered to a run. -/
def State.rebuildForget (s : State) : State := (s.asked [7, 9]).asked [7, 10]
/-- End the run with a code, and raise its vector where the rule does. -/
def State.rebuildEnd (s : State) (code : Nat) (raise : Bool) : State :=
  let s := (s.modRebuild fun r => { r with stat := code }).rebuildForget
  if raise then s.raiseMsix 0 s.rebuild.vec else s
/-- Stop a run: RBSTAT 6. -/
def State.rebuildStop (s : State) : State := if s.rebuild.stat = 1 then s.rebuildEnd 6 true else s
/-- REBUILD_STOP. -/
def execRebuildStop (s : State) : Res := .next s.rebuildStop

/-- Bytes read by a run are counted at the survivor while EN is set: `total` is all that the run reads of it, 0 for a manifest, which
is not counted and begins a new run, and 1 tells a survivor that it is not chosen (16 R459, R460; log 23). -/
def State.serveCount (s : State) (n total : Nat) : State :=
  if !s.rebuild.serve.getLsbD 16 then s
  else if total = 0 then s.modRebuild fun r => { r with all := 0, total := 0 }
  else if total = 1 then s.modRebuild fun r => { r with all := 1, total := 1 }
  else s.modRebuild fun r => { r with
    served := r.served + BitVec.ofNat 64 n, all := r.all + BitVec.ofNat 64 n, total := BitVec.ofNat 64 total }
/-- Bytes of a member, on this package or asked of the survivor on virtual channel 3. -/
def State.rebuildBytes (s : State) (i pa n total : Nat) : State × EAns × List Byte :=
  match s.phys pa with
  | .remote _ => match s.ask [7, 10, i, pa] pa fun rid => .rebuildRead rid (pa % 2 ^ 42) n total with
    | (s, .data b) => (s, .ok, b)
    | (s, .pending) => (s, .wait, [])
    | (s, _) => (s, .fatal Code.linkLost pa, [])
  | _ => match s.readPa [7, 9, i] pa n with
    | (s, .ok, b) => (s.serveCount n total, .ok, b)
    | x => x
/-- Read bytes of several members; the first that is not there stops. -/
def State.rebuildReads (s : State) : List (Nat × Nat × Nat × Nat) → State × EAns × List (Nat × List Byte)
  | [] => (s, .ok, [])
  | (i, pa, n, total) :: rest =>
    let r := s.rebuildBytes i pa n total
    match r.2.1 with
    | .ok =>
      let more := r.1.rebuildReads rest
      (more.1, more.2.1, (i, r.2.2) :: more.2.2)
    | .wait => let more := r.1.rebuildReads rest; (more.1, if more.2.1 == .ok then .wait else more.2.1, [])
    | a => (r.1, a, [])
/-- What a read that does not come does to the run. -/
def State.rebuildAns (s : State) (a : EAns) (go : State) : State :=
  match a with
  | .ok => go
  | .wait => s
  | _ => s.rebuildStop
/-- The checks of a run: descriptor, losses, manifests; then its survivors are chosen. -/
def State.rebuildCheck (s : State) : State :=
  match s.readPaKeep [7, 9, 100] s.rebuild.desc.toNat 64 with
  | (s, .wait, _) => s
  | (s, .ok, h) =>
    if !planHeadOk h then s.rebuildEnd 5 false
    else match s.readPaKeep [7, 9, 101] s.rebuild.desc.toNat (planSize h) with
      | (s, .wait, _) => s
      | (s, .ok, bs) =>
        if !planOk bs then s.rebuildEnd 5 false
        else
          let alive := (List.range (planK bs + planM bs)).filter fun i => !planLost bs i
          if alive.length < planK bs then s.rebuildEnd 3 false
          else
            let r := s.rebuildReads (alive.map fun i => (i, (planMember bs i).man, 64, if (planChosen bs).contains i then 0 else 1))
            r.1.rebuildAns r.2.1
              (if r.2.2.all fun x => rdN x.2 4 1 == 1 && rdN x.2 8 4 == planStep bs then
                (r.1.modRebuild fun x => { x with plan := bs, chosen := planChosen bs }).rebuildForget
              else r.1.rebuildEnd 4 false)
      | (s, _, _) => s.rebuildEnd 5 false
  | (s, _, _) => s.rebuildEnd 5 false
/-- A write of RBCTL: GO 1 starts a run from unit 0, GO 0 stops one. -/
def State.rebuildCtl (s : State) (v : Word) : State :=
  let s := s.modRebuild fun r => { r with vec := fld (v.setWidth 64) 16 11, go := v.getLsbD 0 }
  if v.getLsbD 0 then (s.modRebuild fun r => { r with stat := 1, done := 0, plan := [], chosen := [] }).rebuildCheck
  else s.rebuildStop
/-- REBUILD_START. -/
def execRebuildStart (v : Word) (s : State) : Res := .next (s.rebuildCtl v)

/-- The writes of one unit: each lost member's place, and its live copy (log 64). -/
def unitWrites (bs : List Byte) (u : Nat) (got : List (Nat × List Byte)) : List (Nat × List Byte) :=
  let k := planK bs
  let data := (List.range (planUnit bs)).map fun j =>
    solveData k (got.map fun x => ((planMember bs x.1).role, ((x.2.drop j).headD 0).toNat))
  ((List.range (k + planM bs)).filter (planLost bs)).flatMap fun i =>
    let m := planMember bs i
    let out := data.map fun d => BitVec.ofNat 8 (roleByte d m.role)
    (m.slot + u * m.stride, out) :: (if m.live = 0 then [] else [(m.live + u * m.stride, out)])
/-- REBUILD_UNIT: the next unit of the run; while its checks still wait for a manifest, they go on. -/
def execRebuildUnit (s : State) : Res :=
  .next <| if s.rebuild.stat != 1 then s
  else if s.rebuild.plan.isEmpty then s.rebuildCheck
  else
    let bs := s.rebuild.plan
    let u := s.rebuild.done.toNat
    if planUnits bs ≤ u then s
    else
      let r := s.rebuildReads (s.rebuild.chosen.map fun i =>
        (i, (planMember bs i).slot + u * (planMember bs i).stride, planUnit bs, planUnits bs * planUnit bs))
      r.1.rebuildAns r.2.1
        (let w := r.1.writePas [7, 10, 200] true (unitWrites bs u r.2.2)
         w.1.rebuildAns w.2 (w.1.modRebuild fun x => { x with done := x.done + 1 }).rebuildForget)
/-- REBUILD_COMPLETE: every unit is written and acknowledged. -/
def execRebuildComplete (s : State) : Res :=
  .next <| if s.rebuild.stat = 1 && !s.rebuild.plan.isEmpty && decide (planUnits s.rebuild.plan ≤ s.rebuild.done.toNat) then s.rebuildEnd 2 true else s

/-! ### The survivor (16 R460) -/

/-- A write of RBSERVE: setting EN begins a new count. -/
def State.rebuildServe (s : State) (v : Word) : State :=
  s.modRebuild fun r => if v.getLsbD 16 && !r.serve.getLsbD 16 then { r with serve := v &&& 0x1FFFF, served := 0, total := 0, all := 0 }
    else { r with serve := v &&& 0x1FFFF }

end Sys2Proof.Machine
end

