-- ==== Sys2Proof/Machine/Registers.lean ====
section
/-! DEFINITION. The control BAR: every register by its offset, its value and its write, and the accesses of the host and of the
device (spec/17 R466–R471, R475, R478, R508, spec/12 R356, spec/13 R359, spec/15 R421–R435, spec/16 R453, R459, R464). -/

namespace Sys2Proof.Machine

/-! ### Values -/

/-- The physical core of a logical one. -/
def State.ltabCore (s : State) (c : Nat) : Option Nat := s.regs.ltab[c]?
/-- A range of Seif. -/
def Seif.range (x : Seif) (i : Nat) : DWord × DWord × DWord × DWord := x.ranges.getD i (0, 0, 0, 0)
/-- The block in a slot of a core's counter block (16 R464). -/
def State.slotBlock (s : State) (c j : Nat) : Option Block :=
  s.blocks.find? fun k => k.place == .live && some k.core == s.ltabCore c && k.rslot == j
/-- A byte of a list of bits. -/
def bitsByte (l : Nat → Bool) (i : Nat) : Nat := (List.range 8).foldl (fun n j => n + 2 ^ j * b2n (l (8 * i + j))) 0

/-- What a register reads as; write-only registers read zero. -/
def State.regGet (s : State) (x : Reg) : Nat :=
  let r := s.regs
  let p := s.power
  match x with
  | .gap | .resident | .srwake | .mirinv | .bpcmd | .dcfg | .qwake _ => 0
  | .devid => r.devid.toNat
  | .rev => r.rev.toNat
  | .lcountCopy | .lcount => r.lcount
  | .bootstat => r.bootstat.toNat
  | .apbase => r.apbase.toNat
  | .linkdown => (s.ports.zipIdx).foldl (fun n x => n + b2n x.1.down * 2 ^ x.2) 0
  | .mailbox i => ((tget r.mailbox i).getD 0).toNat
  | .pkgctl => b2n r.enable + 2 * b2n r.hbmmode
  | .faqbase => r.faqBase.toNat
  | .faqsize => r.faqSize.toNat
  | .faqcons => r.faqCons.toNat
  | .faqprod => r.faqProd.toNat
  | .faqmsi => r.faqMsi
  | .faqstat => b2n r.faqErr
  | .migold => r.migOld.toNat
  | .mignew => r.migNew.toNat
  | .migpte => r.migPte.toNat
  | .migcmd => r.migs.length
  | .srbase => r.srBase.toNat
  | .srsize => r.srSize.toNat
  | .srcons => r.srCons.toNat
  | .srprod => r.srProd.toNat
  | .rpbase => r.rpBase.toNat
  | .srmsi => r.srMsi
  | .msixAddr n => (s.vector n).addr.toNat
  | .msixData n => (s.vector n).data.toNat
  | .msixCtl n => b2n (s.vector n).mask
  | .pba i => bitsByte (fun n => (s.vector n).pend) i
  | .clpart i => r.clpartNext.getD i 0
  | .qpart q => (tget r.qpart q).getD 0
  | .pwrcap => p.cap.toNat
  | .env => p.envLo + 2 ^ 16 * p.envHi
  | .pwrstat => p.stat.toNat
  | .pwrmsi => p.msi
  | .idlew => p.idlew.toNat
  | .opt c => (p.opt.getD c (0, 0)).1 + 256 * (p.opt.getD c (0, 0)).2
  | .fsafe => p.fsafe
  | .pfloor n => let f := p.floors.getD n (0, 0, false); f.1 + 2 ^ 16 * f.2.1 + 2 ^ 32 * b2n f.2.2
  | .clpool i => p.poolNext.getD i 0 + 64 * b2n (p.sleep.getD i false) + 128 * b2n (p.asleep.getD i false)
  | .clfreq i => p.freq.getD i 0
  | .rblim i => p.limit.getD i 0
  | .fwctl => b2n p.fwctl
  | .ageEntry i => let a := s.ageing.rows.getD i (0, 0, false); a.1 + 256 * a.2.1 + 4096 * b2n a.2.2
  | .mthr => s.ageing.mthr
  | .agemsi => s.ageing.msi
  | .dcfgmap i => bitsByte (fun n => s.ageing.dcfgmap.getD n false) i
  | .ctx n => (r.ctxs.getD n 0).toNat
  | .mirbase => s.mirage.base.toNat
  | .mirsize => s.mirage.size.toNat
  | .mirhit => s.mirage.hit.toNat
  | .mirmiss => s.mirage.miss.toNat
  | .mirused => s.mirage.entries.foldl (fun n e => n + e.size) 0
  | .aggbase => r.aggBase.toNat
  | .ramp d => (r.ramps.getD d 0).toNat
  | .harv d => (List.range 36).foldl (fun n i => n + 2 ^ i * b2n (r.harv.getD (36 * d + i) false)) 0
  | .ltab i => match r.ltab[i]? with
    | some c => c + 2 ^ 15
    | none => 0
  | .route n => (s.route n).toNat
  | .badpage i => (r.badpages.getD i 0).toNat
  | .bpcount => r.badpages.length
  | .seifctl => s.seif.ctl.toNat
  | .seifstat => 2 * b2n s.seif.capturing + 4 * b2n s.seif.cfgerr
  | .capstep => s.seif.capstep.toNat
  | .man k => (if k = 0 then s.seif.man0 else s.seif.man1).toNat
  | .seifSrc i => (s.seif.range i).1.toNat
  | .seifLen i => (s.seif.range i).2.1.toNat
  | .seifDst i k => (if k = 0 then (s.seif.range i).2.2.1 else (s.seif.range i).2.2.2).toNat
  | .rbdesc => s.rebuild.desc.toNat
  | .rbctl => b2n s.rebuild.go + 2 ^ 16 * s.rebuild.vec
  | .rbstat => s.rebuild.stat
  | .rbserve => s.rebuild.serve.toNat
  | .rbquota => s.rebuild.quota.toNat
  | .rbserved => s.rebuild.served.toNat
  | .rbdone => s.rebuild.done.toNat
  | .lclock c => (((s.ltabCore c).bind (s.cores[·]?)).map (·.clk.toNat)).getD 0
  | .dropcnt c => (((s.ltabCore c).bind (s.cores[·]?)).map (·.dropcnt.toNat)).getD 0
  | .slotWord c j w => match s.slotBlock c j with
    | some k => match w with
      | 0 => k.bid.toNat | 1 => k.mxnan.toNat | 2 => k.mxinf.toNat | _ => k.mxovf.toNat
    | none => 0
  | .eccCorr n => (s.ecc n).corr.toNat
  | .eccUncorr n => (s.ecc n).uncorr.toNat
  | .eccThr n => (s.ecc n).thr.toNat
  | .l2clk i => ((tget s.homes.l2clk i).getD 0).toNat
  | .scmclk i => (s.homes.scmClk.getD i 0).toNat
  | .qtotal q w => match w with
    | 0 => (s.queue q).mxnan.toNat | 1 => (s.queue q).mxinf.toNat | _ => (s.queue q).mxovf.toNat
  | .qrbase q => (s.queue q).cfg.rbase.toNat
  | .qrsize q => (s.queue q).cfg.rsize
  | .qprio q => (s.queue q).cfg.prio
  | .qctrl q => (s.queue q).cfg.ctrl.toNat
  | .qmsi q => (s.queue q).cfg.msi
  | .qctx q => (s.queue q).cfg.ctx
  | .qrd q => (s.queue q).rd.toNat
  | .qstat q => (s.queue q).stat + 16 * b2n (s.queue q).hlost
  | .qreset q => (s.queue q).reset
  | .haltbase q => (s.queue q).cfg.haltBase.toNat
  | .haltsize q => (s.queue q).cfg.haltSize.toNat
  | .haltused q => (s.queue q).haltUsed
  | .savebase q => (s.queue q).cfg.saveBase.toNat
  | .savesize q => (s.queue q).cfg.saveSize.toNat
  | .pdelay q => (s.queue q).cfg.pdelay.toNat

/-! ### Writes -/

def State.cfgQueue (s : State) (q : Nat) (f : QCfg → QCfg) : State := s.modQueue q fun c => { c with cfg := f c.cfg }
/-- The bits above a power of two (a physical address that is a multiple of it, 15 R421). -/
def paMask (v lg : Nat) : DWord := BitVec.ofNat 64 (v % 2 ^ 52 / 2 ^ lg * 2 ^ lg)
/-- A Seif address is local SCM and a multiple of 256 (16 R453). -/
def seifAddr (v : Nat) : Bool := decide (0x20000000000 ≤ v) && decide (v < 0x40000000000) && v % 256 == 0
/-- A write of a Seif address register; any other address sets CFGERR. -/
def State.seifSet (s : State) (v : Nat) (f : Seif → Seif) : State :=
  if seifAddr v then s.modSeif f else s.modSeif fun x => { x with cfgerr := true }
/-- A write of a range register, ignored while CAPEN is 1. -/
def State.seifRangeSet (s : State) (i : Nat) (f : DWord × DWord × DWord × DWord → DWord × DWord × DWord × DWord) (x : Seif) : Seif :=
  if s.seif.ctl.getLsbD 0 then x else { x with ranges := upd x.ranges i f }
/-- A vector's mask bit is written: a pending message goes out when it is unmasked (17 R470). -/
def State.maskVector (s : State) (row : Nat) (mask : Bool) : State :=
  let v := s.vector row
  if v.pend && !mask then (s.setVector row { v with mask := false, pend := false }).emit (.msix v.addr.toNat v.data.toNat)
  else s.setVector row { v with mask := mask }
/-- A write of LINKDOWN: each set bit written 0 brings its port up again (17 R474, R508). -/
def State.linkUp (s : State) (v : Word) : State :=
  { s.walked with ports := (s.ports.zipIdx).map fun x => if x.1.down && !v.getLsbD x.2 then Port.reset else x.1 }
/-- LINK_UP. -/
def execLinkUp (v : Word) (s : State) : Res := .next (s.linkUp v)

/-- The effect of writing a register whole; nothing where the write waits at its port. -/
def State.regSet (s : State) (x : Reg) (v : Nat) : Option State :=
  let w := BitVec.ofNat 32 v
  let d := BitVec.ofNat 64 v
  match x with
  | .apbase => some (s.modRegs fun r => { r with apbase := d >>> r.apsize <<< r.apsize })
  | .linkdown => some (s.linkUp w)
  | .mailbox i => some (s.modRegs fun r => { r with mailbox := tset r.mailbox i (BitVec.ofNat 8 v) })
  | .pkgctl => some (s.packageEnable w)
  | .faqbase => some (s.setFaqbase d)
  | .faqsize => some (s.modRegs fun r => { r with faqSize := w })
  | .faqcons => some (s.modRegs fun r => { r with faqCons := w })
  | .faqmsi => some (s.modRegs fun r => { r with faqMsi := v % 2048 })
  | .migold => some (s.modRegs fun r => { r with migOld := d })
  | .mignew => some (s.modRegs fun r => { r with migNew := d })
  | .migpte => some (s.modRegs fun r => { r with migPte := d })
  | .migcmd => s.migStart w
  | .resident => s.residentNotice d
  | .srbase => some (s.modRegs fun r => { r with srBase := paMask v 12, srSet := true })
  | .srsize => some (s.modRegs fun r => { r with srSize := w })
  | .srcons => some (s.modRegs fun r => { r with srCons := w })
  | .rpbase => some (s.modRegs fun r => { r with rpBase := paMask v 12 })
  | .srwake => s.srWake w
  | .srmsi => some (s.modRegs fun r => { r with srMsi := v % 2048 })
  | .msixAddr n => some (s.setVector n { s.vector n with addr := d })
  | .msixData n => some (s.setVector n { s.vector n with data := w })
  | .msixCtl n => some (s.maskVector n (nbit v 0))
  | .clpart i => some (if v % 16 ≤ 8 then s.modRegs fun r => { r with clpartNext := upd r.clpartNext i fun _ => v % 16 } else s)
  | .qpart q => some (if v % 16 ≤ 8 then s.modRegs fun r => { r with qpart := tset r.qpart q (v % 16) } else s)
  | .pwrcap => some (s.modPower fun p => { p with cap := w })
  | .env =>
    let lo := v % 2 ^ 16
    let hi := v / 2 ^ 16
    some (if 36 ≤ lo && decide (lo ≤ hi) && decide (hi ≤ 84) then s.modPower fun p => { p with envLo := lo, envHi := hi } else s)
  | .pwrstat => some (s.pwrstatClear w)
  | .pwrmsi => some (s.modPower fun p => { p with msi := v % 2048 })
  | .opt c => some (s.modPower fun p => { p with opt := upd p.opt c fun _ => (v % 256, v / 256 % 256) })
  | .fsafe => some (if 36 ≤ v && decide (v ≤ 84) then s.modPower fun p => { p with fsafe := v } else s)
  | .pfloor n => some (s.modPower fun p => { p with floors := upd p.floors n fun f => (v % 2 ^ 16, f.2) })
  | .clpool i =>
    let s := s.modPower fun p => { p with poolNext := upd p.poolNext i fun _ => v % 8 }
    some (if nbit v 6 then s.modPower fun p => { p with sleep := upd p.sleep i fun _ => true } else s.clusterWake i)
  | .fwctl => some (if nbit v 0 then s.firmwareUpdate else s.firmwareRestart)
  | .mthr => some (if v = 0 then s else { s with ageing := { s.ageing with mthr := v } })
  | .agemsi => some { s with ageing := { s.ageing with msi := v % 2048 } }
  | .dcfg => some (s.dcfgWrite d)
  | .ctx n => some (s.modRegs fun r => { r with ctxs := upd r.ctxs n fun _ => BitVec.ofNat 64 (v % 2 ^ 5 + nfld v 21 31 * 2 ^ 21) })
  | .mirbase => some (s.modMirage fun m => { m with base := BitVec.ofNat 64 (v % 2 ^ 42 / 2 ^ 21 * 2 ^ 21) })
  | .mirsize => some (s.modMirage fun m => { m with size := BitVec.ofNat 64 (v / 2 ^ 21 * 2 ^ 21) })
  | .mirinv => some (s.mirInv d)
  | .aggbase => some (s.modRegs fun r => { r with aggBase := paMask v 21 })
  | .ramp n => some (s.rampSet n d)
  | .route n => s.routeSet n d
  | .bpcmd => some (match v % 4 with
    | 1 => s.badAdd 3 (bpPage d) | 2 => s.bpRemove d | 3 => s.bpClear | _ => s)
  | .seifctl => some (
      if nbit v 0 && !s.seif.ctl.getLsbD 0 then s.seifArm w
      else if !nbit v 0 && s.seif.ctl.getLsbD 0 then s.seifDisarm w
      else s.modSeif fun x => { x with ctl := w &&& 7 })
  | .man k => some (s.seifSet v fun x => if k = 0 then { x with man0 := d } else { x with man1 := d })
  | .seifSrc i => some (s.seifSet v (s.seifRangeSet i fun r => (d, r.2)))
  | .seifLen i => some (if v % 256 = 0 then s.modSeif (s.seifRangeSet i fun r => (r.1, d, r.2.2)) else s)
  | .seifDst i k => some (s.seifSet v (s.seifRangeSet i fun r => if k = 0 then (r.1, r.2.1, d, r.2.2.2) else (r.1, r.2.1, r.2.2.1, d)))
  | .rbdesc => some (s.modRebuild fun r => { r with desc := BitVec.ofNat 64 (v / 64 * 64) })
  | .rbctl => some (s.rebuildCtl w)
  | .rbserve => some (s.rebuildServe w)
  | .rbquota => some (s.modRebuild fun r => { r with quota := d })
  | .dropcnt c => some (match s.ltabCore c with
    | some k => s.modCore k fun x => { x with dropcnt := 0 }
    | none => s)
  | .eccCorr n => some (s.modEcc n fun e => { e with corr := 0 })
  | .eccUncorr n => some (s.modEcc n fun e => { e with uncorr := 0 })
  | .eccThr n => some (s.modEcc n fun e => { e with thr := w })
  | .qtotal q n => some (s.modQueue q fun c => match n with
    | 0 => { c with mxnan := 0 } | 1 => { c with mxinf := 0 } | _ => { c with mxovf := 0 })
  | .qrbase q => some (s.cfgQueue q fun c => { c with rbase := paMask v 12 })
  | .qrsize q => some (s.cfgQueue q fun c => { c with rsize := v })
  | .qprio q => some (s.cfgQueue q fun c => { c with prio := v % 4 })
  | .qctrl q => some (s.queueEnable q (BitVec.ofNat 16 v))
  | .qmsi q => some (s.cfgQueue q fun c => { c with msi := v % 2048 })
  | .qctx q => some (s.cfgQueue q fun c => { c with ctx := v % 16 })
  | .qreset q => some (if v = 1 then s.queueReset q else s)
  | .qwake q => some (s.wakeWrite q w)
  | .haltbase q => some (s.cfgQueue q fun c => { c with haltBase := paMask v 6 })
  | .haltsize q => some (s.cfgQueue q fun c => { c with haltSize := w })
  | .savebase q => some (s.cfgQueue q fun c => { c with saveBase := paMask v 12 })
  | .savesize q => some (s.cfgQueue q fun c => { c with saveSize := d })
  | .pdelay q => some (s.cfgQueue q fun c => { c with pdelay := w })
  | .gap | .devid | .rev | .lcountCopy | .bootstat | .faqprod | .faqstat | .srprod | .pba _ | .idlew | .clfreq _ | .rblim _
  | .ageEntry _ | .dcfgmap _ | .mirhit | .mirmiss | .mirused | .harv _ | .lcount | .ltab _ | .badpage _ | .bpcount | .seifstat
  | .capstep | .rbstat | .rbserved | .rbdone | .lclock _ | .slotWord _ _ _ | .l2clk _ | .scmclk _ | .qrd _ | .qstat _ | .haltused _ => some s

/-! ### Accesses -/

/-- While the boot has not succeeded only the identity block answers (17 R481). -/
def State.regLive (s : State) (off : Nat) : Bool := s.regs.bootstat == 1 || decide (off < 0x1000)
/-- The bytes read at an offset; nothing where no register answers (log 63). -/
def State.regRead (s : State) (at' : Nat → Option RegAt) (off size : Nat) : Option Nat :=
  if !s.regLive off || (regsIn at' off size).isEmpty then none
  else some (ofBytes ((List.range size).map fun i => match at' (off + i) with
    | some r => BitVec.ofNat 8 (nfld (s.regGet r.reg) (8 * (off + i - r.base)) 8)
    | none => 0))
/-- Write-only registers, and those whose written bits act, take zero (or for LINKDOWN their value) in bytes not written. -/
def State.regOld (s : State) (x : Reg) : Nat :=
  match x with
  | .pwrstat => 0
  | x => s.regGet x
/-- The value a register takes when an access writes some of its bytes. -/
def State.mergeReg (s : State) (r : RegAt) (off size v : Nat) : Nat :=
  ofBytes ((List.range r.len).map fun i =>
    let a := r.base + i
    if off ≤ a && decide (a < off + size) then BitVec.ofNat 8 (nfld v (8 * (a - off)) 8) else BitVec.ofNat 8 (nfld (s.regOld r.reg) (8 * i) 8))
/-- Write the registers of an access in order; nothing where a write waits. -/
def State.regWrites (s : State) (off size v : Nat) : List RegAt → Option State
  | [] => some s
  | r :: rest => match s.regSet r.reg (s.mergeReg r off size v) with
    | some s => s.regWrites off size v rest
    | none => none
/-- Registers whose write starts something from fields beside them. -/
def Reg.starts : Reg → Bool
  | .pkgctl | .migcmd | .seifctl | .rbctl | .rbserve | .fwctl | .qctrl _ | .qreset _ => true
  | _ => false
/-- The registers of a store in the order they are written: what it starts finds every field that it wrote (13 R359). -/
def startsLast (rs : List RegAt) : List RegAt := rs.filter (fun r => !r.reg.starts) ++ rs.filter (fun r => r.reg.starts)
/-- An access's write. The answer of the outer option is nothing where no register answers, of the inner where it waits. -/
def State.regWrite (s : State) (at' : Nat → Option RegAt) (off size v : Nat) : Option (Option State) :=
  if !s.regLive off || (regsIn at' off size).isEmpty then none else some (s.regWrites off size v (startsLast (regsIn at' off size)))
/-- A write of a register that waits changes nothing, but for what a wake asks of another package (08 R228). -/
def State.regWait (s : State) (x : Reg) (v : Nat) : State := if x == .srwake then s.srAsk (BitVec.ofNat 32 v) else s
/-- The same for an access. -/
def State.regWaits (s : State) (at' : Nat → Option RegAt) (off size v : Nat) : State :=
  (regsIn at' off size).foldl (fun s r => s.regWait r.reg (s.mergeReg r off size v)) s
/-- A write of the host. One to an offset that no block assigns is dropped. -/
def State.hostWrite (s : State) (at' : Nat → Option RegAt) (off size v : Nat) : State :=
  match s.regWrite at' off size v with
  | some (some s) => s
  | some none => s.regWaits at' off size v
  | none => s

/-- REGISTER_WRITE: a write of the host to the control BAR. -/
def execRegisterWrite (off size : Nat) (v : DWord) (s : State) : Res := .next (s.hostWrite regAt off (min 8 size) v.toNat)
/-- COUNTER_CLEAR: a write to a count of the counter block. -/
def execCounterClear (off : Nat) (s : State) : Res :=
  .next (if off / 0x100000 = 4 then s.hostWrite regAt off 4 0 else s)
/-- MSIX_UNMASK. -/
def execMsixUnmask (fn : Fin 9) (vec : Nat) (s : State) : Res :=
  .next (if vec < msixRows fn.val then s.maskVector (msixRow fn.val vec) false else s)

/-! ### A virtual function's BAR0 (17 R471) -/

/-- The `j`-th queue whose QPART names the function. -/
def State.vfQueue (s : State) (fn j : Nat) : Option Nat := ((s.regs.qpart.filter fun x => x.2 == fn && decide (x.1 < 4096))[j]?).map (·.1)
/-- The register at a byte of a virtual function's BAR0: its MSI-X table, and its queues' blocks. -/
def State.vfReg (s : State) (fn off : Nat) : Option RegAt :=
  if 0x30000 ≤ off && decide (off < 0x31000) then msixReg 0x30000 (off - 0x30000) (msixRow fn ((off - 0x30000) / 16))
  else if 0x100000 ≤ off && decide (off < 0x200000) then match s.vfQueue fn ((off - 0x100000) / 256) with
    | some q => findReg (queueTable q) (off / 256 * 256) (off % 256)
    | none => none
  else none

/-! ### Host accesses (17 R466, R469, R471) -/

/-- A host's read answered, or Unsupported Request. -/
def State.answerHost (s : State) (v : Option Nat) : State :=
  match v with
  | some v => s.emit (.read (BitVec.ofNat 64 v))
  | none => s.emit .unsupported
/-- The end of the HBM of this package. -/
def hbmEnd : Nat := 0x06000000000
/-- HOST_ACCESS: accesses through the aperture are physical, at their home; one at or beyond the end of HBM reads zero and drops
its write. A read of a poisoned line gives no data. An access outside the aperture reaches nothing, and APBASE stays a multiple of its
size (17 R469; log 99). -/
def execHostAccess (a : HostAcc) (s : State) : Res :=
  .next <| match a with
    | .barRead off size => s.answerHost (s.regRead regAt off (min 8 size))
    | .barWrite off size v => s.hostWrite regAt off (min 8 size) v.toNat
    | .vfRead fn off size => s.answerHost (if s.regs.bootstat == 1 then s.regRead (s.vfReg fn.val) off (min 8 size) else none)
    | .vfWrite fn off size v => if s.regs.bootstat == 1 then s.hostWrite (s.vfReg fn.val) off (min 8 size) v.toNat else s
    | .aperResize lg => if 28 ≤ lg && lg ≤ 39 then s.modRegs fun r => { r with apsize := lg, apbase := r.apbase >>> lg <<< lg } else s
    | .aperRead off size =>
      if s.regs.bootstat != 1 || decide (2 ^ s.regs.apsize < off + size) then s.emit .unsupported
      else
        let a := s.regs.apbase.toNat + off
        let ps := lines a size
        if ps.any fun x => decide (x.1 < hbmEnd) && s.poisoned (s.homeAddr x.1) then s.emit .rejected
        else
          let r := ps.foldl (fun (acc : State × List Byte) x =>
            if x.1 < hbmEnd then let y := acc.1.homeRead (.hbm x.1) (Via.plain 0) x.2; (y.1, acc.2 ++ y.2)
            else (acc.1, acc.2 ++ List.replicate x.2 0)) (s, [])
          r.1.emit (.bytes r.2)
    | .aperWrite off bs =>
      if s.regs.bootstat != 1 || decide (2 ^ s.regs.apsize < off + bs.length) then s
      else (cut (s.regs.apbase.toNat + off) bs).foldl (fun (s : State) x =>
        if x.1 < hbmEnd then s.homeWrite (.hbm x.1) (Via.plain 0) x.2 else s) s

end Sys2Proof.Machine
end

