-- ==== Sys2Proof/Machine/Atomic.lean ====
section
/-! DEFINITION. What an atomic computes, an atomic at its home, and device accesses to the control BAR (spec/10 R280–R284, spec/17
R466, spec/09 R257). -/

namespace Sys2Proof.Machine

/-- The new value of an atomic of `w` bytes by its opcode, or nothing where it writes none: a CAS that fails (10 R282–R284). For
CAS, `o` is the compare value and `c` the new one. -/
def atomFn (op w old o c : Nat) : Option Nat :=
  let b := 8 * w
  match op with
  | 0x85 => some ((old + o) % 2 ^ b)
  | 0x86 => some (if sval b o < sval b old then o else old)
  | 0x87 => some (if sval b old < sval b o then o else old)
  | 0x88 => some (min old o)
  | 0x89 => some (max old o)
  | 0x8A => some (old &&& o)
  | 0x8B => some (old ||| o)
  | 0x8C => some (old ^^^ o)
  | 0x8D => some o
  | 0x8E => if old = o then some c else none
  | 0x8F => some (fp32.add .rne (fp32.decode old) (fp32.decode o)).1
  | 0x90 => some (fp32.minMax false old o).1
  | 0x91 => some (fp32.minMax true old o).1
  | _ => none

/-- An atomic performed at its home: the old value (10 R281, R283). One that writes nothing still reaches an L2 slice as a write does
(09 R249). -/
def State.homeAtomic (s : State) (p : Phys) (v : Via) (op w o c : Nat) : State × Nat :=
  match p with
  | .hbm a | .scm a =>
    let old := Memory.read s.homes.mem (s.homeAddr a) w
    match atomFn op w old o c with
    | some n => (s.homeUpdate p v (toBytes n w), old)
    | none => (match s.homeAt p with
      | .hbm x => s.homeTouch (.hbm x) v true
      | q => s.homeTouch q v false, old)
  | _ => (s, 0)

/-- A device's read of a register: nothing where no block assigns the offset (17 R466). -/
def State.mmioRead (s : State) (off n : Nat) : Option Nat := s.regRead regAt off n
/-- A device's write. The answer of the outer option is nothing where no block assigns the offset, of the inner where it waits. -/
def State.mmioWrite (s : State) (off n v : Nat) : Option (Option State) := s.regWrite regAt off n v
/-- The same write while it waits. -/
def State.mmioWait (s : State) (off n v : Nat) : State := s.regWaits regAt off n v

end Sys2Proof.Machine
end

