-- ==== Sys2Proof/Machine/MemEvents.lean ====
section
/-! DEFINITION. Requests at their homes, the returns and acknowledgements that land at threads, persist entries, and page walks
(spec/04 R118–R122, spec/08 R214, spec/09 R246–R259, R263, spec/10 R273–R291, spec/11 R297, R305). -/

namespace Sys2Proof.Machine

/-! ### When a request is performed (10 R273, R280, R290; 11 R297) -/

def Req.shares (r x : Req) : Bool := r.blk == x.blk && r.parts.any fun p => x.parts.any fun y => p.tid == y.tid
/-- What a request's line names. -/
def State.reqPhys (s : State) (r : Req) : Phys := s.phys (128 * r.line)
def State.reqMmio (s : State) (r : Req) : Bool :=
  r.spadBlk.isNone && match s.reqPhys r with
    | .mmio _ => true
    | .remote _ => match localPhys (128 * r.line % 2 ^ 42) with
      | .mmio _ => true
      | _ => false
    | _ => false
/-- No earlier request must be performed before: of the same thread, or of the same cycle, to the same line, or of the same
thread to a device register. -/
def State.homeReady (s : State) (r : Req) : Bool :=
  s.homes.reqs.all fun x => decide (r.id ≤ x.id) || x.core != r.core ||
    !((s.homeLine x.line == s.homeLine r.line && x.spadBlk == r.spadBlk && (r.shares x || x.batch == r.batch)) ||
      (r.shares x && s.reqMmio r && s.reqMmio x))
/-- A persist write of this package, which CARAVAN_ENTRY performs. -/
def State.reqPersist (s : State) (r : Req) : Bool :=
  match s.reqPhys r, r.op with
  | .scm _, .store => r.path == .pers && r.spadBlk.isNone
  | .scm _, .pwb _ => true
  | _, _ => false

/-! ### What performing one leaves -/

/-- The request has been performed. -/
def State.reqDone (s : State) (r : Req) : State :=
  (s.modHomes fun h => { h with
    reqs := h.reqs.filter fun x => x.id != r.id
    remotes := h.remotes.filter fun x => x.who.take 2 != [0, r.id] }).releaseHeld r.core
/-- A request of a prefetch, which raises no fault (10 R286). -/
def Req.prefetch (r : Req) : Bool :=
  match r.op with
  | .pref _ => true
  | _ => false
/-- A part raises a fatal fault in its block, if that is still resident. -/
def State.partFault (s : State) (r : Req) (p : Part) (code : Nat) : State :=
  if (s.resident? r.blk).isSome && !r.prefetch then s.haltBlock r.blk code false 0 (some p.tid) p.pc (BitVec.ofNat 64 p.ea) 0 else s
/-- A part's answer: a return when `load`, else an acknowledgement, with what the L1 line takes. -/
def State.partRet (s : State) (r : Req) (p : Part) (load : Bool) (ts : DWord) : State :=
  s.addRet r.blk r.core load (match r.op with
    | .atomic _ => true
    | _ => false) r.line r.spadBlk.isSome p r.order r.scope ts (s.homeKey r.line r.spadBlk)
/-- The bytes a load returns: its own forwarded bytes over those of the line. -/
def Part.loaded (p : Part) (line : List Byte) : Part :=
  { p with data := BitVec.ofNat 128 (mergeFwd p.fmask p.fdata.toNat (ofBytes ((line.drop p.off).take p.bytes)) p.bytes) }
/-- Returns of a load's parts. -/
def State.loadRets (s : State) (r : Req) (line : List Byte) (ts : DWord) : State :=
  r.parts.foldl (fun (s : State) p => s.partRet r (p.loaded line) true ts) s
/-- A load's line fills the L1 of a block that is still there (09 R246, R247, R250; 10 R276, R279, R286; log 46). -/
def State.fillFor (s : State) (r : Req) (ro : Bool) (line : List Byte) : State :=
  match s.resident? r.blk with
  | some k => if r.fills then s.l1Fill r.core (l1Pos r.evict (s.chainOf k)) ⟨r.line, 0, line, ro, k.launch, false⟩ else s
  | none => s
/-- An acknowledgement of a part; `l1` lets a line in the L1 take its bytes (09 R246). -/
def State.ackPart (s : State) (r : Req) (p : Part) (l1 : Bool) (ts : DWord) : State :=
  s.partRet r { p with fmask := if l1 then BitVec.ofNat 16 (2 ^ p.bytes - 1) else 0 } false ts
/-- How a request accesses its home. -/
def State.reqVia (s : State) (r : Req) : Via :=
  match s.blocks[r.blk]? with
  | some k => { s.viaOf k with evict := r.evict, code := r.code }
  | none => { Via.plain 0 with evict := r.evict, code := r.code }
/-- The persist tag of a part (10 R289). -/
def Part.tag (p : Part) (r : Req) : Option (Option (Nat × Nat) × Word) := if r.path == .pers then some (some (r.blk, p.tid), p.epoch) else none
/-- The agent of a persist write, as another package knows it. -/
def State.farTag (s : State) (t : Option (Option (Nat × Nat) × Word)) : Option (Option (Nat × Nat) × Word) :=
  t.map fun x => (x.1.map fun a => (a.1 + (s.pkg + 1) * 2 ^ 40, a.2), x.2)
/-- The parts of a store write every byte of the line. -/
def Req.full (r : Req) : Bool :=
  (List.range 128).all fun i => r.parts.any fun p => decide (p.off ≤ i) && decide (i < p.off + p.bytes)

/-! ### At a home of this package -/

/-- A line of a cache is written back, and with `inv` leaves it. -/
def cleaned (l : List SbLine) (a : Nat) (inv : Bool) : List SbLine :=
  l.map fun y => if y.base == alignDown a 512 then
    { y with dirty := y.dirty &&& ~~~lineBit a, valid := if inv then y.valid &&& ~~~lineBit a else y.valid } else y
/-- PWB at an SCM cache: a dirty line enters the Caravan queue and is clean, or with EVICT 7 leaves the cache (10 R290). -/
def State.pwbHome (s : State) (x : Nat) (inv : Bool) (agent : Nat × Nat) (epoch : Word) : State :=
  let l := s.homes.scm.getD (iodOf x) []
  let base := alignDown x 128
  let s := if l.any fun y => y.base == alignDown x 512 && y.dirty &&& lineBit x != 0
    then s.carEnter base (cellsOf base (Memory.bytes s.homes.mem base 128)) (some agent) epoch else s
  s.modHomes fun h => { h with scm := upd h.scm (iodOf x) fun l => cleaned l x inv }
/-- PWB where its line's writes are performed: at both pages while a migration copies, at the new one after its switch-over (09 R265, 11
R316). -/
def State.pwbAt (s : State) (a : Nat) (inv : Bool) (agent : Nat × Nat) (epoch : Word) : State :=
  (s.homesOf (.scm a)).foldl (fun (s : State) q => match q with
    | .scm x => s.pwbHome x inv agent epoch
    | _ => s) s
/-- CCTL.L2WB and L2INV at the home slice: the line is clean, and invalid where `inv` (10 R287). -/
def State.l2Clean (s : State) (a : Nat) (inv : Bool) : State :=
  match s.homeAt (.hbm a) with
  | .hbm x => s.modHomes fun h => { h with l2 := tset h.l2 (s.sliceOf x) (cleaned ((tget h.l2 (s.sliceOf x)).getD []) x inv) }
  | _ => s

/-- The place of an offset in a local line. -/
def Phys.plus (p : Phys) (n : Nat) : Phys :=
  match p with
  | .hbm a => .hbm (a + n) | .scm a => .scm (a + n) | p => p

/-- A read at the home that fills no L1 line, or an atomic. -/
def Req.passes (r : Req) : Bool :=
  match r.op with
  | .load => r.path == .pers
  | .atomic _ => true
  | _ => false
/-- An atomic's line leaves the core's L1, and a load that reads past the L1 leaves no older line to be found there (10 R281, 11 R298). -/
def State.passL1 (s : State) (r : Req) : State :=
  let own := fun (x : L1Line) => s.homeLine x.line == s.homeLine r.line && !x.ro
  if !r.passes then s else if r.op == .load then s.l1Stale r.core own else s.l1Drop r.core own
/-- A request performed at local memory. A seq_cst request takes one timestamp for all its lanes (log 67). -/
def State.performHere (s : State) (r : Req) (p : Phys) : State :=
  let s := s.passL1 r
  let via := s.reqVia r
  let a := match p with
    | .hbm a | .scm a => a
    | _ => 0
  let bad := s.poisoned (s.homeAddr a)
  let t := if r.order == .sc then s.stamp p r.clk else (s, 0)
  let s := t.1
  match r.op with
  | .load | .ldro =>
    if bad then r.parts.foldl (fun (s : State) x => s.partFault r x Code.memPoison) s
    else
      let x := s.homeRead p via 128
      let s := if r.path == .pers then x.1 else x.1.fillFor r (r.op == .ldro) x.2
      s.loadRets r x.2 t.2
  | .pref ro => if bad then s else let x := s.homeRead p via 128; x.1.fillFor r ro x.2
  | .store =>
    let s := if r.full then (s.seifFirst p).markPoison p false else s
    let s := r.parts.foldl (fun (s : State) x =>
      s.homeWrite (p.plus x.off) { via with persist := x.tag r } (toBytes x.data.toNat x.bytes)) s
    let s := if r.full && r.path == .pers then (s.homesOf p).foldl (fun (s : State) q => match q with
      | .scm x => s.carWhole x
      | _ => s) s else s
    r.parts.foldl (fun (s : State) x => s.ackPart r x true t.2) s
  | .atomic op => r.parts.foldl (fun (s : State) x =>
      if bad then s.partFault r x Code.memPoison
      else
        let y := s.homeAtomic (p.plus x.off) via op x.bytes x.data.toNat x.data2.toNat
        if x.dst.isSome then y.1.partRet r { x with data := BitVec.ofNat 128 y.2 } true t.2 else y.1.ackPart r x false t.2) s
  | .pwb inv => r.parts.foldl (fun (s : State) x =>
      (match p with
        | .scm a => s.pwbAt a inv (r.blk, x.tid) x.epoch
        | _ => s).ackPart r x false t.2) s
  | .l2wb => r.parts.foldl (fun (s : State) x => s.ackPart r x false t.2) (match p with
      | .hbm a => s.l2Clean a false
      | _ => s)
  | .l2inv => r.parts.foldl (fun (s : State) x => s.ackPart r x false t.2) (match p with
      | .hbm a => s.l2Clean a true
      | _ => s)

/-- A request performed at a device register; nothing while a write of it waits (10 R280). -/
def State.performMmio (s : State) (r : Req) (off : Nat) : Option State :=
  r.parts.foldl (fun (acc : Option State) x => acc.bind fun s =>
    match r.op with
    | .load => match s.mmioRead (off + x.off) x.bytes with
      | some v => some (s.partRet r { x with data := BitVec.ofNat 128 v } true (r.clk + 1))
      | none => some (s.partFault r x Code.physHole)
    | .store => match s.mmioWrite (off + x.off) x.bytes x.data.toNat with
      | some (some s) => some (s.ackPart r x false (r.clk + 1))
      | some none => none
      | none => some (s.partFault r x Code.physHole)
    | _ => some (s.ackPart r x false 0)) (some s)

/-- A request performed at a scratchpad; its block may have left meanwhile (10 R278). -/
def State.performSpad (s : State) (r : Req) (o : Nat) : State :=
  match s.resident? o with
  | none => r.parts.foldl (fun (s : State) x => s.partFault r x Code.spadBounds) s
  | some k =>
    let hc := ((s.cores[k.core]?).map (·.spadClk)).getD 0
    let ts := (if hc.toNat < r.clk.toNat then r.clk else hc) + 1
    let s := if r.order == .sc then s.modCore k.core fun c => { c with spadClk := ts } else s
    let s := if r.op == .store && r.full then s.modBlock o fun k => { k with spadPoison := k.spadPoison.filter (· != r.line) } else s
    r.parts.foldl (fun (s : State) x =>
      let off := 128 * r.line + x.off
      match r.op with
      | .load =>
        if k.spadPoison.contains r.line then s.partFault r x Code.memPoison
        else s.partRet r { x with data := BitVec.ofNat 128 (mergeFwd x.fmask x.fdata.toNat (Memory.read k.spad off x.bytes) x.bytes) } true ts
      | .store => (s.modBlock o fun k => k.spadPut off (toBytes x.data.toNat x.bytes)).ackPart r x true ts
      | _ => s.ackPart r x false ts) s

/-! ### At a home of another package (17 R473, R474) -/

/-- The packet of one part of a request; a seq_cst access brings its clock (11 R305). -/
def State.farPacket (s : State) (r : Req) (x : Part) (rid : Nat) : LinkPacket :=
  let a := 128 * r.line % 2 ^ 42 + x.off
  let clk := if r.order == .sc then some r.clk else none
  match r.op with
  | .store => .write rid a (toBytes x.data.toNat x.bytes) (s.farTag (x.tag r)) clk
  | .atomic op => .atomic rid a op x.bytes (x.data.setWidth 64) (x.data2.setWidth 64) false clk
  | .pwb inv => .pwb rid a inv (r.blk + (s.pkg + 1) * 2 ^ 40, x.tid) x.epoch
  | .l2wb => .l2line rid (a - x.off) false
  | .l2inv => .l2line rid (a - x.off) true
  | _ => if s.reqMmio r then .read rid a x.bytes clk else .read rid (a - x.off) 128 clk
/-- Ask for every part in one flit, so that the home performs them one after another; a load asks once for its line, and a device
register for its own bytes (10 R273). -/
def State.askParts (s : State) (r : Req) (parts : List Part) : State × List (Part × RAns) :=
  let q := s.askAll (128 * r.line) (parts.map fun x => ([0, r.id, x.tid], s.farPacket r x))
  (q.1, parts.zip q.2)
/-- The request reads a whole line, once for all its parts. -/
def State.asksOnce (s : State) (r : Req) : Bool :=
  (r.op == .load || r.op == .ldro || (match r.op with
    | .pref _ => true
    | _ => false)) && !s.reqMmio r
/-- What the answers to a request leave, with the timestamp that its home gave (11 R305). -/
def State.farAnswered (s : State) (r : Req) (as : List (Part × RAns)) : State :=
  let s := s.passL1 r
  let s := if r.code && (match r.op with
    | .store | .atomic _ => true
    | _ => false) then s.mirDrop (fun _ => false) (· == 128 * r.line / 2 ^ 16) else s
  let ts := s.farTs [0, r.id]
  let s := if s.asksOnce r then
    match (as.head?).map (·.2) with
    | some (.data b) =>
      let line := (b ++ List.replicate 128 0).take 128
      let s := if r.path == .pers then s else s.fillFor r (r.op == .ldro || r.op == .pref true) line
      (match r.op with
        | .pref _ => s
        | _ => s.loadRets r line ts)
    | some .lost => r.parts.foldl (fun (s : State) x => s.partFault r x Code.linkLost) s
    | _ => match r.op with
      | .pref _ => s
      | _ => r.parts.foldl (fun (s : State) x => s.partFault r x Code.memPoison) s
  else as.foldl (fun (s : State) x => match x.2 with
    | .data b => (match r.op with
      | .load => s.partRet r { x.1 with data := BitVec.ofNat 128 (ofBytes b) } true ts
      | .atomic _ => if x.1.dst.isSome then s.partRet r { x.1 with data := BitVec.ofNat 128 (ofBytes b) } true ts else s.ackPart r x.1 false ts
      | .store => s.ackPart r x.1 (!s.reqMmio r) ts
      | _ => s.ackPart r x.1 false ts)
    | .lost => s.partFault r x.1 Code.linkLost
    | .poison => s.partFault r x.1 Code.memPoison
    | .pending => s) s
  s.reqDone r
/-- A request to another package: sent, and when every part is answered, done. -/
def State.performFar (s : State) (r : Req) : State :=
  let hole := s.reqMmio r && r.parts.any fun x => (regsIn regAt (128 * r.line % 2 ^ 42 - 0x08000000000 + x.off) x.bytes).isEmpty
  match r.op with
  | .l2wb | .l2inv =>
    if 0x06000000000 ≤ 128 * r.line % 2 ^ 42 then (r.parts.foldl (fun (s : State) x => s.ackPart r x false 0) s).reqDone r
    else
      let q := s.askParts r r.parts
      if q.2.any fun x => x.2 == .pending then q.1 else q.1.farAnswered r q.2
  | _ =>
    if hole then (r.parts.foldl (fun (s : State) x => s.partFault r x Code.physHole) s).reqDone r
    else
      let q := s.askParts r (if s.asksOnce r then r.parts.take 1 else r.parts)
      if q.2.any fun x => x.2 == .pending then q.1 else q.1.farAnswered r q.2
/-- An answer has arrived: the thread's request that asked takes it at once, and an L1 takes what a sequencer's KLD or KST of it brings,
so that the answers of one home take effect in the order in which it performed the accesses (11 R297, 14 R395). -/
def State.farArrives (s : State) (r : Remote) (data : List Byte) (poison : Bool) : State :=
  match r.who, r.packet with
  | 0 :: n :: _, _ => match s.homes.reqs.find? fun r => r.id == n with
    | some r => s.performFar r
    | none => s
  | [1, b, 7], .read _ a n _ => match s.resident? b with
    | some k => if poison || !r.fills || n != 128 then s
      else s.l1Fill k.core 0 ⟨(r.pkg * 2 ^ 42 + a) / 128, 0, (data ++ List.replicate 128 0).take 128, false, k.launch, false⟩
    | none => s
  | [1, b, 7], .write _ a bs _ _ => match s.resident? b with
    | some k => s.l1Store k.core (r.pkg * 2 ^ 42 + a) bs
    | none => s
  | _, _ => s

/-! ### HOME_ACCESS and CARAVAN_ENTRY -/

/-- Perform a request at its point of coherence. -/
def State.perform (s : State) (r : Req) : State :=
  match r.spadBlk with
  | some o => (s.performSpad r o).reqDone r
  | none => match s.reqPhys r with
    | .hbm a => (s.performHere r (.hbm a)).reqDone r
    | .scm a => (s.performHere r (.scm a)).reqDone r
    | .mmio off => match s.performMmio r off with
      | some s => s.reqDone r
      | none => r.parts.foldl (fun (s : State) x => s.mmioWait (off + x.off) x.bytes x.data.toNat) s
    | .remote _ => s.performFar r
    | .hole => (r.parts.foldl (fun (s : State) x => s.partFault r x Code.physHole) s).reqDone r
/-- HOME_ACCESS: a request that is no persist write of this package. -/
def execHomeAccess (n : Nat) (s : State) : Res :=
  .next <| match s.homes.reqs.find? fun r => r.id == n with
    | some r => if s.homeReady r && !s.reqPersist r then s.perform r else s
    | none => s
/-- CARAVAN_ENTRY: a persist write enters its queue (09 R256, 10 R288–R290). -/
def execCaravanEntry (n : Nat) (s : State) : Res :=
  .next <| match s.homes.reqs.find? fun r => r.id == n with
    | some r => if s.homeReady r && s.reqPersist r then s.perform r else s
    | none => s

/-! ### Returns and acknowledgements (04 R118–R122, 10 R274) -/

def State.dropRet (s : State) (n : Nat) : State := s.modHomes fun h => { h with rets := h.rets.filter fun r => r.id != n }
/-- A load or returning atomic of the thread that issued earlier has not landed. -/
def State.earlierLoad (s : State) (r : Ret) : Bool :=
  let mine := fun (b : Nat) (p : Part) => b == r.blk && p.tid == r.part.tid && decide (p.ord < r.part.ord)
  (s.homes.reqs.any fun x => (match x.op with
    | .load | .ldro => true
    | .atomic _ => true
    | _ => false) && x.parts.any fun p => mine x.blk p && (match x.op with
      | .atomic _ => p.dst.isSome
      | _ => true)) ||
  s.homes.rets.any fun x => x.load && mine x.blk x.part
/-- An earlier response of the same home to the core has not arrived, but for a load that waits for its thread's earlier ones (11
R297; log 67). -/
def State.earlierHome (s : State) (r : Ret) : Bool :=
  r.home.isSome && s.homes.rets.any fun x => decide (x.id < r.id) && x.core == r.core && x.home == r.home && !(x.load && s.earlierLoad x)
/-- The hold that an access put on its thread ends, the core takes the timestamp, and a wide acquire takes effect (09 R246; 10
R276; 11 R305). -/
def State.landed (s : State) (r : Ret) (acquires : Bool) : State :=
  let hold := b2n (r.order == .sc || (acquires && r.order == .acq))
  let s := s.modThread r.blk r.part.tid fun t => { t with blocked := t.blocked - hold }
  let s := if r.order == .sc then s.clkReturn r.core r.clk else s
  if acquires && (r.order == .acq || r.order == .sc) then s.acquireL1 r.core r.scope else s
/-- The thread a return is for, while its slot's tag is the return's. -/
def State.retThread (s : State) (r : Ret) : Option Thread :=
  match s.resident? r.blk with
  | some k => (k.threads[r.part.tid]?).filter fun t => t.slotTag == r.part.slot && t.live
  | none => none
/-- RETURN_LANDING: the registers of a fatally halted block are frozen (04 R126). -/
def execReturnLanding (n : Nat) (s : State) : Res :=
  .next <| match s.homes.rets.find? fun r => r.id == n with
    | none => s
    | some r =>
      if !r.load || s.earlierLoad r || s.earlierHome r then s
      else
        let s := s.dropRet n
        let p := r.part
        let drop := fun (s : State) => (s.modCore r.core fun c => { c with dropcnt := satAdd c.dropcnt 1 }).releaseHeld r.core
        match s.retThread r with
        | some t =>
          let fall := fun (s : State) => s.modThread r.blk p.tid fun t => { t with cntLd := t.cntLd - 1 }
          if p.grant.isSome && p.grant != t.grantTag (p.dst.getD 0) then drop ((fall s).landed r true)
          else if ((s.blocks[r.blk]?).map Block.dead).getD false then ((fall s).landed r true).releaseHeld r.core
          else
            let s := match p.dst with
              | some d => s.modThread r.blk p.tid fun t => t.setRegW d (max 1 (p.bytes / 4)) p.data.toNat
              | none => s
            (fall s).landed r true
        | none => drop s
/-- The L1 line takes a store's bytes (09 R246; log 32). -/
def State.l1Update (s : State) (r : Ret) : State :=
  if r.spad || r.part.fmask = 0 then s
  else s.l1Take r.core r.line r.part.off r.part.fmask (toBytes r.part.data.toNat r.part.bytes)
/-- STORE_ACK: an atomic without a return is acknowledged here as well. -/
def execStoreAck (n : Nat) (s : State) : Res :=
  .next <| match s.homes.rets.find? fun r => r.id == n with
    | none => s
    | some r =>
      if r.load || s.earlierHome r then s
      else
        let s := (s.dropRet n).l1Update r
        match s.retThread r with
        | some _ => (s.modThread r.blk r.part.tid fun t => { t with cntSt := t.cntSt - 1 }).landed r (r.atom && r.order != .rel)
        | none => s

/-! ### Page walks (09 R259, 08 R214) -/

/-- The bundle in which a thread stands at its memory instruction. -/
def State.bundleOf (s : State) (b tid : Nat) : Option Bundle :=
  s.bundles.find? fun x => x.blk == b && x.lanes.contains tid && ((s.thread? b tid).map (·.status)) == some .issued
/-- A lane's page is absent: it parks awaiting replay (08 R214). Access code 16 marks a lane that only waits with the one that
faulted, and writes no record. -/
def State.walkAbsent (s : State) (w : Nat × Nat × Nat × Nat) : State :=
  let acc : Acc := match w.2.2.2 with
    | 1 => .write | 2 => .atomic | 3 => .fetch | _ => .read
  if w.2.2.2 = 16 then (s.abortRegion w.1 w.2.1).modThread w.1 w.2.1 fun t => { t.toReplay with status := .parked (.replay w.2.2.1) }
  else s.pageFault w.1 w.2.1 w.2.2.1 acc
/-- In a meet bundle the rest of the octet aborts with the lanes that faulted (01 R42). -/
def State.meetAbort (s : State) (bd : Bundle) : State :=
  match s.octetPark bd with
  | some (pc, _) => if bd.meet then s.replayOctet bd (s.lanesIn bd) pc else s
  | none => s
/-- Bundles whose lanes have all left are dropped (log 47). -/
def State.sweepBundles (s : State) (b : Nat) (core : Nat) : State :=
  (s.bundles.filter fun x => x.blk == b && (s.lanesIn x).isEmpty).foldl (fun (s : State) bd => s.dropBundle bd core) s
/-- A present entry forbids a lane's access, or the entry's package no longer answers. -/
def State.walkForbids (s : State) (code : Nat) (w : Nat × Nat × Nat × Nat) : State :=
  match s.bundleOf w.1 w.2.1 with
  | some bd => if w.2.2.2 = 16 then s else s.haltLane bd w.2.1 code (BitVec.ofNat 64 w.2.2.1)
  | none => s
/-- TLB_WALK: a walk of the CTX that it read when it started ends (15 R422): the entry fills the TLB, or its lanes fault, each with its
own record, before the rest of a meet bundle's octet aborts with them. -/
def execTlbWalk (n : Nat) (s : State) : Res :=
  .next <| match s.homes.walks.find? fun w => w.id == n with
    | none => s
    | some w =>
      let fin := fun (s : State) => s.modHomes fun h => { h with walks := h.walks.filter fun x => x.id != n }
      let sweep := fun (s : State) => w.who.foldl (fun (s : State) x => s.sweepBundles x.1 w.core) s
      let fin := fun (u : State) => fin (u.walkTouch w.root w.ctx w.va)
      match s.walkFrom w.root w.ctx w.va with
      | .leaf e => fin (s.tlbFill w.core e)
      | .wait ea => s.askWalk ea
      | .absent =>
        let bundles := w.who.filterMap fun x => s.bundleOf x.1 x.2.1
        let lanes := w.who.filter fun x => (s.bundleOf x.1 x.2.1).isSome && ((s.blocks[x.1]?).map (·.halt.isNone)).getD false
        let s := lanes.foldl (fun (s : State) x => s.walkAbsent x) s
        let s := if lanes.isEmpty then s else bundles.foldl (fun (s : State) bd => s.meetAbort bd) s
        sweep (fin s)
      | .prot => sweep (fin (w.who.foldl (fun (s : State) x => s.walkForbids Code.protFault x) s))
      | .lost => sweep (fin (w.who.foldl (fun (s : State) x => s.walkForbids Code.linkLost x) s))

end Sys2Proof.Machine
end

