-- ==== Sys2Proof/Machine/Uniform.lean ====
section
/-! DEFINITION. The K instructions, loops and memory accesses of the uniform sequencer, SIGNAL, LAUNCH, COLL and its completion
(spec/14 R391–R396, R417, R418, spec/16 R448–R450, spec/11 R305, R312). -/

namespace Sys2Proof.Machine

/-! ### KRDSR -/

/-- 04 R124. -/
def execKrdsr (g : Guard) (kd : Fin 128) (n : BitVec 12) (s : State) : Res := .next (s.kOp g kd fun k => s.sysread k none n.toNat)

/-! ### Branches and loops (14 R393, R394) -/

/-- The header so many words away from that of the clause. -/
def Seq.target (q : Seq) (imm : BitVec 32) : DWord := q.hdr + 8 * imm.signExtend 64
def execKbra (g : Guard) (imm : BitVec 32) (s : State) : Res := .next (s.onSeq g fun b k => s.seqGoto b (k.seq.target imm))
def execKloop (ka : Fin 128) (imm : BitVec 32) (s : State) : Res :=
  .next <| s.onSeq 0 fun b k =>
    let n := k.kreg ka.val
    if n = 0 then s.seqGoto b (k.seq.target imm)
    else if 4 ≤ k.seq.loops.length then s.haltSeq b Code.loopNest 0
    else (s.modSeq b fun q => { q with loops := q.loops ++ [(q.after, n)] }).seqGoto b k.seq.after
/-- The uniform stream ends (01 R30); a cluster barrier waits for it no more (16 R447). -/
def State.seqEnd (s : State) (b : Nat) (k : Block) : State :=
  (s.modSeq b fun q => { q with ended := true, wait := .none }).testSbar k.launch k.unit
def execKend (s : State) : Res :=
  .next <| s.onSeq 0 fun b k =>
    match k.seq.loops.getLast? with
    | none => s.seqEnd b k
    | some (start, n) =>
      let rest := k.seq.loops.dropLast
      if n - 1 = 0 then (s.modSeq b fun q => { q with loops := rest }).seqGoto b k.seq.after
      else (s.modSeq b fun q => { q with loops := rest ++ [(start, n - 1)] }).seqGoto b start

/-! ### Memory accesses of the sequencer (14 R395; 16 R448; 10 R280) -/

/-- An address that reaches a device register: of this package by its offset, of another one by its physical address. -/
inductive DevAt where
  | here (off : Nat) | far (pa : Nat)
  deriving DecidableEq, Repr
def State.seqDev (s : State) (k : Block) (va : Nat) (a : Acc) : Option DevAt :=
  if s.walkFull (some k.core) (s.ctxOf k) va then none
  else match s.xlateAt (some k.core) (s.ctxOf k) va a with
  | .ok pa _ => match s.phys pa with
    | .mmio off => some (.here off)
    | .remote _ => match localPhys (pa % 2 ^ 42) with
      | .mmio _ => some (.far pa)
      | _ => none
    | _ => none
  | _ => none
/-- A request to a device register of another package, which assigns it (09 R257), or one word there. -/
def State.seqFar (s : State) (b va pa n : Nat) (mk : Nat → LinkPacket) (go : State → List Byte → State) : State :=
  if 0x08000000000 ≤ pa % 2 ^ 42 && pa % 2 ^ 42 < 0x10000000000 && (regsIn regAt (pa % 2 ^ 42 - 0x08000000000) n).isEmpty then
    s.haltSeq b Code.physHole (BitVec.ofNat 64 va)
  else match s.ask [1, b] pa mk with
  | (s, .data bs) => go s bs
  | (s, .pending) => s
  | (s, .lost) => (s.asked [1, b]).haltSeq b Code.linkLost (BitVec.ofNat 64 va)
  | (s, .poison) => (s.asked [1, b]).haltSeq b Code.memPoison (BitVec.ofNat 64 va)
/-- The clock that a packet of a seq_cst access brings (11 R305). -/
def packetClock : LinkPacket → Option DWord
  | .read _ _ _ c | .write _ _ _ _ c | .atomic _ _ _ _ _ _ _ c => c
  | _ => none
/-- The clock that a seq_cst access of the sequencer brings to its home: the core's as the access issued (11 R305). -/
def State.seqClk (s : State) (b : Nat) (k : Block) (o : Order) : Option DWord :=
  if o == .sc then some (((s.homes.remotes.find? fun r => r.who.take 2 == [1, b]).bind fun r => packetClock r.packet).getD (((s.cores[k.core]?).map (·.clk)).getD 0))
  else none
/-- The timestamp of a seq_cst access of the sequencer at its home, or as another package's home has given it (11 R305). -/
def State.seqStamp (s : State) (b : Nat) (k : Block) (o : Order) (va : Nat) : State :=
  match s.seqClk b k o with
  | none => s
  | some clk => match s.xlateAt (some k.core) (s.ctxOf k) va .read with
    | .ok pa _ => match s.phys pa with
      | .remote _ => s.clkReturn k.core (s.farTs [1, b])
      | p => let t := s.stamp p clk; t.1.clkReturn k.core t.2
    | _ => s
/-- The end of an access of the sequencer: its page is used in the TLB, and the answers to it are forgotten (09 R259). -/
def State.seqDone (s : State) (b : Nat) (k : Block) (va : Nat) : State := ((s.tlbTouch (some k.core) (s.ctxOf k) va).asked [1, b]).seqNext b
/-- An effective address of KLD, KST, LAUNCH and COLL. -/
def Block.kaddr (k : Block) (ka : Fin 128) (imm : BitVec 32) : Nat := (k.kreg ka.val + imm.signExtend 64).toNat

/-- How KLD and KST access memory. -/
def State.seqMem (s : State) (b : Nat) (k : Block) (o : Order) : Eng :=
  { s.seqEng b with who := [1, b, 7], clk := s.seqClk b k o, cached := true }
/-- The 52-bit address of memory that an access of the sequencer reaches, and whether it lies on this package. -/
def State.seqPa (s : State) (e : Eng) (va : Nat) (a : Acc) : Option (Nat × Bool) :=
  match s.place1 e va a with
  | .here (.hbm x) _ | .here (.scm x) _ => some (s.globalPa x, true)
  | .there pa _ => some (pa, false)
  | _ => none
/-- The L1 line that a KLD hits, as a thread's LD does (09 R247, 11 R299, 14 R395). -/
def State.seqLine (s : State) (k : Block) (o : Order) (sc : Scope) (pa : Nat) : Option L1Line :=
  (s.l1Line k.core (pa / 128)).filter fun x => !x.ro && !x.stale && (o == .rlx || (o == .acq && !Scope.wide sc))
/-- A KLD from memory: it hits the L1, or reads its line at the home and fills it (14 R395, 10 R276). -/
def State.seqLoad (s : State) (b : Nat) (k : Block) (o : Order) (sc : Scope) (va : Nat) (fin : State → Nat → State) : State :=
  let e := s.seqMem b k o
  let word := fun (l : List Byte) => ofBytes ((l.drop (va % 128)).take 8)
  match s.seqPa e va .read with
  | none => let r := s.readKeep e va 8; r.1.seqAns b .read r.2.1 (fin r.1 (ofBytes r.2.2))
  | some (pa, here) => match s.seqLine k o sc pa with
    | some l => fin (s.l1Hit k.core 0 l) (word l.data)
    | none =>
      let r := s.readKeep e (alignDown va 128) 128
      let ans := match r.2.1 with
        | .fatal c _ => .fatal c va
        | x => x
      r.1.seqAns b .read ans (fin (if here then r.1.l1Fill k.core 0 ⟨pa / 128, 0, r.2.2, false, k.launch, false⟩ else r.1) (word r.2.2))

/-- KLD (14 R395). -/
def execKld (g : Guard) (kd ka : Fin 128) (o : Order) (sc : Scope) (imm : BitVec 32) (s : State) : Res :=
  .next <| s.onSeq g fun b k =>
    let va := k.kaddr ka imm
    let fin := fun (s : State) (v : Nat) =>
      let s := s.seqStamp b k o va
      let s := if o == .rlx then s else s.acquireL1 k.core sc
      (s.modBlock b fun k => k.setK kd.val (BitVec.ofNat 64 v)).seqDone b k va
    if va % 8 != 0 then s.haltSeq b Code.misaligned (BitVec.ofNat 64 va)
    else match s.seqDev k va .read with
      | some (.here off) => match s.mmioRead off 8 with
        | some v => fin s v
        | none => s.haltSeq b Code.physHole (BitVec.ofNat 64 va)
      | some (.far pa) => s.seqFar b va pa 8 (fun rid => .read rid (pa % 2 ^ 42) 8 (s.seqClk b k o)) fun s bs => fin s (ofBytes bs)
      | none => s.seqLoad b k o sc va fin

/-- A store of the sequencer to memory or a device register; a line in its core's L1 takes the bytes (14 R395, 10 R277). -/
def State.seqWrite (s : State) (b : Nat) (k : Block) (va : Nat) (bs : List Byte) (o : Order) (fin : State → State) : State :=
  match s.seqDev k va .write with
  | some (.here off) => match s.mmioWrite off bs.length (ofBytes bs) with
    | some (some s) => fin s
    | some none => s.mmioWait off bs.length (ofBytes bs)
    | none => s.haltSeq b Code.physHole (BitVec.ofNat 64 va)
  | some (.far pa) => s.seqFar b va pa bs.length (fun rid => .write rid (pa % 2 ^ 42) bs none (s.seqClk b k o)) fun s _ => fin s
  | none =>
    let e := s.seqMem b k o
    let w := s.writeKeep e va bs
    w.1.seqAns b .write w.2 (fin (match s.seqPa e va .write with
      | some (pa, true) => w.1.l1Store k.core pa bs
      | _ => w.1))
/-- KST: its earlier writes are all acknowledged, so a release has nothing to wait for. -/
def execKst (g : Guard) (ks ka : Fin 128) (o : Order) (_ : Scope) (imm : BitVec 32) (s : State) : Res :=
  .next <| s.onSeq g fun b k =>
    let va := k.kaddr ka imm
    if va % 8 != 0 then s.haltSeq b Code.misaligned (BitVec.ofNat 64 va)
    else s.seqWrite b k va (toBytes (k.ka ks) 8) o fun s => (s.seqStamp b k o va).seqDone b k va

/-! ### SIGNAL (16 R448) -/

/-- The atomic of SIGNAL.ADD and SIGNAL.MAXU, by its opcode (10 R282). -/
def sigAtom : SigOp → Option Nat
  | .set => none
  | .add => some 0x85
  | .maxu => some 0x89
/-- An atomic of the sequencer on a 32-bit word. -/
def State.seqAtomic (s : State) (b : Nat) (k : Block) (va op v : Nat) : State :=
  let e := s.seqEng b
  let halt := fun (s : State) (c : Nat) => s.haltSeq b c (BitVec.ofNat 64 va)
  if (s.seqDev k va .atomic).isSome then halt s Code.protFault
  else match s.place1 e va .atomic with
    | .here p code =>
      if s.partPoisoned (.here p code) then halt s Code.memPoison
      else
        let s := (s.homeAtomic p { e.via with code := code } op 4 v 0).1
        (match p with
          | .hbm a | .scm a => s.engDrop e (s.globalPa a)
          | _ => s).seqDone b k va
    | .there pa code => s.seqFar b va pa 4 (fun rid => .atomic rid (pa % 2 ^ 42) op 4 (BitVec.ofNat 64 v) 0 false none) fun s _ =>
        ((if code then s.mirDrop (fun _ => false) (· == pa / 2 ^ 16) else s).engDrop e pa).seqDone b k va
    | .walk ea => s.askWalk ea
    | .stop a => s.seqAns b .atomic a s
/-- The form of a thread's SIGNAL: a SYSTEM release that waits for the thread's earlier writes. -/
def sigMem (g : Guard) (a : SigAddr) (o : SigOp) : MemOp :=
  { guard := g, addr := (match a with
      | .v n => n.val
      | .k _ => 0), off := 0, bytes := 4, space := .virt .gen (if o == .set then .write else .atomic), single := true, ld := false, st := true
    waitW := true, need := (match a with
      | .v n => n.val + 3
      | .k _ => 0), q := false, kaddr := (match a with
      | .v _ => none
      | .k m => some m.val) }
/-- SIGNAL. -/
def execSignal (g : Guard) (a : SigAddr) (o : SigOp) (s : State) : Res :=
  let ofK := fun (k : Block) (m : Fin 128) => ((k.kreg (m.val + 1)).setWidth 32 : Word).toNat
  .next <| s.inStream g
    (fun b k => match a with
      | .v _ => s.illegalStream
      | .k m =>
        let va := k.ka m
        if va % 4 != 0 then s.haltSeq b Code.misaligned (BitVec.ofNat 64 va)
        else match sigAtom o with
          | none => s.seqWrite b k va (toBytes (ofK k m) 4) .rlx fun s => s.seqDone b k va
          | some op => s.seqAtomic b k va op (ofK k m))
    (s.memOp (sigMem g a o) fun s bd k ls =>
      let op : ReqOp := match sigAtom o with
        | none => .store
        | some x => .atomic x
      let r := ls.foldl (fun (acc : State × List (Tgt × Part)) l =>
        match acc.1.thread? bd.blk l.1 with
        | none => acc
        | some t =>
          let v := match a with
            | .v n => (t.reg (n.val + 2)).toNat
            | .k m => ofK k m
          let s := acc.1.modThread bd.blk l.1 fun t => { t with cntSt := t.cntSt + 1 }
          let s := if o == .set then s else s.l1Drop k.core fun x => x.line == l.2.2.place.1 && !x.ro
          (s, acc.2 ++ [(l.2.2, { mkPart acc.1 bd t l.1 l.2.1 l.2.2 4 none with data := BitVec.ofNat 128 v })])) (s, [])
      r.1.sendReqs bd k ⟨op, .gen, 0, .rel, .system⟩ r.2)

/-! ### LAUNCH (14 R417) -/

/-- LAUNCH hands the child record to the aggregator, once it accepts it. -/
def execLaunch (g : Guard) (ka : Fin 128) (imm : BitVec 32) (s : State) : Res :=
  .next <| s.onSeq g fun b k =>
    let va := k.kaddr ka imm
    if va % 64 != 0 then s.haltSeq b Code.misaligned (BitVec.ofNat 64 va)
    else
      let r := s.readKeep (s.seqEng b) va 256
      r.1.seqAns b .read r.2.1
        (let a := r.1.aggregate b k va r.2.2
         if a.2 then (a.1.asked [1, b]).seqNext b else a.1)

/-! ### COLL (14 R418, 16 R449, R450) -/

/-- Bytes of an element of a collective, by its type code; nothing for a code outside the table. -/
def collSize (ty : Nat) : Option Nat :=
  match ty with
  | 0 | 8 | 9 => some 4
  | 1 | 2 => some 2
  | 10 | 11 => some 8
  | _ => none
/-- The descriptor keeps the table of R418. -/
def collOk (bs : List Byte) : Bool :=
  let op := rdN bs 0 1
  let np := rdN bs 8 4
  match collSize (rdN bs 2 1) with
  | none => false
  | some sz =>
    decide (op ≤ 3) && decide (rdN bs 1 1 ≤ 2) && (op == 0 || op == 2 || rdN bs 1 1 == 0) && decide (rdN bs 3 1 < 32) &&
    decide (2 ≤ np) && decide (np ≤ 65536) && decide (rdN bs 4 4 < np) && decide (rdN bs 0xC 4 < np) && (op == 3 || rdN bs 0xC 4 == 0) &&
    rdN bs 0x18 8 % sz == 0 && rdN bs 0x20 8 % sz == 0 && decide (1 ≤ rdN bs 0x28 8) && decide (rdN bs 0x28 8 ≤ 2 ^ 32) && zeroIn bs 0x30 0x40
/-- Elements of a rank's send buffer that are read, and of its receive buffer that are written. -/
def collSend (op rank npart root count : Nat) : Nat := if op = 2 then npart * count else if op = 3 && rank != root then 0 else count
def collRecv (op npart count : Nat) : Nat := if op = 1 then npart * count else count

/-- The engine takes a rank's descriptor: the next COLL of that rank of the group. -/
def State.addJoin (s : State) (j : Join) : State × Nat :=
  let n := ((s.coll.counts.find? fun x => x.1 == j.group && x.2.1 == j.rank).map (·.2.2)).getD 0
  ({ s with coll := ⟨s.coll.joins ++ [{ j with ordinal := n }],
      (j.group, j.rank, n + 1) :: s.coll.counts.filter fun x => !(x.1 == j.group && x.2.1 == j.rank)⟩ }, n)
/-- The packages that the routing table lists, but this one. -/
def State.peers (s : State) : List Nat :=
  (s.regs.routes.filter fun r => r.1 != s.pkg && r.2.getLsbD 24 && r.2.toNat % 2 ^ 24 != 0).map (·.1)
/-- The port of a package's collective traffic. -/
def State.collPort (s : State) (p : Nat) : Nat := s.portOf (p * 2 ^ 42)
/-- Every peer's port can take a flit. -/
def State.peersOpen (s : State) : Bool :=
  s.peers.all fun p => let x := s.ports.getD (s.collPort p) Port.reset; !x.down && decide (x.unack.length < 512)
/-- Tell the other packages of a rank's COLL, on virtual channel 2. -/
def State.tellPeers (s : State) (j : Join) : State :=
  s.peers.foldl (fun (s : State) p => s.sendFlit (s.collPort p) 2
    [.collJoin (BitVec.ofNat 64 j.group) j.rank j.npart j.op j.red j.ty j.root j.count j.send]) s
/-- COLL: the descriptor is read and checked, the send buffer read, and the rank joins (log 66). -/
def execColl (g : Guard) (ka : Fin 128) (imm : BitVec 32) (s : State) : Res :=
  .next <| s.onSeq g fun b k =>
    let va := k.kaddr ka imm
    if va % 64 != 0 then s.haltSeq b Code.collDesc (BitVec.ofNat 64 va)
    else
      let r := s.readKeep (s.seqEng b) va 64
      r.1.seqAns b .read r.2.1
        (let d := r.2.2
         if !collOk d then (r.1.asked [1, b]).haltSeq b Code.collDesc (BitVec.ofNat 64 va)
         else if k.cntCp = 63 || !r.1.peersOpen then r.1
         else
           let sz := (collSize (rdN d 2 1)).getD 4
           let x : Join := ⟨rdN d 0x10 8, rdN d 4 4, 0, rdN d 8 4, rdN d 0 1, rdN d 1 1, rdN d 2 1, rdN d 0xC 4, rdN d 0x28 8, [], none, false⟩
           let p := r.1.readKeep { r.1.seqEng b with who := [1, b, 2] } (rdN d 0x18 8) (sz * collSend x.op x.rank x.npart x.root x.count)
           p.1.seqAns b .read p.2.1
             (let (s, id) := p.1.newId
              let j := { x with send := p.2.2, owner := some (b, id) }
              let a := s.addJoin j
              let bar := if nbit (rdN d 3 1) 4 then some (rdN d 3 1 % 16) else none
              let c : Coll := ⟨id, x.op, x.red, x.ty, bar, x.rank, x.npart, x.root, BitVec.ofNat 64 x.group, BitVec.ofNat 64 (rdN d 0x18 8),
                BitVec.ofNat 64 (rdN d 0x20 8), x.count, a.2, none⟩
              (((a.1.asked [1, b]).tellPeers j).modBlock b fun k => { k with cntCp := k.cntCp + 1, colls := k.colls ++ [c] }).seqNext b))

/-- The reduction of two elements (14 R418). -/
def collFn (red ty a b : Nat) : Nat :=
  let fl := fun (f : Fmt) => match red with
    | 0 => (f.add .rne (f.decode a) (f.decode b)).1
    | 1 => (f.minMax false a b).1
    | _ => (f.minMax true a b).1
  let int := fun (w : Nat) (sg : Bool) =>
    let lt := fun (x y : Nat) => if sg then decide (sval w x < sval w y) else decide (x < y)
    match red with
    | 0 => (a + b) % 2 ^ w
    | 1 => if lt b a then b else a
    | _ => if lt a b then b else a
  match ty with
  | 0 => fl fp32 | 1 => fl fp16 | 2 => fl bf16
  | 8 => int 32 true | 9 => int 32 false | 10 => int 64 true | _ => int 64 false
/-- Element `i` of a buffer. -/
def elemAt (sz : Nat) (bs : List Byte) (i : Nat) : Nat := rdN bs (sz * i) sz
/-- Reduce over the ranks in an order: the spec leaves the order open (00 R7, 11 R312, 14 R418), and the model combines the
contributions one after another, in one order for every element (log 78). -/
def reduceIn (red ty : Nat) : List Nat → Nat
  | [] => 0
  | x :: xs => xs.foldl (collFn red ty) x
/-- The bytes a rank's receive buffer takes, the joins given in the order of combination. -/
def collBytes (j : Join) (js : List Join) : List Byte :=
  let sz := (collSize j.ty).getD 4
  let n := j.count
  let red := fun (lo : Nat) => (List.range n).flatMap fun i => toBytes (reduceIn j.red j.ty (js.map fun q => elemAt sz q.send (lo + i))) sz
  match j.op with
  | 0 => red 0
  | 1 => (js.mergeSort fun a b => decide (a.rank ≤ b.rank)).flatMap (·.send)
  | 2 => red (j.rank * n)
  | _ => ((js.find? fun q => q.rank == j.root).map (·.send)).getD []
/-- Two ranks' descriptors disagree, or name one rank twice. -/
def Join.clash (a b : Join) : Bool :=
  a.op != b.op || a.red != b.red || a.ty != b.ty || a.count != b.count || a.npart != b.npart || a.root != b.root
/-- The free order in which contributions are combined (11 R312): by a free value of each rank. -/
def freeOrder (fresh : Nat) (js : List Join) : List Join :=
  js.mergeSort fun a b => decide ((Config.freeValue (fresh + a.rank)).toNat ≤ (Config.freeValue (fresh + b.rank)).toNat)
/-- The collective of a block has ended: its engine forgets it, and the joins of a group that every rank here has finished. -/
def State.collGone (s : State) (b n : Nat) : State :=
  let s := s.modBlock b fun k => { k with colls := k.colls.filter fun c => c.id != n }
  let js := s.coll.joins.map fun j => if j.owner == some (b, n) then { j with fin := true } else j
  let whole := fun (j : Join) => js.all (fun x => x.group != j.group || x.ordinal != j.ordinal || x.owner.isNone || x.fin) &&
    countp js (fun x => x.group == j.group && x.ordinal == j.ordinal) == j.npart
  ({ s with coll := { s.coll with joins := js.filter fun j => !whole j } }).asked [5, b, n]
/-- Another agent's unfinished COLL of the same rank repeats it. -/
def Join.repeats (j x : Join) : Bool :=
  x.group == j.group && x.rank == j.rank && x.owner != j.owner && !x.fin && (x.owner.map (·.1)) != (j.owner.map (·.1))
/-- COLL_COMPLETION: every rank has joined; the receive buffer is written, the rank's core acquires at POD scope (11 R300, R312), the
barrier is subtracted, and CNT.CP falls. -/
def execCollCompletion (b n : Nat) (s : State) : Res :=
  .next <| match s.resident? b with
    | none => s
    | some k => match k.colls.find? fun c => c.id == n, s.coll.joins.find? fun j => j.owner == some (b, n) with
      | some c, some j =>
        let js := s.coll.joins.filter fun x => x.group == j.group && x.ordinal == j.ordinal
        if js.any (·.clash j) || s.coll.joins.any (j.repeats ·) then (s.haltEngine b Code.collDesc 0).collGone b n
        else if c.faultVa.isSome || js.length < j.npart then s
        else
          let out := collBytes j (freeOrder s.fresh js)
          let w := s.writeVa { who := [5, b, n], via := Via.plain (s.ctxOf k), core := some k.core } c.recv.toNat out
          match w.2 with
          | .ok =>
            let s := { w.1.acquireL1 k.core .pod with fresh := w.1.fresh + j.npart }
            let s := match c.bar with
              | some i => s.subPending b i out.length
              | none => s
            (s.modBlock b fun k => { k with cntCp := k.cntCp - 1 }).collGone b n
          | .wait => w.1
          | .absent va => (w.1.modBlock b fun k => { k with
              colls := k.colls.map fun x => if x.id == n then { x with faultVa := some va } else x }).faultRecord b 1 0 va .write
          | .fatal e va => (w.1.haltEngine b e va).collGone b n
      | _, _ => s

end Sys2Proof.Machine
end

