-- ==== Sys2Proof/Machine/Link.lean ====
section
/-! DEFINITION. Helor Link ports: flits in sequence, acknowledgements and go-back-N, the requests of other packages performed here,
and a port that goes down (spec/17 R473, R474, spec/16 R460). -/

namespace Sys2Proof.Machine

def State.port (s : State) (n : Nat) : Port := s.ports.getD n Port.reset
def State.modPort (s : State) (n : Nat) (f : Port → Port) : State := { s with ports := upd s.ports n f }

/-! ### Acknowledgements and resends -/

/-- A flit without packets: outside the sequence (its SEQ is the last one sent), it only carries ACK and NAK (log 30). -/
def State.ackFlit (s : State) (n : Nat) (nak : Bool) : State :=
  s.emit (.flit n (.make ((s.port n).tx - 1) 1 ((s.port n).rx - 1) nak []))
/-- The flits a received ACK leaves unacknowledged; nothing where it acknowledges none of them. -/
def afterAck (ack : BitVec 12) : List Flit → Option (List Flit)
  | [] => none
  | f :: t => if f.seq == ack then some t else afterAck ack t
def State.takeAck (s : State) (n : Nat) (ack : BitVec 12) : State :=
  match afterAck ack (s.port n).unack with
  | some l => s.modPort n fun p => { p with unack := l, tries := 0, sentAt := s.clock.toNat }
  | none => s
/-- The COLLs, with their blocks, of which a port's unacknowledged flits tell another package. -/
def State.collsAt (s : State) (n : Nat) : List (Nat × Nat) :=
  (s.port n).unack.flatMap fun f => f.packets.flatMap fun p => match p with
    | .collJoin g rank _ _ _ _ _ _ _ => s.coll.joins.filterMap fun j =>
        if j.group == g.toNat && j.rank == rank && !j.fin then j.owner else none
    | _ => []
/-- The port goes down: PWRMSI is raised, its flits are given up, what no answer came to is lost, and so are the COLLs that it has not
carried over. -/
def State.linkDown (s : State) (n : Nat) : State :=
  (s.collsAt n).foldl (fun (s : State) x => (s.haltEngine x.1 Code.linkLost 0).collGone x.1 x.2) <| ((s.modPort n fun p => { p with down := true, unack := [] }).modHomes fun h => { h with
    remotes := h.remotes.map fun r => if r.port == n && r.answer.isNone then { r with lost := true } else r }).routesDue.raiseMsix 0 s.power.msi
/-- Resend every unacknowledged flit in order; after the sixteenth time without an advance of ACK the port goes down. -/
def State.resend (s : State) (n : Nat) : State :=
  let p := s.port n
  if p.down || p.unack.isEmpty then s
  else
    let s := p.unack.foldl (fun (s : State) f => s.emit (.flit n (f.again (p.rx - 1)))) s
    let s := s.modPort n fun p => { p with tries := p.tries + 1, sentAt := s.clock.toNat }
    if 16 ≤ p.tries + 1 then s.linkDown n else s
/-- ACK_TIMEOUT: 2 µs have passed without an ACK. -/
def execAckTimeout (port : Fin 24) (s : State) : Res :=
  .next (if s.clock.toNat < (s.port port.val).sentAt + 2000 then s else s.resend port.val)

/-! ### Requests of another package -/

/-- The bytes of local memory that a peer reads, and whether a line of them holds poison. -/
def State.peerRead (s : State) (a n : Nat) : State × List Byte × Bool :=
  match localPhys a with
  | .mmio off => match s.mmioRead off n with
    | some v => (s, toBytes v n, false)
    | none => (s, [], true)
  | .hbm _ | .scm _ => (lines a n).foldl (fun (acc : State × List Byte × Bool) x =>
      let r := acc.1.homeRead (localPhys x.1) (Via.plain 0) x.2
      (r.1, acc.2.1 ++ r.2, acc.2.2 || acc.1.poisoned (acc.1.homeAddr x.1))) (s, [], false)
  | _ => (s, [], true)
/-- A peer's write; nothing while a device register holds it back. -/
def State.peerWrite (s : State) (a : Nat) (bs : List Byte) (persist : Option (Option (Nat × Nat) × Word)) : Option State :=
  match localPhys a with
  | .mmio off => match s.mmioWrite off bs.length (ofBytes bs) with
    | some x => x
    | none => some s
  | .hbm _ | .scm _ => some ((cut a bs).foldl (fun (s : State) x =>
      s.homeWrite (localPhys x.1) { Via.plain 0 with persist := persist } x.2) s)
  | _ => some s
/-- A peer's write while it waits. -/
def State.peerWait (s : State) (p : LinkPacket) : State :=
  match p with
  | .write _ a bs _ _ => match localPhys a with
    | .mmio off => s.mmioWait off bs.length (ofBytes bs)
    | _ => s
  | _ => s
/-- A peer's atomic, with the persist mark of a copy's word (12 R351): the old value, and whether its line holds poison. -/
def State.peerAtomic (s : State) (a op w o c : Nat) (persist : Bool) : State × List Byte × Bool :=
  match localPhys a with
  | .hbm x | .scm x =>
    if s.poisoned (s.homeAddr x) then (s, [], true)
    else let r := s.homeAtomic (localPhys a) { Via.plain 0 with persist := if persist then some (none, 0) else none } op w o c; (r.1, toBytes r.2 w, false)
  | _ => (s, [], true)
/-- The timestamp that a peer's seq_cst access takes at its home (11 R305). -/
def State.peerStamp (s : State) (a : Nat) (clk : Option DWord) : State × DWord :=
  match clk with
  | some c => s.stamp (localPhys a) c
  | none => (s, 0)
/-- An answer arrives for this package's request. -/
def State.takeAnswer (s : State) (rid : Nat) (data : List Byte) (poison : Bool) (ts : DWord) : State :=
  s.modHomes fun h => { h with
    remotes := h.remotes.map fun r => if r.rid == rid && !r.lost then { r with answer := some data, poison := poison, ts := ts } else r }
/-- An answer arrives, and a thread's request takes it (11 R297). -/
def State.answered (s : State) (rid : Nat) (data : List Byte) (poison : Bool) (ts : DWord) : State :=
  match s.homes.remotes.find? fun r => r.rid == rid with
  | some r => ((s.takeAnswer rid data poison ts).farArrives r data poison).routesDue
  | none => s
/-- Perform one packet, with its answer and whether that belongs to the rebuild's channel; nothing while it has to wait (log 65). -/
def State.packet (s : State) (p : LinkPacket) : Option (State × List LinkPacket × Bool) :=
  match p with
  | .read tag a n clk =>
    let t := s.peerStamp a clk
    let r := t.1.peerRead a n
    some (r.1, [.answer tag r.2.1 r.2.2 t.2], false)
  | .write tag a bs persist clk =>
    let t := s.peerStamp a clk
    (t.1.peerWrite a bs persist).map fun s => (s, [.answer tag [] false t.2], false)
  | .atomic tag a op w o c persist clk =>
    let t := s.peerStamp a clk
    let r := t.1.peerAtomic a op w o.toNat c.toNat persist
    some (r.1, [.answer tag r.2.1 r.2.2 t.2], false)
  | .pwb tag a inv agent epoch => some (match localPhys a with
    | .scm x => s.pwbAt x inv agent epoch
    | _ => s, [.answer tag [] false 0], false)
  | .l2line tag a inv => some (match localPhys a with
    | .hbm x => s.l2Clean x inv
    | _ => s, [.answer tag [] false 0], false)
  | .answer rid data poison ts => some (s.answered rid data poison ts, [], false)
  | .collJoin g rank npart op red ty root count send =>
    some ((s.addJoin ⟨g.toNat, rank, 0, npart, op, red, ty, root, count, send, none, false⟩).1, [], false)
  | .rebuildRead tag a n total => let r := (s.serveCount n total).peerRead a n; some (r.1, [.answer tag r.2.1 r.2.2 0], true)
/-- Perform a flit's packets in order. -/
def State.packets (s : State) : List LinkPacket → List LinkPacket → List LinkPacket → Option (State × List LinkPacket × List LinkPacket)
  | [], a, b => some (s, a, b)
  | p :: ps, a, b => match s.packet p with
    | some (s, xs, false) => s.packets ps (a ++ xs) b
    | some (s, xs, true) => s.packets ps a (b ++ xs)
    | none => none

/-- FLIT_RECEIVE. A flit with a bad CRC is NAKed; one out of sequence is discarded, but for its ACK; an accepted one has its packets
performed and answered. A flit whose packets have to wait is not taken yet. -/
def execFlitReceive (port : Fin 24) (f : Flit) (s : State) : Res :=
  .next <|
    let n := port.val
    if (s.port n).down then s
    else if !f.good then s.ackFlit n true
    else
      let t := s.takeAck n f.ack
      let t := if f.nak then t.resend n else t
      if f.packets.isEmpty || f.seq != (t.port n).rx || (t.port n).down then t
      else match t.packets f.packets [] [] with
        | none => f.packets.foldl State.peerWait s
        | some (u, a, b) =>
          if 510 < (u.port n).unack.length then s
          else
            let u := u.modPort n fun p => { p with rx := p.rx + 1 }
            if a.isEmpty && b.isEmpty then u.ackFlit n false
            else
              let u := if a.isEmpty then u else u.sendFlit n 1 a
              if b.isEmpty then u else u.sendFlit n 3 b

end Sys2Proof.Machine
end

