-- ==== Sys2Proof/Machine/Spdm.lean ====
section
/-! DEFINITION. The security processor's SPDM requests (spec/17 R481, R482): SHA3-384 measurements of what the blocks cover, signatures
with the key of the fused seed, and for the rest of an answer's bytes a free value of the request (log 68). -/

namespace Sys2Proof.Machine

/-- The bits of a list as bytes, the first in bit 0. -/
def packBits (l : List Bool) : List Byte := toBytes ((l.zipIdx).foldl (fun n x => n + 2 ^ x.2 * b2n x.1) 0) ((l.length + 7) / 8)
/-- What a measurement block covers (17 R482): index 1 the boot ROM, 2–4 the images, 5 DCFGMAP with GB of every cluster, 6 the fuses. -/
def State.measured (s : State) (index : Nat) : List Byte :=
  match index with
  | 1 => s.boot.rom
  | 2 | 3 | 4 => ((s.boot.images[index - 2]?).map fun i => toBytes i.version 8 ++ i.body).getD []
  | 5 => packBits s.ageing.dcfgmap ++ s.ageing.rows.map fun r => BitVec.ofNat 8 r.2.1
  | 6 => packBits s.fuse ++ s.boot.keyHash ++ toBytes s.boot.floor 8
  | _ => []
/-- The measurement blocks that a request names: one, or all of them by 255. -/
def blocksOf (index : Nat) : List Nat :=
  if index = 255 then [1, 2, 3, 4, 5, 6] else if 1 ≤ index && index ≤ 6 then [index] else []
/-- The measurements of some blocks, as they are now. -/
def State.measure (s : State) (is : List Nat) : List (Nat × List Byte) := is.map fun i => (i, sha3384 (s.measured i))
/-- The security processor answers while its image runs (17 R481). -/
def State.spdm (s : State) (code : Nat) (req : List Byte) (is : List Nat) (signed : Bool) : State :=
  let m := s.measure is
  let body := Config.spdmAnswer code req
  if s.regs.bootstat == 1 then
    s.emit (.spdm code m body (if signed then Config.mldsaSign s.boot.seed (req ++ body ++ m.flatMap (·.2)) else []))
  else s

/-- GET_VERSION. -/
def execGetVersion (s : State) : Res := .next (s.spdm 0x84 [] [] false)
/-- GET_CAPABILITIES. -/
def execGetCapabilities (s : State) : Res := .next (s.spdm 0xE1 [] [] false)
/-- NEGOTIATE_ALGORITHMS. -/
def execNegotiateAlgorithms (req : List Byte) (s : State) : Res := .next (s.spdm 0xE3 req [] false)
/-- GET_DIGESTS. -/
def execGetDigests (s : State) : Res := .next (s.spdm 0x81 [] [] false)
/-- GET_CERTIFICATE: a part of the certificate chain. -/
def execGetCertificate (off len : Nat) (s : State) : Res := .next (s.spdm 0x82 (toBytes off 4 ++ toBytes len 4) [] false)
/-- CHALLENGE: signed over the measurements as they are now. -/
def execChallenge (nonce : List Byte) (s : State) : Res := .next (s.spdm 0x83 nonce (blocksOf 255) true)
/-- GET_MEASUREMENTS: index 0 counts the blocks, 255 asks for all of them. -/
def execGetMeasurements (index : Nat) (nonce : List Byte) (s : State) : Res :=
  .next (s.spdm 0xE0 (toBytes index 1 ++ nonce) (blocksOf index) true)

end Sys2Proof.Machine
end

