-- ==== Sys2Proof/Machine/Dispatch.lean ====
section
/-! DEFINITION. One arm per instruction and event: its meaning. -/

namespace Sys2Proof.Machine

/-- The effect of one instruction or event. -/
def exec (i : Instr) (s : State) : Host.Outcome State Fault Refusal :=
  match i with
  | .nop g => Sys2Proof.Machine.execNop g s
  | .iadd g d a b => Sys2Proof.Machine.execIadd g d a b s
  | .isub g d a b => Sys2Proof.Machine.execIsub g d a b s
  | .iaddi g d a imm => Sys2Proof.Machine.execIaddi g d a imm s
  | .imul g d a b => Sys2Proof.Machine.execImul g d a b s
  | .imulhi g d a b => Sys2Proof.Machine.execImulhi g d a b s
  | .imulhu g d a b => Sys2Proof.Machine.execImulhu g d a b s
  | .imad g d a b c => Sys2Proof.Machine.execImad g d a b c s
  | .idiv g d a b => Sys2Proof.Machine.execIdiv g d a b s
  | .idivu g d a b => Sys2Proof.Machine.execIdivu g d a b s
  | .irem g d a b => Sys2Proof.Machine.execIrem g d a b s
  | .iremu g d a b => Sys2Proof.Machine.execIremu g d a b s
  | .imin g d a b => Sys2Proof.Machine.execImin g d a b s
  | .imax g d a b => Sys2Proof.Machine.execImax g d a b s
  | .iminu g d a b => Sys2Proof.Machine.execIminu g d a b s
  | .imaxu g d a b => Sys2Proof.Machine.execImaxu g d a b s
  | .iabs g d a => Sys2Proof.Machine.execIabs g d a s
  | .and g d a b => Sys2Proof.Machine.execAnd g d a b s
  | .or g d a b => Sys2Proof.Machine.execOr g d a b s
  | .xor g d a b => Sys2Proof.Machine.execXor g d a b s
  | .andn g d a b => Sys2Proof.Machine.execAndn g d a b s
  | .andi g d a imm => Sys2Proof.Machine.execAndi g d a imm s
  | .ori g d a imm => Sys2Proof.Machine.execOri g d a imm s
  | .xori g d a imm => Sys2Proof.Machine.execXori g d a imm s
  | .shl g d a b => Sys2Proof.Machine.execShl g d a b s
  | .shr g d a b => Sys2Proof.Machine.execShr g d a b s
  | .sar g d a b => Sys2Proof.Machine.execSar g d a b s
  | .rotl g d a b => Sys2Proof.Machine.execRotl g d a b s
  | .shli g d a n => Sys2Proof.Machine.execShli g d a n s
  | .shri g d a n => Sys2Proof.Machine.execShri g d a n s
  | .sari g d a n => Sys2Proof.Machine.execSari g d a n s
  | .bfe g d a c => Sys2Proof.Machine.execBfe g d a c s
  | .bfeu g d a c => Sys2Proof.Machine.execBfeu g d a c s
  | .bfi g d a b c => Sys2Proof.Machine.execBfi g d a b c s
  | .popc g d a => Sys2Proof.Machine.execPopc g d a s
  | .clz g d a => Sys2Proof.Machine.execClz g d a s
  | .ctz g d a => Sys2Proof.Machine.execCtz g d a s
  | .brev g d a => Sys2Proof.Machine.execBrev g d a s
  | .add64 g d a b => Sys2Proof.Machine.execAdd64 g d a b s
  | .sub64 g d a b => Sys2Proof.Machine.execSub64 g d a b s
  | .shl64 g d a b => Sys2Proof.Machine.execShl64 g d a b s
  | .shr64 g d a b sx => Sys2Proof.Machine.execShr64 g d a b sx s
  | .lea g d a b sh zx => Sys2Proof.Machine.execLea g d a b sh zx s
  | .mov g d a w => Sys2Proof.Machine.execMov g d a w s
  | .movi g d imm => Sys2Proof.Machine.execMovi g d imm s
  | .movhi g d a imm => Sys2Proof.Machine.execMovhi g d a imm s
  | .sel g d a b p inv => Sys2Proof.Machine.execSel g d a b p inv s
  | .isetp g p a b c => Sys2Proof.Machine.execIsetp g p a b c s
  | .psetp g p a b o => Sys2Proof.Machine.execPsetp g p a b o s
  | .p2v g d => Sys2Proof.Machine.execP2v g d s
  | .v2p g a b => Sys2Proof.Machine.execV2p g a b s
  | .shuf g d a b m => Sys2Proof.Machine.execShuf g d a b m s
  | .vote g d a => Sys2Proof.Machine.execVote g d a s
  | .redoct g d a o rm => Sys2Proof.Machine.execRedoct g d a o rm s
  | .matchL g d a w64 => Sys2Proof.Machine.execMatchL g d a w64 s
  | .idot4 g d a b c => Sys2Proof.Machine.execIdot4 g d a b c s
  | .fadd g d a b rm => Sys2Proof.Machine.execFadd g d a b rm s
  | .fsub g d a b rm => Sys2Proof.Machine.execFsub g d a b rm s
  | .fmul g d a b rm => Sys2Proof.Machine.execFmul g d a b rm s
  | .ffma g d a b c => Sys2Proof.Machine.execFfma g d a b c s
  | .fmin g d a b => Sys2Proof.Machine.execFmin g d a b s
  | .fmax g d a b => Sys2Proof.Machine.execFmax g d a b s
  | .fsetp g p a b c => Sys2Proof.Machine.execFsetp g p a b c s
  | .frcp g d a => Sys2Proof.Machine.execFrcp g d a s
  | .frsq g d a => Sys2Proof.Machine.execFrsq g d a s
  | .fsqrt g d a rm => Sys2Proof.Machine.execFsqrt g d a rm s
  | .fdiv g d a b rm => Sys2Proof.Machine.execFdiv g d a b rm s
  | .fexp2 g d a => Sys2Proof.Machine.execFexp2 g d a s
  | .flog2 g d a => Sys2Proof.Machine.execFlog2 g d a s
  | .fsin g d a => Sys2Proof.Machine.execFsin g d a s
  | .fcos g d a => Sys2Proof.Machine.execFcos g d a s
  | .ftanh g d a => Sys2Proof.Machine.execFtanh g d a s
  | .frnd g d a rm => Sys2Proof.Machine.execFrnd g d a rm s
  | .fclass g d a => Sys2Proof.Machine.execFclass g d a s
  | .fscale g d a b rm => Sys2Proof.Machine.execFscale g d a b rm s
  | .hadd2 g d a b bf => Sys2Proof.Machine.execHadd2 g d a b bf s
  | .hsub2 g d a b bf => Sys2Proof.Machine.execHsub2 g d a b bf s
  | .hmul2 g d a b bf => Sys2Proof.Machine.execHmul2 g d a b bf s
  | .hfma2 g d a b c => Sys2Proof.Machine.execHfma2 g d a b c s
  | .hmin2 g d a b bf => Sys2Proof.Machine.execHmin2 g d a b bf s
  | .hmax2 g d a b bf => Sys2Proof.Machine.execHmax2 g d a b bf s
  | .cvt g d a b src dst rm => Sys2Proof.Machine.execCvt g d a b src dst rm s
  | .pack8 g d a b ovf head rm => Sys2Proof.Machine.execPack8 g d a b ovf head rm s
  | .unpack8 g d a b rm => Sys2Proof.Machine.execUnpack8 g d a b rm s
  | .bscale g d a b => Sys2Proof.Machine.execBscale g d a b s
  | .ld g d m => Sys2Proof.Machine.execLd g d m s
  | .st g x m => Sys2Proof.Machine.execSt g x m s
  | .ldro g d m => Sys2Proof.Machine.execLdro g d m s
  | .lds g d m => Sys2Proof.Machine.execLds g d m s
  | .sts g x m => Sys2Proof.Machine.execSts g x m s
  | .atomAdd g d m => Sys2Proof.Machine.execAtomAdd g d m s
  | .atomMin g d m => Sys2Proof.Machine.execAtomMin g d m s
  | .atomMax g d m => Sys2Proof.Machine.execAtomMax g d m s
  | .atomMinu g d m => Sys2Proof.Machine.execAtomMinu g d m s
  | .atomMaxu g d m => Sys2Proof.Machine.execAtomMaxu g d m s
  | .atomAnd g d m => Sys2Proof.Machine.execAtomAnd g d m s
  | .atomOr g d m => Sys2Proof.Machine.execAtomOr g d m s
  | .atomXor g d m => Sys2Proof.Machine.execAtomXor g d m s
  | .atomExch g d m => Sys2Proof.Machine.execAtomExch g d m s
  | .atomCas g d m => Sys2Proof.Machine.execAtomCas g d m s
  | .atomFadd g d m => Sys2Proof.Machine.execAtomFadd g d m s
  | .atomFmin g d m => Sys2Proof.Machine.execAtomFmin g d m s
  | .atomFmax g d m => Sys2Proof.Machine.execAtomFmax g d m s
  | .fence g o sc => Sys2Proof.Machine.execFence g o sc s
  | .pref g addr off ro size evict => Sys2Proof.Machine.execPref g addr off ro size evict s
  | .cctlRoinv g => Sys2Proof.Machine.execCctlRoinv g s
  | .cctlL1inv g => Sys2Proof.Machine.execCctlL1inv g s
  | .cctlL1line g addr off size => Sys2Proof.Machine.execCctlL1line g addr off size s
  | .cctlL2wb g addr off size => Sys2Proof.Machine.execCctlL2wb g addr off size s
  | .cctlL2inv g addr off size => Sys2Proof.Machine.execCctlL2inv g addr off size s
  | .pwb g addr off size inv => Sys2Proof.Machine.execPwb g addr off size inv s
  | .pbar g pod => Sys2Proof.Machine.execPbar g pod s
  | .qlen g d q free => Sys2Proof.Machine.execQlen g d q free s
  | .qtryPop g d q p => Sys2Proof.Machine.execQtryPop g d q p s
  | .qtryPush g q a p => Sys2Proof.Machine.execQtryPush g q a p s
  | .qclose g q => Sys2Proof.Machine.execQclose g q s
  | .qeos g p q => Sys2Proof.Machine.execQeos g p q s
  | .bra g imm => Sys2Proof.Machine.execBra g imm s
  | .brx g a => Sys2Proof.Machine.execBrx g a s
  | .call g d imm => Sys2Proof.Machine.execCall g d imm s
  | .ret g a => Sys2Proof.Machine.execRet g a s
  | .exit g => Sys2Proof.Machine.execExit g s
  | .region g => Sys2Proof.Machine.execRegion g s
  | .yield g => Sys2Proof.Machine.execYield g s
  | .trap g n => Sys2Proof.Machine.execTrap g n s
  | .bkpt g n => Sys2Proof.Machine.execBkpt g n s
  | .utret g m => Sys2Proof.Machine.execUtret g m s
  | .rdsr g d n => Sys2Proof.Machine.execRdsr g d n s
  | .wrsr g n a => Sys2Proof.Machine.execWrsr g n a s
  | .grow g n => Sys2Proof.Machine.execGrow g n s
  | .shrink g n => Sys2Proof.Machine.execShrink g n s
  | .sleep g n => Sys2Proof.Machine.execSleep g n s
  | .kadd g kd ka kb imm => Sys2Proof.Machine.execKadd g kd ka kb imm s
  | .ksub g kd ka kb imm => Sys2Proof.Machine.execKsub g kd ka kb imm s
  | .kmul g kd ka kb imm => Sys2Proof.Machine.execKmul g kd ka kb imm s
  | .kand g kd ka kb imm => Sys2Proof.Machine.execKand g kd ka kb imm s
  | .kor g kd ka kb imm => Sys2Proof.Machine.execKor g kd ka kb imm s
  | .kxor g kd ka kb imm => Sys2Proof.Machine.execKxor g kd ka kb imm s
  | .kshl g kd ka kb imm => Sys2Proof.Machine.execKshl g kd ka kb imm s
  | .kshr g kd ka kb imm => Sys2Proof.Machine.execKshr g kd ka kb imm s
  | .kmin g kd ka kb imm => Sys2Proof.Machine.execKmin g kd ka kb imm s
  | .kmax g kd ka kb imm => Sys2Proof.Machine.execKmax g kd ka kb imm s
  | .kset g kd ka kb c => Sys2Proof.Machine.execKset g kd ka kb c s
  | .kmovi g kd imm => Sys2Proof.Machine.execKmovi g kd imm s
  | .kmovhi g kd ka imm => Sys2Proof.Machine.execKmovhi g kd ka imm s
  | .kld g kd ka o sc imm => Sys2Proof.Machine.execKld g kd ka o sc imm s
  | .kst g ks ka o sc imm => Sys2Proof.Machine.execKst g ks ka o sc imm s
  | .kbra g imm => Sys2Proof.Machine.execKbra g imm s
  | .kloop ka imm => Sys2Proof.Machine.execKloop ka imm s
  | .kend => Sys2Proof.Machine.execKend s
  | .krdsr g kd n => Sys2Proof.Machine.execKrdsr g kd n s
  | .talloc g t ty koff => Sys2Proof.Machine.execTalloc g t ty koff s
  | .tfree g t => Sys2Proof.Machine.execTfree g t s
  | .tload g t mcast ksrc kpitch spad baren bar => Sys2Proof.Machine.execTload g t mcast ksrc kpitch spad baren bar s
  | .tstore g t kdst kpitch spad baren bar => Sys2Proof.Machine.execTstore g t kdst kpitch spad baren bar s
  | .tset g t => Sys2Proof.Machine.execTset g t s
  | .mma g h a b ty clr => Sys2Proof.Machine.execMma g h a b ty clr s
  | .aalloc g h => Sys2Proof.Machine.execAalloc g h s
  | .afree g h => Sys2Proof.Machine.execAfree g h s
  | .aclr g h => Sys2Proof.Machine.execAclr g h s
  | .astore g h d ty fmt => Sys2Proof.Machine.execAstore g h d ty fmt s
  | .aload g h int kaddr kpitch spad => Sys2Proof.Machine.execAload g h int kaddr kpitch spad s
  | .cpy g b8 bq kdst ksrc kdsc => Sys2Proof.Machine.execCpy g b8 bq kdst ksrc kdsc s
  | .cpya g b8 bq kdst ksrc kdsc => Sys2Proof.Machine.execCpya g b8 bq kdst ksrc kdsc s
  | .cpyg g bq kdst ksrc kdsc => Sys2Proof.Machine.execCpyg g bq kdst ksrc kdsc s
  | .cpys g bq kdst ksrc kdsc => Sys2Proof.Machine.execCpys g bq kdst ksrc kdsc s
  | .cpyq g q ksrc kdsc => Sys2Proof.Machine.execCpyq g q ksrc kdsc s
  | .cpyec g bq kdst ksrc kdsc => Sys2Proof.Machine.execCpyec g bq kdst ksrc kdsc s
  | .cpycan g kd all bar => Sys2Proof.Machine.execCpycan g kd all bar s
  | .qcfg g q ka row width cap => Sys2Proof.Machine.execQcfg g q ka row width cap s
  | .qrel g q => Sys2Proof.Machine.execQrel g q s
  | .strm g t pidx sh => Sys2Proof.Machine.execStrm g t pidx sh s
  | .strmstop g sh => Sys2Proof.Machine.execStrmstop g sh s
  | .launch g ka imm => Sys2Proof.Machine.execLaunch g ka imm s
  | .coll g ka imm => Sys2Proof.Machine.execColl g ka imm s
  | .step g kd ka => Sys2Proof.Machine.execStep g kd ka s
  | .barArrive g d b => Sys2Proof.Machine.execBarArrive g d b s
  | .barWait g b p => Sys2Proof.Machine.execBarWait g b p s
  | .barSync g b => Sys2Proof.Machine.execBarSync g b s
  | .barExpect g b k a imm => Sys2Proof.Machine.execBarExpect g b k a imm s
  | .cbar g => Sys2Proof.Machine.execCbar g s
  | .wait g ld st cp tl => Sys2Proof.Machine.execWait g ld st cp tl s
  | .signal g a o => Sys2Proof.Machine.execSignal g a o s
  | .continuationEntry b t => Sys2Proof.Machine.execContinuationEntry b t s
  | .bundleFormation b t => Sys2Proof.Machine.execBundleFormation b t s
  | .workingSetCopy n => Sys2Proof.Machine.execWorkingSetCopy n s
  | .regDeadlock b => Sys2Proof.Machine.execRegDeadlock b s
  | .threadEnd b t => Sys2Proof.Machine.execThreadEnd b t s
  | .returnLanding n => Sys2Proof.Machine.execReturnLanding n s
  | .storeAck n => Sys2Proof.Machine.execStoreAck n s
  | .homeAccess n => Sys2Proof.Machine.execHomeAccess n s
  | .tlbWalk n => Sys2Proof.Machine.execTlbWalk n s
  | .sleepWake b t => Sys2Proof.Machine.execSleepWake b t s
  | .syscallRecordWrite b t => Sys2Proof.Machine.execSyscallRecordWrite b t s
  | .srwake idx => Sys2Proof.Machine.execSrwake idx s
  | .debugHalt b => Sys2Proof.Machine.execDebugHalt b s
  | .debugResume b => Sys2Proof.Machine.execDebugResume b s
  | .blockAccounted b => Sys2Proof.Machine.execBlockAccounted b s
  | .queueDeadlock b => Sys2Proof.Machine.execQueueDeadlock b s
  | .streamElement b h => Sys2Proof.Machine.execStreamElement b h s
  | .streamFinish b h => Sys2Proof.Machine.execStreamFinish b h s
  | .copyUnit b n => Sys2Proof.Machine.execCopyUnit b n s
  | .copyCompletion b n => Sys2Proof.Machine.execCopyCompletion b n s
  | .tloadCompletion b n => Sys2Proof.Machine.execTloadCompletion b n s
  | .tstoreCompletion b n => Sys2Proof.Machine.execTstoreCompletion b n s
  | .aloadCompletion b n => Sys2Proof.Machine.execAloadCompletion b n s
  | .astoreCompletion b n => Sys2Proof.Machine.execAstoreCompletion b n s
  | .startGrantRequest c => Sys2Proof.Machine.execStartGrantRequest c s
  | .barchanStep die => Sys2Proof.Machine.execBarchanStep die s
  | .mmaRetire c => Sys2Proof.Machine.execMmaRetire c s
  | .bankSwitch c => Sys2Proof.Machine.execBankSwitch c s
  | .collCompletion b n => Sys2Proof.Machine.execCollCompletion b n s
  | .stepAdvance b => Sys2Proof.Machine.execStepAdvance b s
  | .seifSweep => Sys2Proof.Machine.execSeifSweep s
  | .seifCaptureComplete => Sys2Proof.Machine.execSeifCaptureComplete s
  | .seifArm v => Sys2Proof.Machine.execSeifArm v s
  | .seifDisarm v => Sys2Proof.Machine.execSeifDisarm v s
  | .caravanEntry n => Sys2Proof.Machine.execCaravanEntry n s
  | .caravanDrain iod n => Sys2Proof.Machine.execCaravanDrain iod n s
  | .powerLoss => Sys2Proof.Machine.execPowerLoss s
  | .eccError k addr corrected => Sys2Proof.Machine.execEccError k addr corrected s
  | .backgroundMaintenance => Sys2Proof.Machine.execBackgroundMaintenance s
  | .faqRecordWrite => Sys2Proof.Machine.execFaqRecordWrite s
  | .faqbase v => Sys2Proof.Machine.execFaqbase v s
  | .tlbShootdown ctx va len => Sys2Proof.Machine.execTlbShootdown ctx va len s
  | .shootdownAck n c => Sys2Proof.Machine.execShootdownAck n c s
  | .migcmd v => Sys2Proof.Machine.execMigcmd v s
  | .migrationLineCopy n l => Sys2Proof.Machine.execMigrationLineCopy n l s
  | .migrationSwitchover n => Sys2Proof.Machine.execMigrationSwitchover n s
  | .migrationComplete n => Sys2Proof.Machine.execMigrationComplete n s
  | .resident v => Sys2Proof.Machine.execResident v s
  | .bpcmdAdd v => Sys2Proof.Machine.execBpcmdAdd v s
  | .bpcmdRemove v => Sys2Proof.Machine.execBpcmdRemove v s
  | .bpcmdClear => Sys2Proof.Machine.execBpcmdClear s
  | .wake q w => Sys2Proof.Machine.execWake q w s
  | .packetFetch q => Sys2Proof.Machine.execPacketFetch q s
  | .seqRetry q => Sys2Proof.Machine.execSeqRetry q s
  | .pad q => Sys2Proof.Machine.execPad q s
  | .launchPacket q => Sys2Proof.Machine.execLaunchPacket q s
  | .waitPacket q => Sys2Proof.Machine.execWaitPacket q s
  | .waitPoll q => Sys2Proof.Machine.execWaitPoll q s
  | .writePacket q => Sys2Proof.Machine.execWritePacket q s
  | .fencePacket q => Sys2Proof.Machine.execFencePacket q s
  | .preemptPacket q => Sys2Proof.Machine.execPreemptPacket q s
  | .specialiserBuild n => Sys2Proof.Machine.execSpecialiserBuild n s
  | .ticketPull c l => Sys2Proof.Machine.execTicketPull c l s
  | .blockRetire b => Sys2Proof.Machine.execBlockRetire b s
  | .launchCompletion l => Sys2Proof.Machine.execLaunchCompletion l s
  | .autoPreempt l => Sys2Proof.Machine.execAutoPreempt l s
  | .preemptSave b => Sys2Proof.Machine.execPreemptSave b s
  | .blockResume n c => Sys2Proof.Machine.execBlockResume n c s
  | .schedulerMessage link toLeaf => Sys2Proof.Machine.execSchedulerMessage link toLeaf s
  | .mergeWindowClose n => Sys2Proof.Machine.execMergeWindowClose n s
  | .queueEnable q v => Sys2Proof.Machine.execQueueEnable q v s
  | .queueReset q => Sys2Proof.Machine.execQueueReset q s
  | .queueResetComplete q => Sys2Proof.Machine.execQueueResetComplete q s
  | .packageEnable v => Sys2Proof.Machine.execPackageEnable v s
  | .mirinv objid => Sys2Proof.Machine.execMirinv objid s
  | .routeWrite p v => Sys2Proof.Machine.execRouteWrite p v s
  | .rampWrite die v => Sys2Proof.Machine.execRampWrite die v s
  | .counterClear off => Sys2Proof.Machine.execCounterClear off s
  | .registerWrite off size v => Sys2Proof.Machine.execRegisterWrite off size v s
  | .hostAccess a => Sys2Proof.Machine.execHostAccess a s
  | .msixUnmask fn vec => Sys2Proof.Machine.execMsixUnmask fn vec s
  | .flrVirtualFunction p => Sys2Proof.Machine.execFlrVirtualFunction p s
  | .flrPhysicalFunction => Sys2Proof.Machine.execFlrPhysicalFunction s
  | .conventionalReset images => Sys2Proof.Machine.execConventionalReset images s
  | .getVersion => Sys2Proof.Machine.execGetVersion s
  | .getCapabilities => Sys2Proof.Machine.execGetCapabilities s
  | .negotiateAlgorithms req => Sys2Proof.Machine.execNegotiateAlgorithms req s
  | .getDigests => Sys2Proof.Machine.execGetDigests s
  | .getCertificate off len => Sys2Proof.Machine.execGetCertificate off len s
  | .challenge nonce => Sys2Proof.Machine.execChallenge nonce s
  | .getMeasurements index nonce => Sys2Proof.Machine.execGetMeasurements index nonce s
  | .flitReceive port f => Sys2Proof.Machine.execFlitReceive port f s
  | .ackTimeout port => Sys2Proof.Machine.execAckTimeout port s
  | .linkUp v => Sys2Proof.Machine.execLinkUp v s
  | .powerControllerLoop x => Sys2Proof.Machine.execPowerControllerLoop x s
  | .watchdog => Sys2Proof.Machine.execWatchdog s
  | .currentLimit die => Sys2Proof.Machine.execCurrentLimit die s
  | .thermalThrottle die => Sys2Proof.Machine.execThermalThrottle die s
  | .thermalShutdown => Sys2Proof.Machine.execThermalShutdown s
  | .firmwareUpdate => Sys2Proof.Machine.execFirmwareUpdate s
  | .firmwareRestart => Sys2Proof.Machine.execFirmwareRestart s
  | .pwrstatClear v => Sys2Proof.Machine.execPwrstatClear v s
  | .clusterSleep cl => Sys2Proof.Machine.execClusterSleep cl s
  | .clusterWake cl => Sys2Proof.Machine.execClusterWake cl s
  | .clusterPoolChange cl => Sys2Proof.Machine.execClusterPoolChange cl s
  | .dcfg v => Sys2Proof.Machine.execDcfg v s
  | .rebuildStart v => Sys2Proof.Machine.execRebuildStart v s
  | .rebuildUnit => Sys2Proof.Machine.execRebuildUnit s
  | .rebuildComplete => Sys2Proof.Machine.execRebuildComplete s
  | .rebuildStop => Sys2Proof.Machine.execRebuildStop s
  | .dieCools die => Sys2Proof.Machine.execDieCools die s
  | .saveDiscard n => Sys2Proof.Machine.execSaveDiscard n s
  | .clusterPartitionMove cl => Sys2Proof.Machine.execClusterPartitionMove cl s

end Sys2Proof.Machine
end

