-- ==== Sys2Proof/Machine/Step.lean ====
section
/-! DEFINITION. One step of the package, and the state in which the next step runs a given instruction word (log 8, log 29). -/

namespace Sys2Proof.Machine

/-- A next state in which a Caravan queue would hold too much is not taken: what would enter waits, and the instruction or event is
tried again (09 R256; log 21). -/
def State.ifRoom (s : State) (o : Host.Outcome State Fault Refusal) : Host.Outcome State Fault Refusal :=
  match o with
  | .next t => .next (if s.carFits t then t else s)
  | o => o
/-- Run the instruction that a turn gives, if the package runs at all (17 R477, R481). -/
def runTurn (r : State × Option Instr) : Host.Outcome State Fault Refusal :=
  match r.2 with
  | some i => if r.1.allows i then r.1.ifRoom (exec i r.1) else .next r.1
  | none => .next r.1

/-- Bundles and sequencers move while the clocks run and the boot has succeeded (17 R477, R481). -/
def State.running (s : State) : Bool := !s.power.stopped && s.regs.bootstat == 1

/-- One step: the next turn of the agenda. A bundle or a sequencer executes the instruction at its PC; an event takes place where
its condition holds; or time passes, unless every clock is stopped (log 14). -/
def step (s : State) : Host.Outcome State Fault Refusal :=
  match s.nextTurn with
  | (.bundle n, s) => if s.running then runTurn (s.bundleTurn n) else .next s
  | (.sequencer b, s) => if s.running then runTurn (s.seqTurn b) else .next s
  | (.event i, s) => runTurn ({ s with cur := .none }, some i)
  | (.time c n, s) => .next (if s.power.stopped then s else s.passTime c n)

/-! ### Placing one instruction (log 29) -/

/-- The code address of the instruction: it lies in a 64 KiB page of context 15 mapped to the frame of the same address. -/
def placeCode : Nat := 0x10000
/-- The header of the placed clause: one instruction, its class, no thresholds, MEET where the word needs it (02 R54). -/
def placeHeader (w : DWord) : Nat := 16 * opClass (fld w 0 8) + (if opClass (fld w 0 8) == 4 then 0xFFF000 else 0xFFFF00) + (if isMeetWord w then 2 ^ 25 else 0)
/-- Bytes placed: the tables of one code page, the clause, a clause that ends the stream (EXIT or KEND), and the clause map
(02 R52, 15 R423, R424). -/
def placeBytes (w : DWord) : List (Nat × List Byte) :=
  [(0x200000, toBytes 0x400001 8), (0x400000, toBytes 0x401001 8), (0x401000, toBytes 0x402001 8), (0x402008, toBytes 0x1000D 8),
   (placeCode + 0x100, toBytes (placeHeader w) 8), (placeCode + 0x108, toBytes w.toNat 8),
   (placeCode + 0x110, toBytes (if opClass (fld w 0 8) == 4 then 0xFFF040 else 0xFFFF30) 8),
   (placeCode + 0x118, toBytes (if opClass (fld w 0 8) == 4 then 0xD1 else 0xB4) 8), (placeCode + 0x140, [5])]
/-- The launch record and code header of a launch of one block of one octet. -/
def placeRecord : LaunchRec :=
  { code := placeCode, tentry := 0, uentry := 0, nlev := 2, opclass := 0, prio := 0, chain := 0, ctrl := 0, unroll := 64, growth := 4
    maxacc := 0, maxregs := 64, maxq := 0, spad := 0, sigaddr := 0, sblk := 0, smaskk := 0, dblk := 0, dmaskk := 0, itab := 0, icount := 0
    levels := [(8, 0, 0), (1, 2, 2)] }
def placeCodeHdr : CodeHdr :=
  { objid := 0, toff := 0x100, tlen := 32, uoff := 0x100, ulen := 32, tentry := 0, uentry := 0, soff := 0, scount := 0, tmap := 0x140
    umap := 0x140, doff := 0, dlen := 0, loff := 0 }
def placeLaunch : Launch :=
  { queue := 0, ctx := 15, part := 0, chainOn := false, lrec := placeRecord, hdr := placeCodeHdr, raddr := 0, seq := 0, child := false
    children := [], statics := [], dynamics := [], epri := 0, state := .dealing, blocks := 1, unit := 1, ranges := List.replicate 8 []
    bound := [], done := 0, faulted := false, entry := none, held := none, build := none }
/-- The block of that launch on core 0: its threads in a bundle at the instruction, or its sequencer at it. -/
def placeBlock (launch : Nat) (thr : Bool) (cycle : Nat) : Block :=
  let pc : DWord := BitVec.ofNat 64 (placeCode + 0x108)
  { Block.fresh (List.replicate 8 { Thread.start pc cycle 0 with status := if thr then .issued else .ready false, opening := false }) with
    launch := launch, seq := if thr then Seq.idle else ⟨pc - 8, 1, 1, false, [], .none, none⟩, startCycle := cycle }

/-- The word has a uniform-stream opcode (02 R58). -/
def placeUniform (w : DWord) : Bool := opClass (fld w 0 8) == 4
/-- `s` with the instruction word placed: a block of one octet that stands at it, and the next turn its bundle's or sequencer's:
every other bundle counts as one that has issued in this cycle (01 R38), and the core's TLB holds no entry of the context. -/
def State.withFetchWord (s : State) (nbits w : Nat) : State :=
  let w : DWord := BitVec.ofNat 64 (w % 2 ^ nbits)
  let thr := !placeUniform w
  let b := s.blocks.length
  let bd : Bundle := ⟨s.homes.nextId, b, List.range 8, BitVec.ofNat 64 (placeCode + 0x100), 1, 1, isMeetWord w, false, true, false, 0, 0, 0, none⟩
  { s with
    agenda := (if thr then .bundle s.homes.nextId else .sequencer b) :: s.agenda
    blocks := s.blocks ++ [placeBlock s.front.launches.length thr s.cycle]
    bundles := if thr then (s.bundles.map fun x => { x with issued := some s.cycle }) ++ [bd] else s.bundles
    cores := upd s.cores 0 fun c => { c with issued := (s.cycle, 0), tlb := c.tlb.filter fun e => e.ctx != 15 }
    front := { s.front with launches := s.front.launches ++ [placeLaunch] }
    regs := { s.regs with ctxs := s.regs.ctxs.set 15 0x200001 }
    homes := { s.homes with
      nextId := s.homes.nextId + 1
      mem := (placeBytes w).foldl (fun m x => Memory.put m x.1 x.2) s.homes.mem } }

end Sys2Proof.Machine
end

