-- ==== Sys2Proof/Safety.lean ====
section
/-! DEFINITION. The words in which the claims are stated: states without the fields that only say where threads stand, what a
bundle or a sequencer needs to run an instruction, and what an instruction leaves in its registers. -/

namespace Sys2Proof.Machine

/-! ### What stays (frames) -/

/-- A thread without the fields that say where it stands: PC, status, arrival, the marks of its entry, and its region's number. -/
def Thread.still (t : Thread) : Thread :=
  { t with pc := 0, status := .exited, arrival := 0, late := false, held := false, acted := false, octet := false, alone := false
           ralone := false
           unchecked := false, rpc := 0, opening := false, region := 0, skid := 0 }
/-- A block without where its threads stand and whether it has halted. -/
def Block.still (k : Block) : Block := { k with threads := k.threads.map Thread.still, halt := none }
/-- The package without its bundles, the fast files' fill, and where threads stand: every register, memory and table is left. -/
def State.still (s : State) : State :=
  { s with blocks := s.blocks.map Block.still, bundles := [], cores := s.cores.map fun c => { c with fast := 0 } }

/-- A thread also without its V registers, predicates and pending flags. -/
def Thread.fixed (t : Thread) : Thread := { t.still with v := [], pred := 0, pend := 0 }
/-- The package also without every thread's V registers, predicates and pending flags. -/
def State.fixed (s : State) : State :=
  { s.still with blocks := s.blocks.map fun k => { k.still with threads := k.threads.map Thread.fixed } }

/-! ### Vector instructions -/

/-- A thread's destination after an instruction gave its lane `o`: the destination's registers hold the value, 32 bits each from
the lowest; predicates hold theirs, and P0 stays true; every other register and predicate is as before, and the raised flags
join the pending ones (04 R105, 07 R199). -/
def Landed (th th' : Thread) (d : DstOp) (o : LaneOut) : Prop :=
  th'.pend = th.pend ||| o.flags ∧
  match d with
  | .reg (.v n) w =>
    th'.pred = th.pred ∧ th'.regs = th.regs ∧ (∀ i, i < w → th'.reg (n.val + i) = BitVec.ofNat 32 (o.val / 2 ^ (32 * i))) ∧
    ∀ j, ¬(n.val ≤ j ∧ j < n.val + w) → th'.reg j = th.reg j
  | .pred _ | .preds =>
    th'.v = th.v ∧ ∀ j, th'.p j = if j ≠ 0 ∧ o.mask.getLsbD j = true then o.pv.getLsbD j else th.p j
  | _ => th'.v = th.v ∧ th'.pred = th.pred

/-- What a vector instruction leaves: each acting lane's destination holds its result, by home lane; every other thread keeps its
registers, predicates and flags; everything else of the package is as before, but for where threads stand. -/
def Wrote (s t : State) (bd : Bundle) (o : VOp) (out : Nat → LaneOut) : Prop :=
  t.fixed = s.fixed ∧
  ∀ b tid th, s.thread? b tid = some th → ∃ th', t.thread? b tid = some th' ∧
    if b = bd.blk ∧ tid ∈ s.active bd o.guard then Landed th th' o.dst (out (tid % 8))
    else th'.v = th.v ∧ th'.pred = th.pred ∧ th'.pend = th.pend

/-- Every lane of the bundle is in it: none has parked or left (01 R21). -/
abbrev Together (s : State) (bd : Bundle) : Prop := ∀ t ∈ bd.lanes, (s.thread? bd.blk t).map (·.status) = some .issued
/-- A bundle runs a vector instruction normally: its lanes are in it, it names no queue, every register it names exists, no lane raises
a fatal fault or a flag that it has enabled (04 R108, 07 R200). -/
abbrev Ready (s : State) (bd : Bundle) (k : Block) (o : VOp) (out : Nat → LaneOut) : Prop :=
  s.curBundle = some bd ∧ s.blocks[bd.blk]? = some k ∧ Together s bd ∧ o.usesQ = false ∧ s.outOfBounds bd o = [] ∧
  ∀ tid ∈ s.active bd o.guard, ∀ th ∈ s.thread? bd.blk tid,
    (out (tid % 8)).fault = none ∧ (o.traps = true → trapCause (out (tid % 8)).flags th.flags = 0)

/-- The result of home lane `l` under a function of the octet's lanes. -/
def outOf (bd : Bundle) (k : Block) (o : VOp) (F : List LaneIn → List LaneOut) (l : Nat) : LaneOut :=
  (F (laneViews (ownOps bd o k) o)).getD l (LaneOut.word 0)

/-- The instruction completes wherever a bundle runs it normally, and writes what `F` makes of the lanes' operands. -/
def Computes (i : Instr) (o : VOp) (F : List LaneIn → List LaneOut) : Prop :=
  ∀ s bd k, Ready s bd k o (outOf bd k o F) → ∃ t, exec i s = .next t ∧ Wrote s t bd o (outOf bd k o F)

/-! ### Where a bundle's lanes go -/

/-- The bundle runs an instruction with every lane in it, none held for its handler. -/
abbrev Whole (s : State) (bd : Bundle) (k : Block) : Prop :=
  s.curBundle = some bd ∧ s.blocks[bd.blk]? = some k ∧ bd.lanes.Nodup ∧
  ∀ t ∈ bd.lanes, (s.thread? bd.blk t).map (fun th => th.status == .issued && !th.held) = some true

/-- Every lane of the bundle has left its clause for the header that `dest` gives it: it is ready at the first instruction there. -/
def Arrived (t : State) (bd : Bundle) (dest : Nat → DWord) : Prop :=
  ∀ tid ∈ bd.lanes, ∃ th, t.thread? bd.blk tid = some th ∧ th.status = .ready false ∧ th.pc = dest tid + 8

/-- The package without its threads, bundles, fast files' fill and halts. -/
def State.rest (s : State) : State :=
  { s.still with blocks := s.blocks.map fun k => { k.still with threads := [] } }
/-- Every thread has become what `f` makes of it, but for where it stands, and everything else of the package is as before. -/
def Became (s t : State) (f : Nat → Nat → Thread → Thread) : Prop :=
  t.rest = s.rest ∧
  ∀ b tid th, s.thread? b tid = some th → ∃ th', t.thread? b tid = some th' ∧ th'.still = (f b tid th).still
/-- The lanes `act` of a bundle become what `f` makes of them, every other thread stays. -/
def onLanes (bd : Bundle) (act : List Nat) (f : Nat → Thread → Thread) (b tid : Nat) (th : Thread) : Thread :=
  if b = bd.blk ∧ tid ∈ act then f tid th else th
/-- A thread is parked, to go on at a PC. -/
def ParkedAt (t : State) (b tid : Nat) (p : Park) (pc : DWord) : Prop :=
  ∃ th, t.thread? b tid = some th ∧ th.status = .parked p ∧ th.pc = pc
/-- The bundle runs an instruction of its block, with all its lanes in it. -/
abbrev Runs (s : State) (bd : Bundle) (k : Block) : Prop := s.curBundle = some bd ∧ s.blocks[bd.blk]? = some k ∧ Together s bd
/-- A lane that parks has a next instruction: inside its clause, or at a header that passes the check (02 R52). -/
abbrev GoesOn (s : State) (bd : Bundle) (k : Block) : Prop := bd.idx < bd.last ∨ s.targetOk k true bd.after = true

/-- The system registers of 04 R123, by number, with what a thread reads. -/
def sysValues (s : State) (k : Block) (tid : Nat) (th : Thread) : List (Nat × Nat) :=
  [(0x000, tid), (0x001, tid / 8), (0x002, k.bid.toNat), (0x020, s.logical k.core), (0x021, k.core % 36 / 4), (0x022, k.core / 36),
   (0x023, s.pkg), (0x024, k.core % 4), (0x030, th.flags.toNat), (0x031, th.utvec.toNat), (0x032, th.uepc.toNat), (0x033, th.uepco.toNat),
   (0x034, th.uspecit.toNat), (0x035, th.ucause.toNat), (0x036, th.ulanes.toNat), (0x037, th.udst.toNat), (0x040, s.clock.toNat),
   (0x041, s.regs.stepno.toNat), (0x050, th.cntLd), (0x051, th.cntSt), (0x052, k.cntCp), (0x053, k.cntTl),
   (0x060, th.slotTag.toNat + 16 * th.grantNow.toNat + 256 * k.gen.toNat),
   (0x061, ((s.cores[k.core]?).map (·.dropcnt.toNat)).getD 0), (0x062, th.regs)] ++
  ((List.range 8).map fun n =>
    let below := (s.launch? k).any fun l => decide (n < l.blockLevel)
    (0x010 + n, if below then tid / ((k.ext.take n).map (·.toNat)).foldl (· * ·) 1 % max 1 (k.ext.getD n 1).toNat else (k.lvidx.getD n 0).toNat)) ++
  (List.range 8).map fun n => (0x018 + n, (k.ext.getD n 1).toNat)

/-! ### What the vector instructions compute, in the spec's own terms (05 R131) -/

/-- Source `n` of a lane as a 32-bit value. -/
def LaneIn.w (x : LaneIn) (n : Nat) : Word := BitVec.ofNat 32 (x.src n)
/-- Source `n` of a lane as a 64-bit value. -/
def LaneIn.d (x : LaneIn) (n : Nat) : DWord := BitVec.ofNat 64 (x.src n)
/-- u(x) and s(x) of 05 R131. -/
def uVal {n : Nat} (x : BitVec n) : Int := x.toNat
def sVal {n : Nat} (x : BitVec n) : Int := x.toInt
/-- floor(x / 2^n). -/
def shDown (x : Int) (n : Nat) : Int := Int.fdiv x (2 ^ n)

/-- A lane result from one, two or three 32-bit sources. -/
def un (f : Word → Word) (x : LaneIn) : LaneOut := .word (f (x.w 0)).toNat
def bin (f : Word → Word → Word) (x : LaneIn) : LaneOut := .word (f (x.w 0) (x.w 1)).toNat
def tern (f : Word → Word → Word → Word) (x : LaneIn) : LaneOut := .word (f (x.w 0) (x.w 1) (x.w 2)).toNat
/-- A 64-bit result from a 64-bit source and a second one of 64 or 32 bits. -/
def pair (f : DWord → DWord → DWord) (x : LaneIn) : LaneOut := .word (f (x.d 0) (x.d 1)).toNat
def pairW (f : DWord → Word → DWord) (x : LaneIn) : LaneOut := .word (f (x.d 0) (x.w 1)).toNat

/-- 05 R135, R136. -/
def arithLane : Instr → Option (VOp × (LaneIn → LaneOut))
  | .iadd g d a b => some (.w1 g d [a, b], bin fun a b => wrap32 (uVal a + uVal b))
  | .isub g d a b => some (.w1 g d [a, b], bin fun a b => wrap32 (uVal a - uVal b))
  | .iaddi g d a imm => some (.w1 g d [a], un fun a => wrap32 (uVal a + sVal imm))
  | .imul g d a b => some (.w1 g d [a, b], bin fun a b => wrap32 (uVal a * uVal b))
  | .imulhi g d a b => some (.w1 g d [a, b], bin fun a b => wrap32 (shDown (sVal a * sVal b) 32))
  | .imulhu g d a b => some (.w1 g d [a, b], bin fun a b => wrap32 (shDown (uVal a * uVal b) 32))
  | .imad g d a b c => some (.w1 g d [a, b, c], tern fun a b c => wrap32 (uVal a * uVal b + uVal c))
  | .idiv g d a b => some (.w1 g d [a, b], bin fun a b =>
      if b = 0 then 0xFFFFFFFF else if sVal a = -2147483648 ∧ sVal b = -1 then 0x80000000 else wrap32 (Int.tdiv (sVal a) (sVal b)))
  | .idivu g d a b => some (.w1 g d [a, b], bin fun a b => if b = 0 then 0xFFFFFFFF else wrap32 (uVal a / uVal b))
  | .irem g d a b => some (.w1 g d [a, b], bin fun a b =>
      if b = 0 then a else if sVal a = -2147483648 ∧ sVal b = -1 then 0 else wrap32 (sVal a - Int.tdiv (sVal a) (sVal b) * sVal b))
  | .iremu g d a b => some (.w1 g d [a, b], bin fun a b => if b = 0 then a else wrap32 (uVal a % uVal b))
  | .imin g d a b => some (.w1 g d [a, b], bin fun a b => if sVal a ≤ sVal b then a else b)
  | .imax g d a b => some (.w1 g d [a, b], bin fun a b => if sVal a ≥ sVal b then a else b)
  | .iminu g d a b => some (.w1 g d [a, b], bin fun a b => if uVal a ≤ uVal b then a else b)
  | .imaxu g d a b => some (.w1 g d [a, b], bin fun a b => if uVal a ≥ uVal b then a else b)
  | .iabs g d a => some (.w1 g d [a], un fun a => wrap32 (sVal a).natAbs)
  | _ => none

/-- 05 R137. -/
def logicLane : Instr → Option (VOp × (LaneIn → LaneOut))
  | .and g d a b => some (.w1 g d [a, b], bin fun a b => a &&& b)
  | .or g d a b => some (.w1 g d [a, b], bin fun a b => a ||| b)
  | .xor g d a b => some (.w1 g d [a, b], bin fun a b => a ^^^ b)
  | .andn g d a b => some (.w1 g d [a, b], bin fun a b => a &&& ~~~b)
  | .andi g d a imm => some (.w1 g d [a], un fun a => a &&& imm.signExtend 32)
  | .ori g d a imm => some (.w1 g d [a], un fun a => a ||| imm.signExtend 32)
  | .xori g d a imm => some (.w1 g d [a], un fun a => a ^^^ imm.signExtend 32)
  | .shl g d a b => some (.w1 g d [a, b], bin fun a b => wrap32 (uVal a * 2 ^ (b.toNat % 32)))
  | .shr g d a b => some (.w1 g d [a, b], bin fun a b => wrap32 (shDown (uVal a) (b.toNat % 32)))
  | .sar g d a b => some (.w1 g d [a, b], bin fun a b => wrap32 (shDown (sVal a) (b.toNat % 32)))
  | .rotl g d a b => some (.w1 g d [a, b], bin fun a b =>
      wrap32 (uVal a * 2 ^ (b.toNat % 32)) ||| wrap32 (shDown (uVal a) (32 - b.toNat % 32)))
  | .shli g d a n => some (.w1 g d [a], un fun a => wrap32 (uVal a * 2 ^ n.val))
  | .shri g d a n => some (.w1 g d [a], un fun a => wrap32 (shDown (uVal a) n.val))
  | .sari g d a n => some (.w1 g d [a], un fun a => wrap32 (shDown (sVal a) n.val))
  | _ => none

/-- Position and width of a control word (05 R138). -/
def fieldPos (c : Word) : Nat := (c.extractLsb' 0 5).toNat
def fieldWidth (c : Word) : Nat := min (c.extractLsb' 8 6).toNat (32 - fieldPos c)
/-- 05 R138, R139. -/
def bitLane : Instr → Option (VOp × (LaneIn → LaneOut))
  | .bfe g d a c => some (.w1 g d [a, c], bin fun a c =>
      let f := shDown (uVal a) (fieldPos c) % 2 ^ fieldWidth c
      if fieldWidth c = 0 then 0 else if a.getLsbD (fieldPos c + fieldWidth c - 1) then wrap32 (f - 2 ^ fieldWidth c) else wrap32 f)
  | .bfeu g d a c => some (.w1 g d [a, c], bin fun a c =>
      if fieldWidth c = 0 then 0 else wrap32 (shDown (uVal a) (fieldPos c) % 2 ^ fieldWidth c))
  | .bfi g d a b c => some (.w1 g d [a, b, c], tern fun a b c =>
      let m := wrap32 ((2 ^ fieldWidth c - 1) * 2 ^ fieldPos c)
      (a &&& ~~~m) ||| (wrap32 (uVal b * 2 ^ fieldPos c) &&& m))
  | .popc g d a => some (.w1 g d [a], un fun a => BitVec.ofNat 32 ((List.range 32).filter a.getLsbD).length)
  | .clz g d a => some (.w1 g d [a], un fun a => BitVec.ofNat 32 ((List.range 32).takeWhile fun i => !a.getLsbD (31 - i)).length)
  | .ctz g d a => some (.w1 g d [a], un fun a => BitVec.ofNat 32 ((List.range 32).takeWhile fun i => !a.getLsbD i).length)
  | .brev g d a => some (.w1 g d [a], un BitVec.reverse)
  | _ => none

/-- 05 R140. -/
def pairLane : Instr → Option (VOp × (LaneIn → LaneOut))
  | .add64 g d a b => some (.to64 g d [(a, 2), (b, 2)], pair fun a b => wrap64 (uVal a + uVal b))
  | .sub64 g d a b => some (.to64 g d [(a, 2), (b, 2)], pair fun a b => wrap64 (uVal a - uVal b))
  | .shl64 g d a b => some (.to64 g d [(a, 2), (b, 1)], pairW fun a b => wrap64 (uVal a * 2 ^ (b.toNat % 64)))
  | .shr64 g d a b sx => some (.to64 g d [(a, 2), (b, 1)], pairW fun a b =>
      wrap64 (shDown (if sx then sVal a else uVal a) (b.toNat % 64)))
  | .lea g d a b sh zx => some (.to64 g d [(a, 2), (b, 1)], pairW fun a b =>
      wrap64 (uVal a + (if zx then uVal b else sVal b) * 2 ^ sh.val))
  | _ => none

/-- 05 R141, R142, R145, R153. -/
def moveLane : Instr → Option (VOp × (LaneIn → LaneOut))
  | .mov g d a w => some (⟨g, [(a, movWords w)], [], .reg d (movWords w), false, false⟩, fun x => .word (x.src 0))
  | .movi g d imm => some (.w1 g d [], fun _ => .word (imm.signExtend 32).toNat)
  | .movhi g d a imm => some (.w1 g d [a], un fun a => (a &&& 0x0000FFFF) ||| wrap32 (uVal imm * 2 ^ 16))
  | .sel g d a b p inv => some (.w1 g d [a, b], fun x => .word (if x.pred.getLsbD p.val != inv then x.w 0 else x.w 1).toNat)
  | .p2v g d => some (.w1 g d [], fun x => .word (x.pred.setWidth 32).toNat)
  | .idot4 g d a b c => some (.w1 g d [a, b, c], tern fun a b c =>
      wrap32 (uVal c + sVal (a.extractLsb' 0 8) * sVal (b.extractLsb' 0 8) + sVal (a.extractLsb' 8 8) * sVal (b.extractLsb' 8 8)
        + sVal (a.extractLsb' 16 8) * sVal (b.extractLsb' 16 8) + sVal (a.extractLsb' 24 8) * sVal (b.extractLsb' 24 8)))
  | _ => none

/-- The comparisons of ISETP and KSET (05 R143, 14 R393). -/
def compareWords {n : Nat} : Cmp → BitVec n → BitVec n → Bool
  | .eq, a, b => a == b
  | .ne, a, b => a != b
  | .lt, a, b => decide (sVal a < sVal b)
  | .le, a, b => decide (sVal a ≤ sVal b)
  | .gt, a, b => decide (sVal a > sVal b)
  | .ge, a, b => decide (sVal a ≥ sVal b)
  | .ltu, a, b => decide (uVal a < uVal b)
  | .leu, a, b => decide (uVal a ≤ uVal b)
  | .gtu, a, b => decide (uVal a > uVal b)
  | .geu, a, b => decide (uVal a ≥ uVal b)
/-- The operations of PSETP (05 R144). -/
def combinePreds : PredOp → Bool → Bool → Bool
  | .and, x, y => x && y
  | .or, x, y => x || y
  | .xor, x, y => x != y
  | .andn, x, y => x && !y
  | .orn, x, y => x || !y
  | .nor, x, y => !(x || y)
  | .nand, x, y => !(x && y)
  | .xnor, x, y => x == y
/-- 05 R143, R144, R145 (V2P). -/
def predLane : Instr → Option (VOp × (LaneIn → LaneOut))
  | .isetp g p a b c => some (.toPred g p [a, b], fun x => .ofPred p.val (compareWords c (x.w 0) (x.w 1)))
  | .psetp g p a b o => some (⟨g, [], [a, b], .pred p.val, false, false⟩, fun x =>
      .ofPred p.val (combinePreds o (x.preds.getD 0 false) (x.preds.getD 1 false)))
  | .v2p g a b => some (⟨g, [(a, 1), (b, 1)], [], .preds, false, false⟩, fun x =>
      ⟨0, (x.w 1).setWidth 8 &&& 0xFE, (x.w 0).setWidth 8, 0, none⟩)
  | _ => none

/-- A result with its flags from one, two or three FP32 sources after their modifiers (07 R182). -/
def f1 (a : FSrc) (f : Nat → Nat × Raised) (x : LaneIn) : LaneOut := .flagged (f (fVal a (x.src 0)))
def f2 (a b : FSrc) (f : Nat → Nat → Nat × Raised) (x : LaneIn) : LaneOut := .flagged (f (fVal a (x.src 0)) (fVal b (x.src 1)))
/-- The arithmetic of 07 R184–R191 on the values the words hold. -/
def floatLane : Instr → Option (VOp × (LaneIn → LaneOut))
  | .fadd g d a b rm => some (.f2 g d a.src b.src, f2 a b fun x y => fp32.add rm (fp32.decode x) (fp32.decode y))
  | .fsub g d a b rm => some (.f2 g d a.src b.src, f2 a b fun x y => fp32.sub rm (fp32.decode x) (fp32.decode y))
  | .fmul g d a b rm => some (.f2 g d a.src b.src, f2 a b fun x y => fp32.mul rm (fp32.decode x) (fp32.decode y))
  | .fdiv g d a b rm => some (.f2 g d a.src b.src, f2 a b fun x y => fp32.div rm (fp32.decode x) (fp32.decode y))
  | .ffma g d a b c => some (⟨g, [(a, 1), (b, 1), (c, 1)], [], .reg d 1, false, true⟩, fun x =>
      .flagged (fp32.fma (fp32.decode (x.src 0)) (fp32.decode (x.src 1)) (fp32.decode (x.src 2))))
  | .fmin g d a b => some (.f2 g d a.src b.src, f2 a b (fp32.minMax false))
  | .fmax g d a b => some (.f2 g d a.src b.src, f2 a b (fp32.minMax true))
  | .fsetp g p a b c => some (⟨g, [(a.src, 1), (b.src, 1)], [], .pred p.val, false, true⟩, fun x =>
      let r := fp32.compare c (fVal a (x.src 0)) (fVal b (x.src 1))
      (LaneOut.ofPred p.val r.1).raise r.2)
  | .frcp g d a => some (.f1 g d a, f1 a fun x => frcp (BitVec.ofNat 32 x))
  | .frsq g d a => some (.f1 g d a, f1 a fun x => frsq (BitVec.ofNat 32 x))
  | .fexp2 g d a => some (.f1 g d a, f1 a fun x => fexp2 (BitVec.ofNat 32 x))
  | .flog2 g d a => some (.f1 g d a, f1 a fun x => flog2 (BitVec.ofNat 32 x))
  | .fsin g d a => some (.f1 g d a, f1 a fun x => fsinCos false (BitVec.ofNat 32 x))
  | .fcos g d a => some (.f1 g d a, f1 a fun x => fsinCos true (BitVec.ofNat 32 x))
  | .ftanh g d a => some (.f1 g d a, f1 a fun x => ftanh (BitVec.ofNat 32 x))
  | .fsqrt g d a rm => some (.f1 g d a, f1 a fun x => fp32.sqrt rm (fp32.decode x))
  | .frnd g d a rm => some (.f1 g d a, f1 a (fp32.integral rm))
  | .fclass g d a => some (.w1 g d [a.src], f1 a fun x => (classOf x, 0))
  | .fscale g d a b rm => some (.f2 g d a.src b, fun x => .flagged (fp32.scaleBy rm (fp32.decode (fVal a (x.src 0))) (sVal (x.w 1))))
  | _ => none

/-- Both elements of a packed instruction (07 R192): element 1 in the high half, the OR of the flags. -/
def both (f : Nat → Nat → Nat × Raised) (a b : FSrc) (x : LaneIn) : LaneOut :=
  let e := fun (s : FSrc) (n i : Nat) => fmod s.abs s.neg 16 ((x.w n).extractLsb' (16 * i) 16).toNat
  let r0 := f (e a 0 0) (e b 1 0)
  let r1 := f (e a 0 1) (e b 1 1)
  .flagged (r0.1 + r1.1 * 2 ^ 16, r0.2 ||| r1.2)
/-- 07 R192, R193. -/
def packedLane : Instr → Option (VOp × (LaneIn → LaneOut))
  | .hadd2 g d a b bf => some (.f2 g d a.src b.src, both (fun u v => (packFmt bf).add .rne ((packFmt bf).decode u) ((packFmt bf).decode v)) a b)
  | .hsub2 g d a b bf => some (.f2 g d a.src b.src, both (fun u v => (packFmt bf).sub .rne ((packFmt bf).decode u) ((packFmt bf).decode v)) a b)
  | .hmul2 g d a b bf => some (.f2 g d a.src b.src, both (fun u v => (packFmt bf).mul .rne ((packFmt bf).decode u) ((packFmt bf).decode v)) a b)
  | .hmin2 g d a b bf => some (.f2 g d a.src b.src, both ((packFmt bf).minMax false) a b)
  | .hmax2 g d a b bf => some (.f2 g d a.src b.src, both ((packFmt bf).minMax true) a b)
  | .hfma2 g d a b c => some (⟨g, [(a, 1), (b, 1), (c, 1)], [], .reg d 1, false, true⟩, fun x =>
      let e := fun (n i : Nat) => fp16.decode ((x.w n).extractLsb' (16 * i) 16).toNat
      let r0 := fp16.fma (e 0 0) (e 1 0) (e 2 0)
      let r1 := fp16.fma (e 0 1) (e 1 1) (e 2 1)
      .flagged (r0.1 + r1.1 * 2 ^ 16, r0.2 ||| r1.2))
  | _ => none

/-- 07 R194–R198. -/
def convertLane : Instr → Option (VOp × (LaneIn → LaneOut))
  | .cvt g d a b src dst rm => some (cvtOp g d a b src dst, fun x =>
      if src.narrow then
        let r0 := convert src dst rm (x.src 0 % 2 ^ 16)
        let r1 := convert src dst rm (x.src 0 / 2 ^ 16 % 2 ^ 16)
        .flagged (r0.1 + r1.1 * 2 ^ (if dst.narrow then 16 else 32), r0.2 ||| r1.2)
      else if dst.narrow then
        let r0 := convert src dst rm (x.src 0)
        let r1 := convert src dst rm (x.src 1)
        .flagged (r0.1 + r1.1 * 2 ^ 16, r0.2 ||| r1.2)
      else .flagged (convert src dst rm (x.src 0)))
  | .pack8 g d a b ovf head rm => some (⟨g, [(a, if head then 2 else 4), (b, 1)], [], .reg d 1, false, true⟩, fun x =>
      let rs := (List.range (if head then 2 else 4)).map fun k =>
        packCode (x.src 1 % 256) (x.src 1 / 256 % 256) rm ovf (x.src 0 / 2 ^ (32 * k) % 2 ^ 32)
      let v := ofBytes (rs.map fun r => BitVec.ofNat 8 r.1)
      .flagged (if head then x.src 1 % 2 ^ 16 + v * 2 ^ 16 else v, rs.foldl (fun f r => f ||| r.2) 0))
  | .unpack8 g d a b rm => some (⟨g, (a, 1) :: (b.toList.map fun x => (x, 1)), [], .reg d (if b.isSome then 4 else 2), false, true⟩, fun x =>
      let c := if b.isSome then x.src 1 else x.src 0
      match bfmt (c % 256) with
      | none => { LaneOut.word 0 with fault := some Code.blockFormat }
      | some f =>
        let first := if b.isSome then 0 else 2
        let rs := (List.range (if b.isSome then 4 else 2)).map fun k =>
          if c / 256 % 256 = 255 then (0x7FC00000, 0)
          else fp32.convert rm ((f.decode (x.src 0 / 2 ^ (8 * (k + first)) % 256)).scale ((c / 256 % 256 : Nat) - 127))
        .flagged (ofBytes (rs.flatMap fun r => toBytes r.1 4), rs.foldl (fun f r => f ||| r.2) 0))
  | .bscale g d a b => some (.f2 g d a b, fun x =>
      let f := x.src 1 % 256
      match bfmt f with
      | none => .flagged (f + 0xFF * 2 ^ 8, .nv)
      | some y =>
        let v := fp32.decode (x.src 0)
        let sc := match v with
          | .fin _ m e => y.scaleFor m e
          | _ => y.scaleFor 0 0
        .flagged (f + sc * 2 ^ 8, if v.isSnan then .nv else .none))
  | _ => none

/-- The ballot and the live lanes of an octet (05 R148). -/
def votes (xs : List LaneIn) : Nat × Nat :=
  ((xs.zipIdx).foldl (fun m x => if x.1.live && x.1.preds.getD 0 false then m + 2 ^ x.2 else m) 0,
   (xs.zipIdx).foldl (fun m x => if x.1.live then m + 2 ^ x.2 else m) 0)
/-- The cross-lane instructions, on the octet's lanes (05 R147–R152). -/
def crossLane : Instr → Option (VOp × (List LaneIn → List LaneOut))
  | .shuf g d a b m => some (⟨g, [(a, 1), (b, 1)], [], .reg d 1, true, false⟩, fun xs => (xs.zipIdx).map fun x =>
      let n := x.1.src 1 % 8
      let from' := match m with
        | .idx => n
        | .up => if x.2 < n then x.2 else x.2 - n
        | .down => if 7 < x.2 + n then x.2 else x.2 + n
        | .xor => x.2 ^^^ n
        | .rot => (x.2 + 8 - n) % 8
      .word ((xs.getD from' LaneIn.none).src 0))
  | .vote g d a => some (⟨g, [], [a], (match d with
      | .all p | .any p | .uni p => .pred p.val
      | .ballot r => .reg r 1), true, false⟩, fun xs => xs.map fun _ =>
      let v := votes xs
      match d with
      | .all p => .ofPred p.val (v.1 == v.2)
      | .any p => .ofPred p.val (v.1 != 0)
      | .uni p => .ofPred p.val (v.1 == 0 || v.1 == v.2)
      | .ballot _ => .word v.1)
  | .redoct g d a o rm => some (⟨g, [(a, 1)], [], .reg d 1, true, false⟩, fun xs => xs.map fun _ =>
      .flagged ((redTree o rm fun i => match xs[i]? with
        | some x => if x.live then some (x.src 0, 0) else none
        | none => none).getD (0, 0)))
  | .matchL g d a w => some (⟨g, [(a, if w then 2 else 1)], [], .reg d 1, true, false⟩, fun xs => xs.map fun x =>
      .word ((xs.zipIdx).foldl (fun m y => if y.1.live && y.1.src 0 == x.src 0 then m + 2 ^ y.2 else m) 0))
  | _ => none

/-! ### Memory instructions -/

/-- The same requests, but for whether their lines may still fill an L1. -/
def SameReqs (rs rs' : List Req) : Prop := rs.map (fun r => { r with fills := true }) = rs'.map fun r => { r with fills := true }
/-- The same returns and acknowledgements, but for the bytes that an L1 line still takes from them (11 R297). -/
def SameRets (rs rs' : List Ret) : Prop :=
  rs.map (fun r => { r with part := { r.part with fmask := 0 } }) = rs'.map fun r => { r with part := { r.part with fmask := 0 } }
/-- The state in which a lane's access is made: the TLB entry that gave its place is the most recent (09 R259). -/
def State.reached (s : State) (k : Block) (ea : Nat) (g : Tgt) : State :=
  match g with
  | .mem _ _ | .mmio _ => s.tlbUse k.core (s.ctxOf k) ea
  | _ => s
/-- One lane runs a memory instruction, past everything that could hold it back: its registers exist, its counters have room, no
acquire holds it, and a release's earlier writes are acknowledged. `s1` is the state after a singleton's commit. -/
abbrev LoneMem (s s1 : State) (bd : Bundle) (k : Block) (tid : Nat) (th : Thread) (o : MemOp) : Prop :=
  s.curBundle = some bd ∧ s1 = (if o.single then s.commitLanes bd o.guard else s) ∧ Runs s1 bd k ∧
  s.active bd o.guard = [tid] ∧ s1.active bd o.guard = [tid] ∧ s1.thread? bd.blk tid = some th ∧ o.need ≤ th.regs ∧
  (o.ld = true → th.cntLd ≠ 63) ∧ (o.st = true → th.cntSt ≠ 63) ∧ th.blocked = 0 ∧ (o.waitW = true → s1.writesPending bd.blk tid = false)

/-- As `LoneMem`, but for the earlier writes that a release waits for. -/
abbrev LoneLane (s s1 : State) (bd : Bundle) (k : Block) (tid : Nat) (th : Thread) (o : MemOp) : Prop :=
  s.curBundle = some bd ∧ s1 = (if o.single then s.commitLanes bd o.guard else s) ∧ Runs s1 bd k ∧
  s.active bd o.guard = [tid] ∧ s1.active bd o.guard = [tid] ∧ s1.thread? bd.blk tid = some th ∧ o.need ≤ th.regs ∧
  (o.ld = true → th.cntLd ≠ 63) ∧ (o.st = true → th.cntSt ≠ 63) ∧ th.blocked = 0

/-- The loads: form, what their requests share, destination, and whether the L1 is passed by. -/
def loadForm : Instr → Option (MemOp × ReqForm × Option Nat × Bool)
  | .ld g d m => some (loadOp g d m (if m.path == .spad then .own else .virt m.path .read),
      ⟨.load, m.path, m.evict.val, m.order, m.scope⟩, Dst.num d, m.path == .spad)
  | .ldro g d m => if m.order = .rlx then some (loadOp g d m (.virt .ro .read), ⟨.ldro, .ro, m.evict.val, .rlx, .thread⟩, Dst.num d, false) else none
  | .lds g d m => some (loadOp g d m .cluster, ⟨.load, .spad, 0, m.order, m.scope⟩, Dst.num d, true)
  | _ => none
/-- The stores of register data. -/
def storeForm : Instr → Option (MemOp × ReqForm × Fin 1536 × Size × Bool)
  | .st g (.v n) m => some (storeOp g (.v n) m (if m.path == .spad then .own else .virt m.path .write),
      ⟨.store, m.path, m.evict.val, m.order, m.scope⟩, n, m.size, false)
  | .sts g (.v n) m => some (storeOp g (.v n) m .cluster, ⟨.store, .spad, 0, m.order, m.scope⟩, n, m.size, true)
  | _ => none
/-- The stores of an entry that they pop from a queue. -/
def storeQForm : Instr → Option (MemOp × ReqForm × Fin 16 × Size)
  | .st g (.q n) m => some (storeOp g (.q n) m (if m.path == .spad then .own else .virt m.path .write),
      ⟨.store, m.path, m.evict.val, m.order, m.scope⟩, n, m.size)
  | .sts g (.q n) m => some (storeOp g (.q n) m .cluster, ⟨.store, .spad, 0, m.order, m.scope⟩, n, m.size)
  | _ => none
/-- The atomics with their opcodes (02 R85). -/
def atomForm : Instr → Option (Nat × Guard × Dst × AtomF)
  | .atomAdd g d m => some (0x85, g, d, m)
  | .atomMin g d m => some (0x86, g, d, m)
  | .atomMax g d m => some (0x87, g, d, m)
  | .atomMinu g d m => some (0x88, g, d, m)
  | .atomMaxu g d m => some (0x89, g, d, m)
  | .atomAnd g d m => some (0x8A, g, d, m)
  | .atomOr g d m => some (0x8B, g, d, m)
  | .atomXor g d m => some (0x8C, g, d, m)
  | .atomExch g d m => some (0x8D, g, d, m)
  | .atomCas g d m => some (0x8E, g, d, m)
  | .atomFadd g d m => some (0x8F, g, d, m)
  | .atomFmin g d m => some (0x90, g, d, m)
  | .atomFmax g d m => some (0x91, g, d, m)
  | _ => none
/-- An atomic as a memory instruction: a singleton on its aligned address, which waits for earlier writes when it releases. -/
def atomMem (op : Nat) (g : Guard) (d : Dst) (m : AtomF) : MemOp :=
  { guard := g, addr := m.addr.val, off := 0, bytes := m.size.bytes, space := .virt .gen .atomic, single := true
    ld := (Dst.num d).isSome, st := !(Dst.num d).isSome, waitW := m.order == .rel || m.order == .sc
    need := max (m.addr.val + 2) (max ((Dst.num d).elim 0 (· + m.size.bytes / 4))
      (srcTop m.opnd (if op == 0x8E then 2 * (m.size.bytes / 4) else m.size.bytes / 4)))
    q := match m.opnd with
      | .q _ => true
      | _ => false }

/-- Every thread instruction that accesses the bytes at an address. -/
def accessForm (i : Instr) : Option MemOp :=
  match loadForm i, storeForm i, storeQForm i, atomForm i, i with
  | some x, _, _, _, _ => some x.1
  | _, some x, _, _, _ => some x.1
  | _, _, some x, _, _ => some x.1
  | _, _, _, some x, _ => some (atomMem x.1 x.2.1 x.2.2.1 x.2.2.2)
  | _, _, _, _, .signal g a o => some (sigMem g a o)
  | _, _, _, _, _ => none
/-- A store or an atomic of one lane takes its operand of some words from a queue: the pop of it alone (02 R69). -/
def popOne (q : Fin 16) (words : Nat) : VOp := ⟨0, [(.q q, words)], [], .none, false, false⟩
/-- The entry, or the lane's element of the row, that a lane pops (12 R324, R326). -/
def Block.popped (k : Block) (q tid : Nat) : Nat := (k.pop q).2.getD (if (k.queue q).row then tid % 8 else 0) 0

/-! ### Queues, barriers and the sequencer -/

/-- The lane functions of every vector instruction that acts lane by lane. -/
def pointwise (i : Instr) : Option (VOp × (LaneIn → LaneOut)) :=
  [arithLane i, logicLane i, bitLane i, pairLane i, moveLane i, predLane i, floatLane i, packedLane i, convertLane i].findSome? id

/-- A lane that stood alone in an instruction with a queue operand: its destination is written, and the flags it raised are in FLAGS
(08 R211, R213). -/
def Settled (th th' : Thread) (d : DstOp) (o : LaneOut) : Prop :=
  (∃ u, Landed th u d o ∧ th'.v = u.v ∧ th'.pred = u.pred) ∧ th'.pend = 0 ∧ th'.flags = th.flags ||| (th.pend ||| o.flags).setWidth 32
/-- What a lane brings when its queue sources popped (02 R69). -/
def popView (k : Block) (o : VOp) (th : Thread) : LaneIn :=
  ⟨true, true, th.pred ||| 1, (k.popLane o.srcs (o.srcs.map fun x => srcRead x.1 x.2 k th)).2, o.preds.map fun p => th.p p.n.val⟩

/-- A lane's register destination, written; VZ drops the value (04 R105). -/
def Thread.give (th : Thread) (d : Dst) (v : Nat) : Thread :=
  match d with
  | .v n => { th with v := th.v.set n.val (BitVec.ofNat 32 v) }
  | _ => th

/-- The package without where its sequencers stand and halts. -/
def State.seqless (s : State) : State :=
  { s.still with blocks := s.blocks.map fun k => { k.still with seq := { k.seq with hdr := 0, idx := 0, last := 0, wait := .none } } }
/-- A block's sequencer runs an instruction whose guard is true (02 R63). -/
abbrev SeqRuns (s : State) (b : Nat) (k : Block) (g : Guard) : Prop :=
  s.cur = .sequencer b ∧ s.resident? b = some k ∧ (g.val = 0 ∨ k.kreg g.val ≠ 0)
/-- The sequencer of a block has gone on from where it stood: to the next word of its clause, or to the next clause's header, or
its block has halted there because that header fails the check (02 R52). -/
def WentOn (t : State) (b : Nat) (q : Seq) : Prop :=
  ∃ k, t.blocks[b]? = some k ∧
    if q.idx < q.last then k.seq.hdr = q.hdr ∧ k.seq.idx = q.idx + 1 ∧ k.seq.wait = .none
    else k.halt.isSome = true ∨ (k.seq.hdr = q.after ∧ k.seq.idx = 0 ∧ k.seq.wait = .none)

/-- The sequencer of a block has done an instruction: it has gone on, and but for that the package is `s'`. -/
def SeqDid (s t s' : State) (b : Nat) : Prop := (∃ k, s.blocks[b]? = some k ∧ WentOn t b k.seq) ∧ t.seqless = s'.seqless
/-- The sequencer stands at a header. -/
def SeqAt (t : State) (b : Nat) (a : DWord) : Prop := ∃ k, t.blocks[b]? = some k ∧ k.seq.hdr = a ∧ k.seq.idx = 0 ∧ k.seq.wait = .none
/-- The instruction or event halts a block with a fault code, and memory stays. -/
def HaltsWith (i : Instr) (s : State) (b code : Nat) : Prop :=
  ∃ t, exec i s = .next t ∧ t.homes.mem = s.homes.mem ∧ (t.blocks[b]?).bind (fun x => x.halt.map (·.code)) = some code

/-- The K arithmetic (14 R393): guard, destination, and result from the K registers. -/
def seqLane : Instr → Option (Guard × Fin 128 × (Block → DWord))
  | .kadd g kd ka kb imm => some (g, kd, fun k => k.kreg ka.val + (k.kreg kb.val + imm.signExtend 64))
  | .ksub g kd ka kb imm => some (g, kd, fun k => k.kreg ka.val - (k.kreg kb.val + imm.signExtend 64))
  | .kmul g kd ka kb imm => some (g, kd, fun k => k.kreg ka.val * (k.kreg kb.val + imm.signExtend 64))
  | .kand g kd ka kb imm => some (g, kd, fun k => k.kreg ka.val &&& (k.kreg kb.val + imm.signExtend 64))
  | .kor g kd ka kb imm => some (g, kd, fun k => k.kreg ka.val ||| (k.kreg kb.val + imm.signExtend 64))
  | .kxor g kd ka kb imm => some (g, kd, fun k => k.kreg ka.val ^^^ (k.kreg kb.val + imm.signExtend 64))
  | .kshl g kd ka kb imm => some (g, kd, fun k => k.kreg ka.val <<< ((k.kreg kb.val + imm.signExtend 64).toNat % 64))
  | .kshr g kd ka kb imm => some (g, kd, fun k => k.kreg ka.val >>> ((k.kreg kb.val + imm.signExtend 64).toNat % 64))
  | .kmin g kd ka kb imm => some (g, kd, fun k =>
      let y := k.kreg kb.val + imm.signExtend 64
      if sVal (k.kreg ka.val) ≤ sVal y then k.kreg ka.val else y)
  | .kmax g kd ka kb imm => some (g, kd, fun k =>
      let y := k.kreg kb.val + imm.signExtend 64
      if sVal (k.kreg ka.val) ≥ sVal y then k.kreg ka.val else y)
  | .kset g kd ka kb c => some (g, kd, fun k => if compareWords c (k.kreg ka.val) (k.kreg kb.val) then 1 else 0)
  | .kmovi g kd imm => some (g, kd, fun _ => imm.signExtend 64)
  | .kmovhi g kd ka imm => some (g, kd, fun k => (k.kreg ka.val &&& 0x00000000FFFFFFFF) ||| (imm.setWidth 64 <<< 32))
  | _ => none

/-! ### Engines -/

/-- No migration moves a byte of HBM: its page is not an old one, nor one to which a page of the SCM has moved (09 R265). -/
abbrev State.Unmoved (s : State) (a : Nat) : Prop := s.migOf a = none ∧ (s.movedFrom a).all (fun y => decide (y < 0x06000000000)) = true
/-- The bytes from a virtual address lie, one after the other, in this package's HBM from a local address, as a core or the front end
translates them: no walk waits for room, no page of them migrates or has moved there from SCM, and no line of them is poisoned. -/
abbrev Plain (s : State) (core : Option Nat) (ctx va n : Nat) (acc : Acc) (pa a : Nat) (code : Bool) : Prop :=
  ∀ i, i < n → s.walkFull core ctx (va + i) = false ∧ s.xlateAt core ctx (va + i) acc = .ok (pa + i) code ∧
    s.phys (pa + i) = .hbm (a + i) ∧ s.Unmoved (a + i) ∧ s.poisoned (a + i) = false
/-- The package once an engine has translated ranges, one after the other: its core's TLB has used or filled their pages (09 R259). -/
def State.translated (s : State) (e : Eng) (rs : List (Nat × Nat)) : State := rs.foldl (fun (s : State) r => s.tlbLines e r.1 r.2) s
/-- Memory after bytes were written: the bytes of the range are those, every other one is as before. -/
def Stored (m m' : Mem) (a : Nat) (bs : List Byte) : Prop :=
  ∀ x, Memory.get m' x = if a ≤ x ∧ x < a + bs.length then bs.getD (x - a) 0 else Memory.get m x

/-! ### Copies and events -/

/-- The copy commands with what they capture from the K registers (12 R345, R347). -/
def copyForm (k : Block) : Instr → Option (Guard × CpyArgs)
  | .cpy g b8 bq kd ks kc => some (g, ⟨0xDE, b8, bq.val, k.kreg ks.val, k.kreg kd.val, k.kreg kc.val, 0⟩)
  | .cpya g b8 bq kd ks kc => some (g, ⟨0xDF, b8, bq.val, k.kreg ks.val, k.kreg kd.val, k.kreg kc.val, k.kreg (kc.val + 1)⟩)
  | .cpyg g bq kd ks kc => some (g, ⟨0xE0, false, bq.val, k.kreg ks.val, k.kreg kd.val, k.kreg kc.val, k.kreg (kc.val + 1)⟩)
  | .cpys g bq kd ks kc => some (g, ⟨0xE1, false, bq.val, k.kreg ks.val, k.kreg kd.val, k.kreg kc.val, k.kreg (kc.val + 1)⟩)
  | .cpyq g q ks kc => some (g, ⟨0xE2, false, q.val, k.kreg ks.val, 0, k.kreg kc.val, 0⟩)
  | .cpyec g bq kd ks kc => some (g, ⟨0xE3, false, bq.val, k.kreg ks.val, k.kreg kd.val, k.kreg kc.val, 0⟩)
  | _ => none
/-- The bytes at a physical address lie, one after the other, in this package's HBM from a local address: no page of them migrates
or has moved there from SCM, and no line of them is poisoned. -/
abbrev PlainPa (s : State) (pa n a : Nat) : Prop :=
  ∀ i, i < n → s.phys (pa + i) = .hbm (a + i) ∧ s.Unmoved (a + i) ∧ s.poisoned (a + i) = false
/-- The same in this package's HBM or SCM, where no capture runs. -/
abbrev LocalPa (s : State) (pa n a : Nat) : Prop :=
  ∀ i, i < n → (s.phys (pa + i) = .hbm (a + i) ∨ s.phys (pa + i) = .scm (a + i) ∧ s.seif.capturing = false) ∧ s.Unmoved (a + i) ∧
    s.poisoned (a + i) = false
/-- What a run of the rebuild has of a survivor at an address: the bytes of this package's memory, or those that another package has
answered with to this very request (16 R459). -/
def MemberBytes (s : State) (i pa n total : Nat) (bs : List Byte) : Prop :=
  (∃ a, LocalPa s pa n a ∧ bs = Memory.bytes s.homes.mem a n) ∨
  ∃ p r, s.phys pa = .remote p ∧ (s.sent [7, 10, i, pa] fun rid => .rebuildRead rid (pa % 2 ^ 42) n total) = some r ∧
    r.lost = false ∧ r.poison = false ∧ r.answer = some bs
/-- A record in memory holds fields, given as offset, bytes and value. -/
def Holds (m : Mem) (a : Nat) (fields : List (Nat × Nat × Nat)) : Prop := ∀ f ∈ fields, Memory.read m (a + f.1) f.2.1 = f.2.2 % 2 ^ (8 * f.2.1)
/-- No byte outside a range has changed. -/
def OnlyAt (m m' : Mem) (a n : Nat) : Prop := ∀ x, ¬(a ≤ x ∧ x < a + n) → Memory.get m' x = Memory.get m x
/-- The bytes of a range of a record are zero. -/
def Zeros (bs : List Byte) (lo hi : Nat) : Prop := ∀ i, lo ≤ i → i < hi → bs.getD i 0 = 0
/-- A packet keeps the limits of its type (13 R362, R363; log 39). -/
def PacketLimits (bs : List Byte) : Prop :=
  rdN bs 1 1 < 64 ∧ match rdN bs 0 1 with
  | 0 => Zeros bs 4 8
  | 1 => rdN bs 1 1 = 4 ∧ Zeros bs 4 64
  | 2 => rdN bs 1 1 = 0 ∧ rdN bs 4 4 ≤ 3 ∧ rdN bs 8 8 % 8 = 0 ∧ Zeros bs 32 64
  | 3 => rdN bs 1 1 = 0 ∧ rdN bs 4 4 ≤ 1 ∧ rdN bs 8 8 % 8 = 0 ∧ Zeros bs 24 64
  | 4 => rdN bs 1 1 = 0 ∧ Zeros bs 4 64
  | 5 => rdN bs 1 1 = 0 ∧ rdN bs 4 4 ≤ 1 ∧ Zeros bs 44 48 ∧ rdN bs 48 8 % 4096 = 0 ∧ rdN bs 56 8 % 4096 = 0
  | _ => False
/-- The fields of a launch record lie within their values, and its reserved bytes are zero (13 R366, R367, R368). -/
def RecordLimits (bs : List Byte) : Prop :=
  let f := rdN bs
  f 0x00 8 % 256 = 0 ∧ 2 ≤ f 0x10 1 ∧ f 0x10 1 ≤ 8 ∧ f 0x11 1 ≤ 7 ∧ f 0x12 1 ≤ 3 ∧ f 0x13 1 ≤ 63 ∧ f 0x14 4 < 16 ∧ f 0x14 4 / 4 ≠ 3 ∧
  1 ≤ f 0x18 2 ∧ f 0x18 2 ≤ 1024 ∧ 1 ≤ f 0x1A 1 ∧ f 0x1A 1 ≤ 16 ∧ f 0x1B 1 ≤ 16 ∧ 64 ≤ f 0x1C 2 ∧ f 0x1C 2 ≤ 1536 ∧ f 0x1C 2 % 64 = 0 ∧
  f 0x1E 1 ≤ 16 ∧ Zeros bs 0x1F 0x20 ∧ f 0x20 4 ≤ 960 ∧ f 0x20 4 % 64 = 0 ∧ Zeros bs 0x24 0x28 ∧ f 0x28 8 % 8 = 0 ∧
  (f 0x38 16 = 0 ∨ f 0x30 8 % 8 = 0) ∧ f 0x38 16 % 2 = 0 ∧ ((List.range 128).filter fun n => (f 0x38 16).testBit n).length ≤ 64 ∧
  (f 0x50 16 = 0 ∨ f 0x48 8 % 8 = 0) ∧ f 0x50 16 % 2 = 0 ∧ f 0x38 16 &&& f 0x50 16 = 0 ∧ f 0x60 8 = 0 ∧ f 0x68 4 = 0 ∧
  Zeros bs 0x6C 0x80 ∧ Zeros bs (0x80 + 8 * f 0x10 1) 0x100 ∧
  ∀ n, n < f 0x10 1 → f (0x84 + 8 * n) 4 / 2 ^ 3 % 2 ^ 5 = 0 ∧ f (0x84 + 8 * n) 4 / 2 ^ 11 = 0
/-- Extent and domain code of a level of a record (13 R367). -/
def recExt (bs : List Byte) (n : Nat) : Nat := rdN bs (0x80 + 8 * n) 4
def recDom (bs : List Byte) (n : Nat) : Nat := rdN bs (0x84 + 8 * n) 4 % 8
/-- The units of level `lo` in one of level `hi`. -/
def recUnits (bs : List Byte) (lo hi : Nat) : Nat := (((List.range hi).drop lo).map (recExt bs)).foldl (· * ·) 1
/-- The levels of a record keep the constraints of 01 R23 to R25; `b` is the block level, and `e` gives the effective domains. -/
def LevelLimits (bs : List Byte) : Prop :=
  let top := rdN bs 0x10 1
  let dom := recDom bs
  ∃ (b : Nat) (e : Nat → Nat), b < top ∧ dom b = 2 ∧ (∀ n, n < top → dom n = 2 → n = b) ∧ dom (top - 1) ≠ 7 ∧
    (∀ n, n < top → e n = if dom n = 7 then e (n + 1) else dom n) ∧ (∀ n, n + 1 < top → e n ≤ e (n + 1)) ∧ (∀ n, n < b → e n ≤ 2) ∧
    (∀ n, n < top → recExt bs n ≠ 0 ∧ (dom n = 0 ↔ n = 0) ∧ (dom n = 1 → recUnits bs 0 n = 8) ∧ (dom n = 3 → recUnits bs b n ≤ 4)) ∧
    1 ≤ recUnits bs 0 b ∧ recUnits bs 0 b ≤ 4096 ∧ 1 ≤ recUnits bs b top ∧ recUnits bs b top ≤ 2 ^ 32 ∧
    ∀ n, n < top → rdN bs (0x84 + 8 * n) 4 / 2 ^ 8 % 8 ≤ 6 ∧
      (if e n = 0 then 0 else if e n ≤ 2 then 1 else e n - 1) ≤ rdN bs (0x84 + 8 * n) 4 / 2 ^ 8 % 8
/-- A block's need fits a core, and a CLUSTER unit some cluster of its pool, where the pool holds one (13 R368; 04 R109). -/
def PlaceLimits (s : State) (bs : List Byte) : Prop :=
  let top := rdN bs 0x10 1
  let cores := fun (cl : Nat) => ((List.range 4).filter fun i => s.regs.harv.getD (4 * cl + i) false).length
  let inPool := fun (cl : Nat) => cl < 72 ∧ 0 < cores cl ∧ s.power.pool.getD cl 0 = rdN bs 0x11 1
  ∃ b, b < top ∧ recDom bs b = 2 ∧ recUnits bs 0 b + 8 * ((rdN bs 0x1C 2 - 64) / 64) ≤ 4096 ∧
    ∀ n, n < top → recDom bs n = 3 → (∀ m, m < top → recDom bs m = 3 → m ≤ n) → (∃ cl, inPool cl) →
      ∃ cl, inPool cl ∧ recUnits bs b n ≤ cores cl
/-- The header of a code object keeps 03 R103, but for the extent of its regions (log 80). -/
def HeaderLimits (hb : List Byte) : Prop :=
  rdN hb 0x08 4 = 1 ∧ Zeros hb 0x0C 0x10 ∧ Zeros hb 0x4C 0x50 ∧ Zeros hb 0x78 0x100 ∧ rdN hb 0x48 4 ≤ 65535 ∧
  ∀ o ∈ [0x10, 0x18, 0x20, 0x28, 0x40, 0x50, 0x58, 0x60, 0x70], rdN hb o 8 % 8 = 0
/-- The values that a block of memory gives the K registers of a mask, in ascending order (13 R366). -/
def maskValues (m : Mem) (a mask : Nat) : List (Nat × DWord) :=
  (((List.range 128).filter mask.testBit).zipIdx).map fun x => (x.1, BitVec.ofNat 64 (Memory.read m (a + 8 * x.2) 8))
/-- The front end of a queue works, and has fetched a packet of a type (13 R364). -/
abbrev AtPacket (s : State) (q : Nat) (c : Queue) (bs : List Byte) (ty : Nat) : Prop :=
  s.fronts q = true ∧ s.queue q = c ∧ c.fetched = some bs ∧ rdN bs 0 1 = ty
/-- A queue whose packet is done: RD and the expected number have advanced (13 R364). -/
def Queue.passed (c : Queue) (bs : List Byte) : Queue :=
  { c with rd := c.rd + BitVec.ofNat 32 (rdN bs 1 1 % 64 + 1), expect := c.expect + 1, fetched := none, waiting := false, retries := 0, due := true }
/-- A queue that has halted with a code (13 R364). -/
def Queue.halted (c : Queue) (code : Nat) : Queue := { c with stat := code, fetched := none, waiting := false }
/-- After an event one queue is `c'`, and every other queue is as before. -/
def QueueIs (s u : State) (q : Nat) (c' : Queue) : Prop := u.queue q = c' ∧ ∀ p, p ≠ q → u.queue p = s.queue p
/-- A block whose engines work: resident, not halted, its core not being vacated (08 R231, R236). -/
abbrev Works (s : State) (b : Nat) (k : Block) : Prop :=
  s.resident? b = some k ∧ k.halt = none ∧ (s.cores[k.core]?).map (·.vacating) = some false

/-- The invariant: every memory of the package, and every block's scratchpad, keeps its canonical form (log 1). -/
def State.Inv (s : State) : Prop := Memory.wf s.homes.mem = true ∧ Memory.wf s.homes.media = true ∧ ∀ k ∈ s.blocks, Memory.wf k.spad = true

end Sys2Proof.Machine
end

