-- ==== Sys2Proof/Certificates/Slice0/Obligations.lean ====
section
/-! DEFINITION. The statements for the provers. Each says what an instruction, an event or the package does, and cites the rules
of spec/ that it rests on. -/

open Sys2Proof Sys2Proof.Machine

/-! ### Vector instructions: results and frames -/

/-- The add, multiply, minimum, maximum, absolute and division forms write what 05 R135 and R136 compute, in every lane whose guard
is true, and nothing else of the package changes (the model's `Ready`: no queue operand; those forms have statements of their
own). The logic and shift forms, likewise (05 R137). The bit-field and bit-count forms, likewise (05 R138, R139). The 64-bit and
address forms, likewise: both halves of the pair (05 R140). Moves, immediates, selection, P2V and IDOT4, likewise (05 R141,
R142, R145, R153). ISETP, PSETP and V2P write predicates; a write to P0 is dropped (05 R143–R145, 04 R105). -/
def Obligations.IntegerResults : Prop :=
  (∀ i o f, arithLane i = some (o, f) → Computes i o (·.map f)) ∧
  (∀ i o f, logicLane i = some (o, f) → Computes i o (·.map f)) ∧
  (∀ i o f, bitLane i = some (o, f) → Computes i o (·.map f)) ∧
  (∀ i o f, pairLane i = some (o, f) → Computes i o (·.map f)) ∧
  (∀ i o f, moveLane i = some (o, f) → Computes i o (·.map f)) ∧
  (∀ i o f, predLane i = some (o, f) → Computes i o (·.map f))

/-- The FP32 instructions write their results, and their raised flags join the lane's pending ones (07 R182–R191, R199). The packed
instructions act on both elements (07 R192, R193). -/
def Obligations.FloatingPoint : Prop :=
  (∀ i o f, floatLane i = some (o, f) → Computes i o (·.map f)) ∧
  (∀ i o f, packedLane i = some (o, f) → Computes i o (·.map f))

/-- CVT, PACK8, UNPACK8 and BSCALE (07 R194–R198). -/
def Obligations.Conversions : Prop := ∀ i o f, convertLane i = some (o, f) → Computes i o (·.map f)

/-- SHUF, VOTE, REDOCT and MATCH read the whole octet: every live lane supplies its operand, whatever its guard, and an absent one
zero (05 R146–R152). -/
def Obligations.CrossLane : Prop := ∀ i o F, crossLane i = some (o, F) → Computes i o F

/-! ### Control, traps and registers -/

/-- BRA, BRX, RET and CALL send the lanes that act to their target and the others to the next clause; CALL leaves the next clause's
header in its link pair; nothing else changes (08 R204). A lane whose target is no header halts its block with ILLEGAL_TARGET
(02 R52, R91). -/
def Obligations.Branches : Prop :=
  ∀ (s : State) (bd : Bundle) (k : Block) (g : Guard), Whole s bd k → ¬ bd.idx < bd.last →
    let next : DWord := bd.hdr + 8 * BitVec.ofNat 64 (bd.last + 1)
    let dest := fun (target : Nat → DWord) (tid : Nat) => if tid ∈ s.active bd g then target tid else next
    let ok := fun (target : Nat → DWord) => ∀ tid ∈ bd.lanes, s.targetOk k true (dest target tid) = true
    let rel := fun (imm : BitVec 28) (_ : Nat) => bd.hdr + 8 * imm.signExtend 64
    let operand := fun (a : Src) (tid : Nat) =>
      let o : VOp := ⟨g, [(a, 2)], [], .none, false, false⟩
      BitVec.ofNat 64 (((laneViews (ownOps bd o k) o).getD (tid % 8) LaneIn.none).src 0)
    (∀ imm, ok (rel imm) → ∃ t, exec (.bra g imm) s = .next t ∧ Arrived t bd (dest (rel imm)) ∧ t.still = s.still) ∧
    (∀ a, s.outOfBounds bd ⟨g, [(a, 2)], [], .none, false, false⟩ = [] → ok (operand a) →
      (∃ t, exec (.brx g a) s = .next t ∧ Arrived t bd (dest (operand a)) ∧ t.still = s.still) ∧
      ∃ t, exec (.ret g a) s = .next t ∧ Arrived t bd (dest (operand a)) ∧ t.still = s.still) ∧
    (∀ d imm, s.outOfBounds bd ⟨g, [], [], .reg d 2, false, false⟩ = [] → ok (rel imm) →
      ∃ t, exec (.call g d imm) s = .next t ∧ Arrived t bd (dest (rel imm)) ∧
        Wrote s t bd ⟨g, [], [], .reg d 2, false, false⟩ fun _ => .word next.toNat) ∧
    let bad := fun (target : Nat → DWord) => k.halt = none ∧ ∃ tid ∈ bd.lanes, s.targetOk k true (dest target tid) = false
    (∀ imm, bad (rel imm) → HaltsWith (.bra g imm) s bd.blk 0x05) ∧
    (∀ a, s.outOfBounds bd ⟨g, [(a, 2)], [], .none, false, false⟩ = [] → bad (operand a) →
      HaltsWith (.brx g a) s bd.blk 0x05 ∧ HaltsWith (.ret g a) s bd.blk 0x05) ∧
    (∀ d imm, s.outOfBounds bd ⟨g, [], [], .reg d 2, false, false⟩ = [] → bad (rel imm) → HaltsWith (.call g d imm) s bd.blk 0x05)

/-- NOP, REGION, YIELD, SLEEP, EXIT, TRAP and BKPT change nothing but where their lanes stand, beyond the commit of the lanes' open
regions where they are singletons: YIELD and SLEEP 0 mark the lanes late; SLEEP parks them until its deadline; EXIT lets them
wait for their counters; TRAP parks them with its immediate and V0–V7; BKPT stops the block where its queue has debugging
enabled, and does nothing elsewhere (02 R86, 08 R205, R206, R209, R226, R230); that its record names the BKPT's own PC is the model's
reading (log 48). -/
def Obligations.ThreadControl : Prop :=
  ∀ (s : State) (bd : Bundle) (k k1 : Block) (g : Guard), Runs s bd k →
    let s1 := s.commitLanes bd g
    (∃ t, exec (.nop g) s = .next t ∧ t.still = s.still) ∧
    (Runs s1 bd k1 → ∃ t, exec (.region g) s = .next t ∧ t.still = s1.still) ∧
    (∃ t, exec (.yield g) s = .next t ∧ t.still = s.still ∧
      ∀ tid ∈ s.active bd g, ∃ th, t.thread? bd.blk tid = some th ∧ th.late = true) ∧
    (∃ t, exec (.sleep g 0) s = .next t ∧ t.still = s.still ∧
      ∀ tid ∈ s.active bd g, ∃ th, t.thread? bd.blk tid = some th ∧ th.late = true) ∧
    (∀ n : BitVec 20, n ≠ 0 → GoesOn s bd k → ∃ t, exec (.sleep g n) s = .next t ∧ t.still = s.still ∧
      ∀ tid ∈ s.active bd g, ParkedAt t bd.blk tid (.sleep (s.clock.toNat + n.toNat)) bd.next) ∧
    (Runs s1 bd k1 → ∃ t, exec (.exit g) s = .next t ∧ t.still = s1.still ∧
      ∀ tid ∈ s1.active bd g, ∃ th, t.thread? bd.blk tid = some th ∧ th.status = .exiting) ∧
    (∀ n : BitVec 16, Runs s1 bd k1 → GoesOn s1 bd k1 → ∃ t, exec (.trap g n) s = .next t ∧ t.still = s1.still ∧
      ∀ tid ∈ s1.active bd g, ∀ th ∈ s1.thread? bd.blk tid,
        ParkedAt t bd.blk tid (.syscall none n.toNat (th.v.take 8)) bd.next) ∧
    (∀ n : BitVec 16, s.debugOn k = false → ∃ t, exec (.bkpt g n) s = .next t ∧ t.still = s.still) ∧
    (∀ (n : BitVec 16) (tid : Nat) (rest : List Nat), s.debugOn k = true → s.active bd g = tid :: rest →
      ((s.endPlain bd).blocks[bd.blk]?).map (·.halt) = some none →
      ∃ t, exec (.bkpt g n) s = .next t ∧ t.still = s.still ∧
        (t.blocks[bd.blk]?).map (·.halt) = some (some ⟨0x20, true, 0, some tid, bd.pc, 0, n.toNat, s.clock, s.cycle, false, false⟩))

/-- The commit of a region that can leave: its stores leave as requests in program order with their data, its pending flags join
FLAGS, and it is empty; nothing else of the thread changes but its region's number (08 R212, R213). -/
def Obligations.RegionCommit : Prop :=
  ∀ (s t : State) (b tid : Nat) (pc : DWord) (th : Thread), s.thread? b tid = some th →
    s.commitRegion b tid pc = (t, true) →
    t.homes.mem = s.homes.mem ∧
    (∃ rs, t.homes.reqs = s.homes.reqs ++ rs ∧ (∀ r ∈ rs, r.op = .store ∧ r.blk = b) ∧
      rs.map (fun r => r.parts.map fun p => (p.ea, p.data)) = th.stores.map fun x => [(x.addr, x.data)]) ∧
    ∃ th', t.thread? b tid = some th' ∧ th'.still = ({ th with stores := [], flags := th.flags ||| th.pend.setWidth 32, pend := 0 } : Thread).still

/-- RDSR writes the value that 04 R123 gives the register, a pair for a 64-bit one, and changes nothing else (04 R123, R124). WRSR
writes FLAGS (its defined fields), UTVEC or UEPC of the lanes that act after their regions committed, and changes nothing else
(04 R123, R125, 08 R208). The forms that name a queue register are in QueueOperands. -/
def Obligations.SystemRegisters : Prop :=
  (∀ (s : State) (bd : Bundle) (k : Block) (g : Guard) (d : Dst) (n : BitVec 12) (i : SysregInfo), Runs s bd k → sysreg n.toNat = some i →
    let o : VOp := ⟨g, [], [], .reg d (if i.wide then 2 else 1), false, false⟩
    let lane := fun (l : Nat) => bd.lanes.find? fun t => t % 8 == l
    o.usesQ = false → s.outOfBounds bd o = [] → ∃ t, exec (.rdsr g d n) s = .next t ∧
      Wrote s t bd o (fun l => .word (s.sysread k (lane l) n.toNat)) ∧
      ∀ tid th, k.threads[tid]? = some th → ∀ x ∈ sysValues s k tid th, s.sysread k (some tid) x.1 = x.2) ∧
  (∀ (s : State) (bd : Bundle) (k k1 : Block) (g : Guard) (a : Src), Runs s bd k →
    let s1 := s.commitLanes bd g
    Runs s1 bd k1 → a.notQ = true →
    let val := fun (words tid : Nat) =>
      let o : VOp := ⟨g, [(a, words)], [], .none, false, false⟩
      ((laneViews (ownOps bd o k1) o).getD (tid % 8) LaneIn.none).src 0
    (s1.outOfBounds bd ⟨g, [(a, 1)], [], .none, false, false⟩ = [] →
      ∃ t, exec (.wrsr g 0x030 a) s = .next t ∧ Became s1 t (onLanes bd (s1.active bd g) fun tid th =>
        { th with flags := BitVec.ofNat 32 (val 1 tid) &&& 0x0000071F })) ∧
    (s1.outOfBounds bd ⟨g, [(a, 2)], [], .none, false, false⟩ = [] →
      (∃ t, exec (.wrsr g 0x031 a) s = .next t ∧ Became s1 t (onLanes bd (s1.active bd g) fun tid th =>
        { th with utvec := BitVec.ofNat 64 (val 2 tid) })) ∧
      ∃ t, exec (.wrsr g 0x032 a) s = .next t ∧ Became s1 t (onLanes bd (s1.active bd g) fun tid th =>
        { th with uepc := BitVec.ofNat 64 (val 2 tid) })))

/-- An enabled flag takes the user trap: nothing is written, the region commits, the PC, the cause, the lanes and the destination
are saved, the enables are cleared, and the lane goes to its handler, in a meet clause at the clause's end (07 R200, R201, 08
R219–R222); with UTVEC 0 the block halts with FP_TRAP. UTRET restores the enables, leaves the handler and resumes after the trapping
instruction, or at it for RETRY; SUBST first writes its operand to the register or predicate that UDST names; outside a handler the
block halts with UTRET_NO_TRAP (08 R223). -/
def Obligations.UserTraps : Prop :=
  (∀ (i : Instr) (o : VOp) (f : LaneIn → LaneOut) (s : State) (bd : Bundle) (k : Block) (tid : Nat) (th : Thread),
    (floatLane i = some (o, f) ∨ packedLane i = some (o, f) ∨ convertLane i = some (o, f)) → o.traps = true → Runs s bd k →
    o.usesQ = false → s.outOfBounds bd o = [] → s.active bd o.guard = [tid] → s.thread? bd.blk tid = some th →
    let r := outOf bd k o (·.map f) (tid % 8)
    r.fault = none → trapCause r.flags th.flags ≠ 0 →
    (th.utvec = 0 → k.halt = none → GoesOn s bd k → HaltsWith i s bd.blk 0x0E) ∧
    ∀ s1, th.utvec ≠ 0 →
      (s.modThread bd.blk tid fun t => { t with pend := t.pend ||| r.flags }).commitRegion bd.blk tid bd.pc = (s1, true) →
      let dst : Nat × Bool × Nat := match o.dst with
        | .reg (.v n) w => (n.val, false, w)
        | .reg .vz w => (2047, false, w)
        | .pred n => (n, true, 1)
        | _ => (0, false, 1)
      let saved := fun (th' : Thread) => th'.v = th.v ∧ th'.pred = th.pred ∧ th'.uepc = bd.pc ∧ th'.uepco = (s1.origin k true bd.pc).1 ∧
        th'.uspecit = BitVec.ofNat 32 (s1.origin k true bd.pc).2 ∧ th'.intrap = true ∧
        th'.flags = (th.flags ||| (th.pend ||| r.flags).setWidth 32) &&& ~~~ 0x00000700 ∧
        th'.ucause.toNat % 256 = 0x40 ∧ th'.ucause.toNat / 256 % 8 = trapCause r.flags th.flags ∧
        th'.ucause.toNat / 2 ^ 16 % 8 = th.flags.toNat / 256 % 8 ∧ th'.udst.toNat = dst.1 ∧
        th'.ucause.getLsbD 12 = dst.2.1 ∧ th'.ucause.getLsbD 13 = (dst.2.2 == 2) ∧ th'.ucause.getLsbD 14 = (dst.2.2 == 4) ∧
        ∀ j, j < 8 → th'.ulanes.getLsbD j = decide (∃ l ∈ bd.lanes, l % 8 = j)
      (bd.meet = false → s1.targetOk k true th.utvec = true → ∃ t, exec i s = .next t ∧ t.homes = s1.homes ∧
        ∃ th', t.thread? bd.blk tid = some th' ∧ saved th' ∧ th'.status = .ready false ∧ th'.pc = th.utvec + 8) ∧
      (bd.meet = true → bd.idx < bd.last → ∃ t, exec i s = .next t ∧ t.homes = s1.homes ∧
        ∃ th', t.thread? bd.blk tid = some th' ∧ saved th' ∧ th'.held = true ∧ th'.status = .issued ∧ th'.pc = bd.next)) ∧
  (∀ (s : State) (bd : Bundle) (k : Block) (g : Guard) (m : UtretMode) (tid : Nat) (th : Thread),
    Runs s bd k → k.halt = none → GoesOn s bd k → s.active bd g = [tid] → s.thread? bd.blk tid = some th →
    s.outOfBounds bd ⟨g, utretSrcs m, [], .none, false, false⟩ = [] →
    (th.intrap = false → HaltsWith (.utret g m) s bd.blk 0x0F) ∧
    (th.intrap = true → substWords m = 2 → th.udst.getLsbD 0 = true ∨ th.ucause.getLsbD 12 = true → HaltsWith (.utret g m) s bd.blk 0x04) ∧
    (th.intrap = true → m = .plain ∨ m = .retry → s.clauseOf k true th.uepc = none → HaltsWith (.utret g m) s bd.blk 0x05)) ∧
  (∀ (s s1 : State) (bd : Bundle) (k k1 : Block) (g : Guard) (tid : Nat) (was th : Thread) (h : DWord) (n : Nat),
    Whole s bd k → Whole s1 bd k1 → ¬ bd.idx < bd.last → s.active bd g = [tid] → s.thread? bd.blk tid = some was →
    s.commitRegion bd.blk tid bd.pc = (s1, true) → s1.thread? bd.blk tid = some th → was.intrap = true →
    s.clauseOf k true was.uepc = some (h, n) → s1.clauseOf k1 true was.uepc = some (h, n) →
    (was.uepc = h + BitVec.ofNat 64 (8 * n) → s1.targetOk k1 true (h + BitVec.ofNat 64 (8 * (n + 1))) = true) →
    let after := if was.uepc = h + BitVec.ofNat 64 (8 * n) then h + BitVec.ofNat 64 (8 * (n + 1)) + 8 else was.uepc + 8
    let back := fun (t : State) (v : List Word) (pred : Thread) (pc : DWord) => ∃ th', t.thread? bd.blk tid = some th' ∧
      th'.intrap = false ∧ th'.flags = (th.flags &&& ~~~ 0x00000700) ||| BitVec.ofNat 32 (th.ucause.toNat / 2 ^ 16 % 8 * 256) ∧
      th'.v = v ∧ (∀ j, th'.p j = pred.p j) ∧ th'.status = .ready false ∧ th'.pc = pc
    (∃ t, exec (.utret g .plain) s = .next t ∧ back t th.v th after) ∧
    (∃ t, exec (.utret g .retry) s = .next t ∧ back t th.v th was.uepc) ∧
    ∀ a : Src, a.notQ = true →
      let x := fun (words : Nat) =>
        let o : VOp := ⟨g, [(a, words)], [], .none, false, false⟩
        ((laneViews (ownOps bd o k) o).getD (tid % 8) LaneIn.none).src 0
      (s.outOfBounds bd ⟨g, [(a, 1)], [], .none, false, false⟩ = [] →
        (th.ucause.getLsbD 12 = false → th.udst.toNat < th.regs → th.udst.toNat < 1536 →
          ∃ t, exec (.utret g (.subst a)) s = .next t ∧ back t (th.v.set th.udst.toNat (BitVec.ofNat 32 (x 1))) th after) ∧
        (th.ucause.getLsbD 12 = true →
          ∃ t, exec (.utret g (.subst a)) s = .next t ∧ back t th.v (th.setP (th.udst.toNat % 8) (x 1 % 2 == 1)) after)) ∧
      (s.outOfBounds bd ⟨g, [(a, 2)], [], .none, false, false⟩ = [] →
        th.ucause.getLsbD 12 = false → th.udst.getLsbD 0 = false → th.udst.toNat + 1 < th.regs → th.udst.toNat < 1536 →
          ∃ t, exec (.utret g (.substW64 a)) s = .next t ∧
            back t ((th.v.set th.udst.toNat (BitVec.ofNat 32 (x 2))).set (th.udst.toNat + 1) (BitVec.ofNat 32 (x 2 / 2 ^ 32))) th after))

/-- GROW gives a lane registers up to the count, the new ones zero, and takes their chunks from the pool where no earlier request
waits; where neither the pool nor the block's reserve has them, the lane parks and its request is queued behind those of earlier
cycles, and the queue stays in the order of cycle, block and TID; beyond MAXREGS the block halts with REG_OVERCOMMIT (04 R106, R110;
08 R207). SHRINK keeps a lane's registers below the count, and what they keep is unchanged; a lane that has no more is untouched; the
chunks go first to the block's reserve, and the rest to the pool (04 R111, 08 R207); where every value of the grant tag is in flight it
waits (the model's own, log 3). An instruction that names a V register its lane does not have halts its block with REG_BOUNDS, at the
instruction (04 R108). -/
def Obligations.RegisterPool : Prop :=
  (∀ (s : State) (bd : Bundle) (k : Block) (g : Guard) (n : BitVec 11) (tid : Nat) (th : Thread) (c : Core),
    let s1 := s.commitLanes bd g
    s.curBundle = some bd → Runs s1 bd k → s1.active bd g = [tid] → s1.thread? bd.blk tid = some th →
    s1.cores[k.core]? = some c →
    let maxr := ((s1.launch? k).map (·.lrec.maxregs)).getD 1536
    let chunks := (n.toNat - th.regs) / 64
    (n.toNat ≤ th.regs → ∃ t, exec (.grow g n) s = .next t ∧ t.still = s1.still) ∧
    (th.regs < n.toNat → n.toNat ≤ maxr → c.growq = [] → c.vacating = false → chunks ≤ c.free → ∃ t, exec (.grow g n) s = .next t ∧
      (∃ th', t.thread? bd.blk tid = some th' ∧ th'.v = th.v ++ List.replicate (n.toNat - th.regs) 0) ∧
      (t.cores[k.core]?).map (·.free) = some (c.free - chunks) ∧
      ∀ b' t', (b', t') ≠ (bd.blk, tid) → (t.thread? b' t').map (·.v) = (s1.thread? b' t').map (·.v)) ∧
    (th.regs < n.toNat → n.toNat ≤ maxr → c.free < chunks → k.reserve < chunks → (∀ x ∈ c.growq, x.cycle < s1.cycle) → GoesOn s1 bd k →
      ∃ t, exec (.grow g n) s = .next t ∧ ParkedAt t bd.blk tid (.grow n.toNat) bd.next ∧
        (t.cores[k.core]?).map (·.growq) = some (c.growq ++ [⟨s1.cycle, bd.blk, k.ticket, n.toNat, [tid]⟩])) ∧
    (th.regs < n.toNat → maxr < n.toNat → k.halt = none → GoesOn s1 bd k → ∃ t, exec (.grow g n) s = .next t ∧
      (t.blocks[bd.blk]?).bind (fun x => x.halt.map (·.code)) = some 0x07)) ∧
  (∀ (r : GrowReq) (l : List GrowReq), l.Pairwise (fun x y => y.before x = false) → (insertGrow r l).Pairwise (fun x y => y.before x = false)) ∧
  (∀ (s : State) (bd : Bundle) (k : Block) (g : Guard) (n : BitVec 11) (tid : Nat) (th : Thread) (c : Core),
    let s1 := s.commitLanes bd g
    s.curBundle = some bd → Runs s1 bd k → s1.active bd g = [tid] → s1.thread? bd.blk tid = some th →
    s1.cores[k.core]? = some c →
    (th.regs ≤ n.toNat → ∃ t, exec (.shrink g n) s = .next t ∧ t.still = s1.still) ∧
    (n.toNat < th.regs → s1.nextGrant bd.blk tid th n.toNat = none → exec (.shrink g n) s = .next s1) ∧
    ((s1.nextGrant bd.blk tid th n.toNat).isSome = true →
      (n.toNat < th.regs → (∀ x ∈ c.growq, ¬(x.blk = bd.blk ∧ tid ∈ x.tids)) → ∃ t, exec (.shrink g n) s = .next t ∧
        ∃ th', t.thread? bd.blk tid = some th' ∧ th'.v = th.v.take n.toNat) ∧
      (n.toNat < th.regs → c.growq = [] → s1.heldChunks bd.blk tid n.toNat = [] → ∃ t, exec (.shrink g n) s = .next t ∧
        ∃ k' c', t.blocks[bd.blk]? = some k' ∧ t.cores[k.core]? = some c' ∧
          k'.reserve = k.reserve + min ((th.regs - n.toNat) / 64) (k.reserveWhole - k.reserve) ∧
          k'.reserve + c'.free = k.reserve + c.free + (th.regs - n.toNat) / 64))) ∧
  (∀ (i : Instr) (o : VOp) (f : LaneIn → LaneOut) (s : State) (bd : Bundle) (k : Block) (tid : Nat) (rest : List Nat),
    (arithLane i = some (o, f) ∨ logicLane i = some (o, f) ∨ pairLane i = some (o, f) ∨ floatLane i = some (o, f)) →
    Runs s bd k → o.usesQ = false → k.halt = none → GoesOn s bd k → s.outOfBounds bd o = tid :: rest →
    (∀ u ∈ s.active bd o.guard, ∀ th ∈ s.thread? bd.blk u, o.traps = true →
      trapCause (outOf bd k o (·.map f) (u % 8)).flags th.flags = 0) →
    ∃ t, exec i s = .next t ∧ ∃ h, (t.blocks[bd.blk]?).bind (·.halt) = some h ∧ h.code = 0x06 ∧ h.ftid = some tid ∧ h.pc = bd.pc)

/-! ### Memory instructions -/

/-- A load of one lane counts in CNT.LD and writes no register yet: it joins the requests in flight to its line, with the lane's tags, its
destination and the bytes that the lane's own buffered stores give it; or, on an L1 hit, or where those bytes are all, its return carries
the data. Memory is unchanged (10 R273, R274, R276, R278, R279; 04 R120; 08 R212). A relaxed store of one lane enters the region store
buffer behind the lane's earlier ones and counts in CNT.ST; a store of another order leaves at once, as a request to its line with its
data. Memory, the registers and the predicates are unchanged until the store is performed. The 33rd store of a region halts the block with
REGION_OVERFLOW, where the buffer is full as well by the model's choice (log 84); a store that finds the core's 2,048 entries in use
commits its region first (10 R274, R277, R278; 08 R212). An access to a device register commits the region before its request leaves (08
R211). A store of an entry of a queue pops it and leaves at once, or parks, or halts the block (12 R324, R325). The lanes of one load on
one line share its request, in the order of the home lanes (10 R273). A load takes from the lane's buffered stores the youngest byte of
each (08 R212; 11 R298). -/
def Obligations.LoadsAndStores : Prop :=
  (∀ (i : Instr) (o : MemOp) (f : ReqForm) (dst : Option Nat) (own : Bool) (s s1 : State) (bd : Bundle) (k : Block) (tid : Nat) (th : Thread),
    loadForm i = some (o, f, dst, own) → LoneMem s s1 bd k tid th o →
    let ea := o.ea k th
    let g := s1.memTgt bd.blk k o ea
    let fw := (s1.reached k ea g).forward bd.blk k th g ea o.bytes
    let hit := if own then none else s1.l1For k bd.blk tid f g
    let counted := fun (t : State) => t.homes.mem = s1.homes.mem ∧ ∃ th', t.thread? bd.blk tid = some th' ∧
      th'.cntLd = th.cntLd + 1 ∧ th'.v = th.v ∧ th'.pred = th.pred ∧ th'.stores = th.stores ∧
      th'.blocked = th.blocked + (if f.order = .acq ∨ f.order = .sc then 1 else 0)
    let lane := fun (p : Part) => p.tid = tid ∧ p.slot = th.slotTag ∧ p.region = th.region ∧ p.ea = ea ∧ p.bytes = o.bytes ∧ p.dst = dst
    (match g with
      | .mem _ _ | .spad _ _ => True
      | _ => False) →
    (fw.1.toNat ≠ 2 ^ o.bytes - 1 → hit = none → ∃ t, exec i s = .next t ∧ counted t ∧ t.homes.rets = s1.homes.rets ∧
      ∃ r p, t.homes.reqs = s1.homes.reqs ++ [r] ∧ r.parts = [p] ∧ lane p ∧ p.fmask = fw.1 ∧ p.fdata = BitVec.ofNat 128 fw.2 ∧
        r.op = f.op ∧ r.line = g.place.1 ∧ r.spadBlk = g.place.2.1 ∧ p.off = g.place.2.2.1 ∧ r.order = f.order ∧ r.scope = f.scope ∧ r.path = f.path) ∧
    (∀ l, fw.1.toNat ≠ 2 ^ o.bytes - 1 → hit = some l → ∃ t, exec i s = .next t ∧ counted t ∧ t.homes.reqs = s1.homes.reqs ∧
      ∃ x, t.homes.rets = s1.homes.rets ++ [x] ∧ x.load = true ∧ lane x.part ∧ x.line = l.line ∧
        x.part.data = BitVec.ofNat 128 (mergeFwd fw.1 fw.2 (ofBytes ((l.data.drop g.place.2.2.1).take o.bytes)) o.bytes)) ∧
    (fw.1.toNat = 2 ^ o.bytes - 1 → ∃ t, exec i s = .next t ∧ counted t ∧ t.homes.reqs = s1.homes.reqs ∧
      ∃ x, t.homes.rets = s1.homes.rets ++ [x] ∧ x.load = true ∧ lane x.part ∧ x.part.data = BitVec.ofNat 128 fw.2)) ∧
  (∀ (i : Instr) (o : MemOp) (f : ReqForm) (n : Fin 1536) (size : Size) (sts : Bool) (s s1 : State) (bd : Bundle) (k : Block) (tid : Nat) (th : Thread),
    storeForm i = some (o, f, n, size, sts) → LoneMem s s1 bd k tid th o →
    let ea := o.ea k th
    let g := s1.memTgt bd.blk k o ea
    let data : QWord := BitVec.ofNat 128 (th.regW n.val (max 1 (size.bytes / 4)) % 2 ^ (8 * size.bytes))
    ((match g with
      | .mem _ _ | .spad _ _ => True
      | _ => False) →
    (f.order = .rlx → th.stores.length < 32 → s1.bufUsed k.core < 2048 → ∃ t, exec i s = .next t ∧ t.homes = s1.homes ∧
      ∃ th', t.thread? bd.blk tid = some th' ∧ th'.still = ({ th with
        stores := th.stores ++ [⟨ea, size, f.path, sts, data, f.evict⟩], cntSt := th.cntSt + 1 } : Thread).still) ∧
    (f.order = .rlx → th.stores.length = 32 → k.halt = none → GoesOn (s1.reached k ea g) bd k → ∃ t, exec i s = .next t ∧ t.homes = s1.homes ∧
      (t.blocks[bd.blk]?).bind (fun x => x.halt.map (·.code)) = some 0x09) ∧
    (f.order ≠ .rlx → ∃ t, exec i s = .next t ∧ t.homes.mem = s1.homes.mem ∧
      (∃ th', t.thread? bd.blk tid = some th' ∧ th'.cntSt = th.cntSt + 1 ∧ th'.v = th.v ∧ th'.pred = th.pred ∧
        th'.blocked = th.blocked + (if f.order = .sc then 1 else 0)) ∧
      ∃ r p, t.homes.reqs = s1.homes.reqs ++ [r] ∧ r.parts = [p] ∧ p.tid = tid ∧ p.slot = th.slotTag ∧ p.ea = ea ∧ p.bytes = size.bytes ∧
        p.data = data ∧ p.off = g.place.2.2.1 ∧ r.op = .store ∧ r.line = g.place.1 ∧ r.spadBlk = g.place.2.1 ∧ r.order = f.order ∧
        r.scope = f.scope ∧ r.path = f.path)) ∧
    (∀ s2 th2, (match g with
      | .mem _ _ | .spad _ _ => True
      | _ => False) → f.order = .rlx → th.stores.length < 32 → 2048 ≤ s1.bufUsed k.core →
      (s1.reached k ea g).commitRegion bd.blk tid bd.pc = (s2, true) → s2.thread? bd.blk tid = some th2 →
      ∃ t, exec i s = .next t ∧ t.homes = s2.homes ∧ ∃ th', t.thread? bd.blk tid = some th' ∧ th'.still = ({ th2 with
        stores := [⟨ea, size, f.path, sts, data, f.evict⟩], cntSt := th2.cntSt + 1 } : Thread).still) ∧
    ∀ pa s2 th2, g = .mmio pa → (if o.single then (s1.reached k ea g, true) else (s1.reached k ea g).commitRegion bd.blk tid bd.pc) = (s2, true) →
      s2.thread? bd.blk tid = some th2 → ∃ t, exec i s = .next t ∧ t.homes.mem = s2.homes.mem ∧
        (∃ th', t.thread? bd.blk tid = some th' ∧ th'.cntSt = th2.cntSt + 1 ∧ th'.v = th.v ∧ th'.pred = th.pred) ∧
        ∃ r p, t.homes.reqs = s2.homes.reqs ++ [r] ∧ r.parts = [p] ∧ r.op = .store ∧ r.line = pa / 128 ∧ p.off = pa % 128 ∧ p.tid = tid ∧
          p.bytes = size.bytes ∧ p.data = data) ∧
  (∀ (i : Instr) (o : MemOp) (f : ReqForm) (dst : Option Nat) (own : Bool) (s s1 s2 : State) (bd : Bundle) (k : Block) (tid : Nat) (th th2 : Thread) (pa : Nat),
    loadForm i = some (o, f, dst, own) → LoneMem s s1 bd k tid th o →
    let ea := o.ea k th
    s1.memTgt bd.blk k o ea = .mmio pa →
    (if o.single then (s1.reached k ea (.mmio pa), true) else (s1.reached k ea (.mmio pa)).commitRegion bd.blk tid bd.pc) = (s2, true) →
    s2.thread? bd.blk tid = some th2 → ∃ t, exec i s = .next t ∧ t.homes.mem = s2.homes.mem ∧ t.homes.rets = s2.homes.rets ∧
      (∃ th', t.thread? bd.blk tid = some th' ∧ th'.cntLd = th2.cntLd + 1 ∧ th'.v = th.v ∧ th'.pred = th.pred) ∧
      ∃ r p, t.homes.reqs = s2.homes.reqs ++ [r] ∧ r.parts = [p] ∧ r.op = .load ∧ r.line = pa / 128 ∧ p.off = pa % 128 ∧ p.tid = tid ∧
        p.bytes = o.bytes ∧ p.dst = dst) ∧
  (∀ (i : Instr) (o : MemOp) (f : ReqForm) (n : Fin 16) (size : Size) (s s1 : State) (bd : Bundle) (k : Block) (tid : Nat) (th : Thread),
    storeQForm i = some (o, f, n, size) → LoneMem s s1 bd k tid th o →
    let ea := o.ea k th
    let g := s1.memTgt bd.blk k o ea
    let pop := popOne n (max 1 (size.bytes / 4))
    (match g with
      | .mem _ _ | .spad _ _ | .mmio _ => True
      | _ => False) →
    (∀ c, k.queueFault pop bd.meet = some c → k.halt = none → GoesOn (s1.reached k ea g) bd k → HaltsWith i s bd.blk c) ∧
    (∀ q, k.queueFault pop bd.meet = none → k.queueWait pop 1 = some q → ∃ t, exec i s = .next t ∧ t.still = (s1.reached k ea g).still ∧
      ParkedAt t bd.blk tid (.queue q) bd.pc) ∧
    (k.queueFault pop bd.meet = none → k.queueWait pop 1 = none → ∃ t, exec i s = .next t ∧ t.homes.mem = s1.homes.mem ∧
      (t.blocks[bd.blk]?).map (fun x => (x.queues, x.spad)) = some ((k.pop n.val).1.queues, k.spad) ∧
      (∃ th', t.thread? bd.blk tid = some th' ∧ th'.cntSt = th.cntSt + 1 ∧ th'.v = th.v ∧ th'.pred = th.pred) ∧
      ∃ r p, t.homes.reqs = s1.homes.reqs ++ [r] ∧ r.parts = [p] ∧ p.tid = tid ∧ p.ea = ea ∧ p.bytes = size.bytes ∧ p.off = g.place.2.2.1 ∧
        p.data = BitVec.ofNat 128 (k.popped n.val tid % 2 ^ (8 * size.bytes)) ∧ r.op = .store ∧ r.line = g.place.1 ∧ r.spadBlk = g.place.2.1 ∧
        r.order = f.order ∧ r.scope = f.scope ∧ r.path = f.path)) ∧
  (∀ (g : Guard) (d : Dst) (m : MemF) (s : State) (bd : Bundle) (k : Block) (line : Nat),
    let o := loadOp g d m (.virt .gen .read)
    m.path = .gen → m.order = .rlx → Runs s bd k → s.active bd g ≠ [] → s.l1Line k.core line = none →
    (∀ tid ∈ s.active bd g, ∃ th pa code, s.thread? bd.blk tid = some th ∧ o.need ≤ th.regs ∧ th.cntLd ≠ 63 ∧ th.blocked = 0 ∧ th.stores = [] ∧
      s.memTgt bd.blk k o (o.ea k th) = .mem pa code ∧ pa / 128 = line) →
    ∃ t r, exec (.ld g d m) s = .next t ∧ t.homes.mem = s.homes.mem ∧ t.homes.rets = s.homes.rets ∧ t.homes.reqs = s.homes.reqs ++ [r] ∧
      r.op = .load ∧ r.line = line ∧ r.parts.map (·.tid) = s.active bd g ∧ ∀ p ∈ r.parts, ∀ th ∈ s.thread? bd.blk p.tid, p.ea = o.ea k th) ∧
  (∀ (s : State) (b : Nat) (k : Block) (t : Thread) (g : Tgt) (ea n i : Nat), i < n → n ≤ 16 →
    let r := s.forward b k t g ea n
    ((∀ x ∈ t.stores, s.storeByte b k x g ea i = none) → r.1.getLsbD i = false) ∧
    ∀ older x younger j, t.stores = older ++ x :: younger → s.storeByte b k x g ea i = some j → (∀ y ∈ younger, s.storeByte b k y g ea i = none) →
      r.1.getLsbD i = true ∧ r.2 / 2 ^ (8 * i) % 256 = x.data.toNat / 2 ^ (8 * j) % 256) ∧
  ∀ (s : State) (b : Nat) (k : Block) (x : BufStore) (ea i : Nat),
    let byte := fun (at' a : Nat) => if at' ≤ a ∧ a < at' + x.size.bytes then some (a - at') else none
    (x.sts = false → x.path ≠ .spad →
      (∀ pa code j, byte x.addr (ea + i) = some j → s.storeByte b k x (.mem pa code) ea i = some j) ∧
      (∀ pa code px c, byte x.addr (ea + i) = none → s.xlateAt (some k.core) (s.ctxOf k) x.addr .write = .ok px c →
        s.storeByte b k x (.mem pa code) ea i = byte px (pa + i)) ∧
      ∀ o off, s.storeByte b k x (.spad o off) ea i = none) ∧
    (x.sts = false → x.path = .spad → ∀ o off, s.storeByte b k x (.spad o off) ea i = if o = b then byte x.addr (off + i) else none) ∧
    (x.sts = true → ∀ o off o' a, s.spadTarget b x.addr x.size.bytes = some (o', a) →
      s.storeByte b k x (.spad o off) ea i = if o = o' then byte a (off + i) else none)

/-- An atomic of one lane leaves as a request to its line with its operation and operands; it counts in CNT.LD when it returns a
value and in CNT.ST when its destination is VZ, and the core's generic L1 copy of the line is dropped, while a read-only one stays (10
R274, R281–R283; 02 R85; 09 R247; log 46). An operand from a queue is popped; a lane that finds none parks, and a queue in the wrong state
halts the block (12 R324, R325). -/
def Obligations.AtomicIssue : Prop :=
  (∀ (i : Instr) (op : Nat) (g : Guard) (d : Dst) (m : AtomF) (s s1 : State) (bd : Bundle) (k : Block) (tid : Nat) (th : Thread) (c : Core)
      (pa : Nat) (code : Bool),
    atomForm i = some (op, g, d, m) → m.opnd.notQ = true → LoneMem s s1 bd k tid th (atomMem op g d m) → s1.cores[k.core]? = some c →
    let ea := (BitVec.ofNat 64 (th.regW m.addr.val 2)).toNat
    let words := m.size.bytes / 4
    s1.memTgt bd.blk k (atomMem op g d m) ea = .mem pa code →
    ∃ t, exec i s = .next t ∧ t.homes.mem = s1.homes.mem ∧
      (∃ th', t.thread? bd.blk tid = some th' ∧ th'.v = th.v ∧
        th'.cntLd = th.cntLd + (if (Dst.num d).isSome then 1 else 0) ∧ th'.cntSt = th.cntSt + (if (Dst.num d).isSome then 0 else 1)) ∧
      (t.cores[k.core]?).map (·.l1) = some (c.l1.filter fun x => !(x.line == pa / 128 && !x.ro)) ∧
      ∃ rs r q, t.homes.reqs = rs ++ [r] ∧ SameReqs rs s1.homes.reqs ∧ r.parts = [q] ∧ r.op = .atomic op ∧ r.line = pa / 128 ∧ r.order = m.order ∧ r.scope = m.scope ∧
        q.tid = tid ∧ q.ea = ea ∧ q.bytes = m.size.bytes ∧ q.dst = Dst.num d ∧ q.data = BitVec.ofNat 128 (srcRead m.opnd words k th) ∧
        ∀ n p, op = 0x8E → m.opnd = .v n p → q.data2 = BitVec.ofNat 128 (th.regW (n.val + words) words)) ∧
  ∀ (i : Instr) (op : Nat) (g : Guard) (d : Dst) (m : AtomF) (n : Fin 16) (s s1 : State) (bd : Bundle) (k : Block) (tid : Nat) (th : Thread)
      (pa : Nat) (code : Bool),
    atomForm i = some (op, g, d, m) → m.opnd = .q n → LoneMem s s1 bd k tid th (atomMem op g d m) →
    let ea := (BitVec.ofNat 64 (th.regW m.addr.val 2)).toNat
    let pop := popOne n (m.size.bytes / 4)
    s1.memTgt bd.blk k (atomMem op g d m) ea = .mem pa code →
    (∀ c, k.queueFault pop bd.meet = some c → k.halt = none → GoesOn (s1.reached k ea (.mem pa code)) bd k → HaltsWith i s bd.blk c) ∧
    (∀ q, k.queueFault pop bd.meet = none → k.queueWait pop 1 = some q → ∃ t, exec i s = .next t ∧
      t.still = (s1.reached k ea (.mem pa code)).still ∧ ParkedAt t bd.blk tid (.queue q) bd.pc) ∧
    (k.queueFault pop bd.meet = none → k.queueWait pop 1 = none → ∃ t, exec i s = .next t ∧ t.homes.mem = s1.homes.mem ∧
      (t.blocks[bd.blk]?).map (fun x => (x.queues, x.spad)) = some ((k.pop n.val).1.queues, k.spad) ∧
      (∃ th', t.thread? bd.blk tid = some th' ∧ th'.v = th.v ∧
        th'.cntLd = th.cntLd + (if (Dst.num d).isSome then 1 else 0) ∧ th'.cntSt = th.cntSt + (if (Dst.num d).isSome then 0 else 1)) ∧
      ∃ rs r p, t.homes.reqs = rs ++ [r] ∧ SameReqs rs s1.homes.reqs ∧ r.parts = [p] ∧ r.op = .atomic op ∧ r.line = pa / 128 ∧ r.order = m.order ∧
        r.scope = m.scope ∧ p.tid = tid ∧ p.ea = ea ∧ p.bytes = m.size.bytes ∧ p.dst = Dst.num d ∧ p.data = BitVec.ofNat 128 (k.popped n.val tid))

/-- A misaligned load, store, atomic or SIGNAL halts the block with MISALIGNED and its address, and an access outside the scratchpad
window, its own or a peer's, with SPAD_BOUNDS (10 R272, R278; 09 R244); a page that the TLB does not hold starts a walk, or joins one
(09 R259), and the bundle stays at the instruction (the model's choice, log 47). -/
def Obligations.AccessFaults : Prop :=
  ∀ (i : Instr) (o : MemOp) (s s1 : State) (bd : Bundle) (k : Block) (tid : Nat) (th : Thread),
    accessForm i = some o → LoneMem s s1 bd k tid th o →
    let ea := o.ea k th
    let g := s1.memTgt bd.blk k o ea
    let halts := fun (code : Nat) => ∃ t, exec i s = .next t ∧ t.homes = s1.homes ∧
      ∃ h, (t.blocks[bd.blk]?).bind (·.halt) = some h ∧ h.code = code ∧ h.addr = BitVec.ofNat 64 ea ∧ h.pc = bd.pc ∧ h.ftid = some tid
    (k.halt = none → GoesOn s1 bd k → ea % o.bytes ≠ 0 → halts 0x14) ∧
    (k.halt = none → GoesOn s1 bd k → ea % o.bytes = 0 →
      (o.space = .own → k.spadBytes < ea + o.bytes → halts 0x11) ∧
      (o.space = .cluster → 2 ^ 22 ≤ ea ∨ s1.peer bd.blk (ea / 2 ^ 20) = none → halts 0x11) ∧
      ∀ j x, o.space = .cluster → s1.peer bd.blk (ea / 2 ^ 20) = some j → s1.blocks[j]? = some x → x.spadBytes < ea % 2 ^ 20 + o.bytes → halts 0x11) ∧
    (g = .miss → s1.walksOf k.core < 8 → ∃ t, exec i s = .next t ∧ (∀ b' t', t.thread? b' t' = s1.thread? b' t') ∧
      ∃ w ∈ t.homes.walks, w.core = k.core ∧ w.ctx = s1.ctxOf k ∧ w.va / 2 ^ 16 = ea / 2 ^ 16 ∧ (bd.blk, tid, ea, o.space.acc.code) ∈ w.who)

/-- FENCE waits at the instruction for what its order needs, an acquire of CLUSTER scope or wider then empties the L1 of generic lines,
and a seq_cst one advances the core's clock; every other release (a store, an atomic, SIGNAL, a push, an arrival at a barrier) waits
likewise while an earlier write of its thread is not acknowledged (09 R246; 10 R277, R285; 11 R300; 12 R330); ROINV, L1INV and L1LINE drop
L1 lines; L2WB, L2INV, PWB and PREF send a request to the line; PBAR advances the epoch once the lane's persist writes have entered their
queues, and parks it until then (10 R285–R291; 11 R305; 09 R246). PREF sends a prefetch of the line its address names, where the page is
present, and changes no thread; a lane whose address pair does not exist drops it (10 R286). -/
def Obligations.FencesPrefetchesAndCaches : Prop :=
  (∀ (s : State) (bd : Bundle) (k : Block) (g : Guard) (tid : Nat) (th : Thread) (c : Core),
    let s1 := s.commitLanes bd g
    s.curBundle = some bd → Runs s1 bd k → s.active bd g = [tid] → s1.active bd g = [tid] →
    s1.thread? bd.blk tid = some th → s1.cores[k.core]? = some c → th.blocked = 0 →
    let kept := fun (t : State) => t.homes.mem = s1.homes.mem ∧ SameReqs t.homes.reqs s1.homes.reqs
    let l1 := fun (t : State) => (t.cores[k.core]?).map (·.l1)
    (∀ o sc, (o = .acq ∨ o = .sc → s1.loadsPending bd.blk tid = false) → (o = .rel ∨ o = .sc → s1.writesPending bd.blk tid = false) →
      ∃ t, exec (.fence g o sc) s = .next t ∧ (o = .rel → t.still = s1.still) ∧
        l1 t = some (if (o = .acq ∨ o = .sc) ∧ sc ≠ .thread ∧ sc ≠ .block then c.l1.filter (·.ro) else c.l1) ∧
        (t.cores[k.core]?).map (·.clk) = some (if o = .sc then c.clk + 1 else c.clk)) ∧
    (∀ o sc, (o = .acq ∨ o = .sc) ∧ s1.loadsPending bd.blk tid = true → exec (.fence g o sc) s = .next s1) ∧
    (∀ o sc, (o = .rel ∨ o = .sc) ∧ s1.writesPending bd.blk tid = true → exec (.fence g o sc) s = .next s1) ∧
    (∃ t, exec (.cctlRoinv g) s = .next t ∧ l1 t = some (c.l1.filter fun x => !x.ro) ∧ kept t) ∧
    (∃ t, exec (.cctlL1inv g) s = .next t ∧ l1 t = some [] ∧ kept t) ∧
    (∀ pod, s1.persistOut bd.blk tid pod = false → ∃ t, exec (.pbar g pod) s = .next t ∧
      Became s1 t (onLanes bd [tid] fun _ th => { th with epoch := th.epoch + 1 })) ∧
    (∀ pod, s1.persistOut bd.blk tid pod = true → ∃ t, exec (.pbar g pod) s = .next t ∧ ParkedAt t bd.blk tid (.pbar pod) bd.pc ∧ t.still = s1.still) ∧
    ∀ (a : Fin 1536) (off : BitVec 14) (size : Size),
      let ea := (BitVec.ofInt 64 ((th.regW a.val 2 : Int) + off.toInt * size.bytes)).toNat
      let sends := fun (t : State) (op : ReqOp) (pa : Nat) => t.homes.mem = s1.homes.mem ∧
        (∃ th', t.thread? bd.blk tid = some th' ∧ th'.v = th.v ∧ th'.cntSt = th.cntSt + 1) ∧
        ∃ r p, t.homes.reqs = s1.homes.reqs ++ [r] ∧ r.op = op ∧ r.line = pa / 128 ∧ r.parts = [p] ∧ p.tid = tid
      ∀ pa code, a.val + 2 ≤ th.regs → th.cntSt ≠ 63 →
      (s1.memTgt bd.blk k { lineOp g a off size true with space := .virt .ro .read } ea = .mem pa code →
        (∃ t, exec (.cctlL2wb g a off size) s = .next t ∧ sends t .l2wb pa) ∧
        (∃ t, exec (.cctlL2inv g a off size) s = .next t ∧ sends t .l2inv pa) ∧
        ∃ t, exec (.cctlL1line g a off size) s = .next t ∧ l1 t = some (c.l1.filter fun x => x.line / 4 != pa / 512)) ∧
      (s1.memTgt bd.blk k (lineOp g a off size true) ea = .mem pa code → ∀ inv,
        ∃ t, exec (.pwb g a off size inv) s = .next t ∧ sends t (.pwb inv) pa)) ∧
  (∀ (s : State) (bd : Bundle) (k : Block) (g : Guard),
    let s1 := s.commitLanes bd g
    s.curBundle = some bd → Runs s1 bd k → (∃ tid ∈ s1.active bd g, s1.writesPending bd.blk tid = true) →
    (∀ d i, s.outOfBounds bd (.w1 g d []) = [] → exec (.barArrive g d i) s = .next s1) ∧
    (∀ i, exec (.barSync g i) s = .next s1) ∧ exec (.cbar g) s = .next s1 ∧
    (∀ q a p, s.outOfBounds bd ⟨g, [(a, 1)], [], .none, false, false⟩ = [] → exec (.qtryPush g q a p) s = .next s1) ∧
    ∀ (i : Instr) (o : VOp) (f : LaneIn → LaneOut) (q w : Nat), pointwise i = some (o, f) → o.guard = g → o.pushOf = some (q, w) →
      s.outOfBounds bd o = [] → exec i s = .next s1) ∧
  (∀ (i : Instr) (o : MemOp) (s s1 : State) (bd : Bundle) (k : Block) (tid : Nat) (th : Thread), accessForm i = some o → o.waitW = true →
    LoneLane s s1 bd k tid th o → s1.writesPending bd.blk tid = true → exec i s = .next s1) ∧
  (∀ (s : State) (bd : Bundle) (k : Block) (g : Guard) (tid : Nat) (th : Thread) (a : Fin 1536) (off : BitVec 14) (ro : Bool) (size : Size)
      (evict : Fin 8), Runs s bd k → s.active bd g = [tid] → s.thread? bd.blk tid = some th → th.blocked = 0 →
    let ea := (BitVec.ofInt 64 ((th.regW a.val 2 : Int) + off.toInt * size.bytes)).toNat
    let same := fun (t : State) => (∀ b' t', (t.thread? b' t').map Thread.still = (s.thread? b' t').map Thread.still) ∧ t.homes.mem = s.homes.mem
    (th.regs < a.val + 2 → ∃ t, exec (.pref g a off ro size evict) s = .next t ∧ same t ∧ t.homes.reqs = s.homes.reqs) ∧
    ∀ pa code, a.val + 2 ≤ th.regs → s.walkFull (some k.core) (s.ctxOf k) ea = false →
      s.tgtOf false (s.xlateAt (some k.core) (s.ctxOf k) ea .read) = .mem pa code →
      ∃ t, exec (.pref g a off ro size evict) s = .next t ∧ same t ∧
        ∃ r p, t.homes.reqs = s.homes.reqs ++ [r] ∧ r.op = .pref ro ∧ r.line = pa / 128 ∧ r.evict = evict.val ∧ r.parts = [p] ∧ p.dst = none)

/-! ### Queues and barriers -/

/-- A pop source gives a lane the head entry of its queue, in the order A, B, C, and the result is computed from it; a lane whose queue
lacks an entry parks at the instruction with no effect; a queue in the wrong state halts the block (12 R324, R325, R327; 02 R69). A queue
destination receives the lane's result as one entry, once the lane's earlier writes are acknowledged; with no free slot the lane parks at
the instruction with no effect (12 R323, R324, R330). Flags that such an instruction raises are in FLAGS when it ends (08 R211). RDSR
pushes the register's value, WRSR writes FLAGS from a popped entry (04 R124, 08 R208). Queues are first in, first out: a push puts the
element behind the entries that are there, which keep their bytes, and a pop takes the oldest; an empty closed queue gives zero and pops
nothing (12 R323, R327). -/
def Obligations.QueueOperands : Prop :=
  (∀ (i : Instr) (o : VOp) (f : LaneIn → LaneOut) (s s1 : State) (bd : Bundle) (k k1 : Block) (tid : Nat) (th : Thread),
    pointwise i = some (o, f) → Runs s bd k → o.usesQ = true → o.pushOf = none → o.meet = false → k.rowMode o = false →
    s.outOfBounds bd o = [] → s.active bd o.guard = [tid] → s.commitRegion bd.blk tid bd.pc = (s1, true) →
    Runs s1 bd k1 → s1.thread? bd.blk tid = some th →
    (∀ c, k1.queueFault o false = some c → k1.halt = none → GoesOn s1 bd k1 → ∃ t, exec i s = .next t ∧
      (t.blocks[bd.blk]?).bind (fun x => x.halt.map (·.code)) = some c) ∧
    (∀ q, k1.queueFault o false = none → k1.queueWait o 1 = some q → ∃ t, exec i s = .next t ∧ t.still = s1.still ∧
      ParkedAt t bd.blk tid (.queue q) bd.pc) ∧
    (k1.queueFault o false = none → k1.queueWait o 1 = none →
      let out := f (popView k1 o th)
      out.fault = none → (o.traps = true → trapCause out.flags th.flags = 0) → ∃ t, exec i s = .next t ∧ t.homes = s1.homes ∧
        (∃ th', t.thread? bd.blk tid = some th' ∧ Settled th th' o.dst out) ∧
        (t.blocks[bd.blk]?).map (·.queues) = some (k1.popLane o.srcs (o.srcs.map fun x => srcRead x.1 x.2 k1 th)).1.queues ∧
        (t.blocks[bd.blk]?).map (·.spad) = some k1.spad)) ∧
  (∀ (i : Instr) (o : VOp) (f : LaneIn → LaneOut) (s s1 : State) (bd : Bundle) (k k1 : Block) (tid q w : Nat) (th : Thread),
    pointwise i = some (o, f) → Runs s bd k → o.popsOf = [] → o.pushOf = some (q, w) → o.meet = false → k.rowMode o = false →
    s.outOfBounds bd o = [] → s.active bd o.guard = [tid] → s.commitRegion bd.blk tid bd.pc = (s1, true) →
    s1.writesPending bd.blk tid = false → Runs s1 bd k1 → s1.thread? bd.blk tid = some th → k1.queueFault o false = none →
    (k1.queueWait o 1 = some q → ∃ t, exec i s = .next t ∧ t.still = s1.still ∧ ParkedAt t bd.blk tid (.queue q) bd.pc) ∧
    (k1.queueWait o 1 = none →
      let out := f (popView k1 o th)
      out.fault = none → (o.traps = true → trapCause out.flags th.flags = 0) → ∃ t, exec i s = .next t ∧ t.homes = s1.homes ∧
        (t.blocks[bd.blk]?).map (fun x => (x.queues, x.spad)) = some ((k1.push q [out.val]).queues, (k1.push q [out.val]).spad) ∧
        ∃ th', t.thread? bd.blk tid = some th' ∧ Settled th th' o.dst out)) ∧
  (∀ (s s1 : State) (bd : Bundle) (k k1 : Block) (g : Guard) (tid : Nat) (q : Fin 16) (th : Thread), Runs s bd k → s.active bd g = [tid] →
    s.commitRegion bd.blk tid bd.pc = (s1, true) → Runs s1 bd k1 → s1.thread? bd.blk tid = some th →
    (∀ (n : BitVec 12) (i : SysregInfo), sysreg n.toNat = some i →
      let o : VOp := ⟨g, [], [], .reg (.q q) (if i.wide then 2 else 1), false, false⟩
      k.rowMode o = false → k1.rowMode o = false → s1.writesPending bd.blk tid = false → k1.queueFault o false = none →
      k1.queueWait o 1 = none →
      ∃ t, exec (.rdsr g (.q q) n) s = .next t ∧ t.homes = s1.homes ∧
        (t.blocks[bd.blk]?).map (fun x => (x.queues, x.spad)) = some ((k1.push q.val [s1.sysread k1 (some tid) n.toNat]).queues,
          (k1.push q.val [s1.sysread k1 (some tid) n.toNat]).spad)) ∧
    (let o : VOp := ⟨g, [(.q q, 1)], [], .sys 0x030, false, false⟩
     k1.rowMode o = false → k1.queueFault o false = none → k1.queueWait o 1 = none →
      ∃ t, exec (.wrsr g 0x030 (.q q)) s = .next t ∧ (t.blocks[bd.blk]?).map (·.queues) = some (k1.pop q.val).1.queues ∧
        ∃ th', t.thread? bd.blk tid = some th' ∧ th'.v = th.v ∧ th'.pred = th.pred ∧
          th'.flags = BitVec.ofNat 32 ((k1.pop q.val).2.getD 0 0) &&& 0x0000071F)) ∧
  (∀ (k : Block) (q e : Nat) (c : Carve), k.queues[q]? = some c → c.row = false →
    let w := widthBytes c.width
    (c.count < c.cap →
      let k' := k.push q [e]
      (k'.queue q).count = c.count + 1 ∧ (k'.queue q).pushes = c.pushes + 1 ∧ (k'.queue q).head = c.head ∧
      Memory.read k'.spad (c.offset + (c.head + c.count) % c.cap * w) w = e % 2 ^ (8 * w) ∧
      ∀ i, i < c.count → Memory.read k'.spad (c.offset + (c.head + i) % c.cap * w) w = Memory.read k.spad (c.offset + (c.head + i) % c.cap * w) w) ∧
    (0 < c.count → (k.pop q).2 = [Memory.read k.spad (c.offset + c.head % c.cap * w) w] ∧
      ((k.pop q).1.queue q).count = c.count - 1 ∧ ((k.pop q).1.queue q).head = (c.head + 1) % c.cap ∧ (k.pop q).1.spad = k.spad) ∧
    (c.count = 0 → k.pop q = (k, [0])))

/-- QLEN reads the entries or the free slots, QEOS whether the queue is closed and empty, QCLOSE closes it and wakes its waiters;
QTRY pops or pushes where it can and says in its predicate whether it did; each on a queue that is carved, the others halt the
block with QUEUE_STATE (12 R327, R328, R332–R334). -/
def Obligations.QueueInstructions : Prop :=
  ∀ (s : State) (bd : Bundle) (k : Block) (g : Guard) (q : Fin 16) (c : Carve),
    let s1 := s.commitLanes bd g
    s.curBundle = some bd → Runs s1 bd k → k.queues[q.val]? = some c →
    let act := s1.active bd g
    (c.carved = true →
      (∀ d free, s.outOfBounds bd (.w1 g d []) = [] → ∃ t, exec (.qlen g d q free) s = .next t ∧
        Became s1 t (onLanes bd act fun _ th => th.give d (if free then c.cap - c.count else c.count))) ∧
      (∀ p, ∃ t, exec (.qeos g p q) s = .next t ∧ Became s1 t (onLanes bd act fun _ th => th.setP p.val (c.closed && c.count == 0))) ∧
      (act ≠ [] → ∃ t, exec (.qclose g q) s = .next t ∧ t.homes = s1.homes ∧
        (∃ k', t.blocks[bd.blk]? = some k' ∧ k'.queues = k.queues.set q.val { c with closed := true } ∧ k'.spad = k.spad) ∧
        ∀ tid th, s1.thread? bd.blk tid = some th → th.status = .parked (.queue q.val) →
          ∃ th', t.thread? bd.blk tid = some th' ∧ th'.status = .ready false) ∧
      ∀ tid th, act = [tid] → s1.thread? bd.blk tid = some th → c.row = false → c.width = 0 →
        (∀ d p, s.outOfBounds bd (.w1 g d []) = [] →
          (c.count = 0 → ∃ t, exec (.qtryPop g d q p) s = .next t ∧ Became s1 t (onLanes bd [tid] fun _ th => th.setP p.val false)) ∧
          (0 < c.count → ∃ t, exec (.qtryPop g d q p) s = .next t ∧
            (∃ th', t.thread? bd.blk tid = some th' ∧
              th'.still = ((th.give d (Memory.read k.spad (c.offset + c.head % c.cap * 4) 4)).setP p.val true).still) ∧
            ∃ k', t.blocks[bd.blk]? = some k' ∧ k'.spad = k.spad ∧
              k'.queues = k.queues.set q.val { c with head := (c.head + 1) % c.cap, count := c.count - 1, pops := c.pops + 1 })) ∧
        ∀ a p, s.outOfBounds bd ⟨g, [(a, 1)], [], .none, false, false⟩ = [] → c.closed = false → s1.writesPending bd.blk tid = false →
          let o : VOp := ⟨g, [(a, 1)], [], .none, false, false⟩
          let x := ((laneViews (ownOps bd o k) o).getD (tid % 8) LaneIn.none).src 0
          (c.cap ≤ c.count → ∃ t, exec (.qtryPush g q a p) s = .next t ∧ Became s1 t (onLanes bd [tid] fun _ th => th.setP p.val false)) ∧
          (c.count < c.cap → ∃ t, exec (.qtryPush g q a p) s = .next t ∧
            (∃ th', t.thread? bd.blk tid = some th' ∧ th'.still = (th.setP p.val true).still) ∧
            (t.blocks[bd.blk]?).map (fun x => (x.queues, x.spad)) = some ((k.push q.val [x]).queues, (k.push q.val [x]).spad))) ∧
    (c.carved = false → k.halt = none → act ≠ [] → GoesOn s1 bd k → ∀ i ∈ [Instr.qclose g q, .qeos g 1 q, .qlen g .vz q false, .qtryPop g .vz q 1],
      ∃ t, exec i s = .next t ∧ (t.blocks[bd.blk]?).bind (fun x => x.halt.map (·.code)) = some 0x15)

/-- A barrier's phase completes when its arrivals are in and no bytes are pending: the phase turns, the arrivals start again, and
whoever waits for it goes on; until then nothing happens (16 R441, R442). BAR.ARRIVE counts a thread's or the sequencer's
arrival and gives the phase before it; BAR.SYNC also waits for the phase to turn; BAR.WAIT waits while the phase is the given
one, an immediate or bit 0 of a register; BAR.EXPECT adds bytes or sets the expected arrivals, an immediate plus a register; a second
arrival at an ALL barrier and a count above 4,097 halt the block with BAR_STATE (16 R443–R446). -/
def Obligations.BarrierOperations : Prop :=
  (∀ (s : State) (b i : Nat) (k : Block) (x : Barrier), s.blocks[b]? = some k → k.bars[i]? = some x →
    let done := k.arrivalsIn i && x.pending == 0
    (done = false → s.testBarrier b i = s) ∧
    (done = true → ∃ k', (s.testBarrier b i).blocks[b]? = some k' ∧
      k'.bars = k.bars.set i { x with arrived := 0, phase := !x.phase } ∧
      (∀ (t : Nat) (th : Thread), k.threads[t]? = some th → ∃ th' : Thread, k'.threads[t]? = some th' ∧ (∀ j, th'.arrb.getLsbD j = (th.arrb.getLsbD j && !(j == i))) ∧
        th'.v = th.v ∧ th'.status = if th.status = .parked (.barrier i x.phase) then .ready false else th.status) ∧
      k'.seq.wait = if k.seq.wait = .barrier i x.phase then .none else k.seq.wait) ∧
    (match x.expected with
      | some n => k.arrivalsIn i = decide (n ≤ x.arrived)
      | none => k.arrivalsIn i = k.threads.all fun t => t.status == .exited || t.arrb.getLsbD i)) ∧
  (∀ (s : State) (bd : Bundle) (k : Block) (g : Guard) (i : Fin 16) (x : Barrier) (tid : Nat) (th : Thread),
    let s1 := s.commitLanes bd g
    s.curBundle = some bd → Runs s1 bd k → k.bars[i.val]? = some x → s1.active bd g = [tid] → s1.thread? bd.blk tid = some th →
    let bit := BitVec.ofNat 16 (2 ^ i.val)
    let s2 := ((s1.modThread bd.blk tid fun t => { t with arrb := t.arrb ||| bit }).modBlock bd.blk fun k =>
      { k with bars := k.bars.set i.val { x with arrived := (x.arrived + 1) % 65536 } }).testBarrier bd.blk i.val
    let twice := x.expected = none ∧ th.arrb.getLsbD i.val = true
    let bad := fun (j : Instr) => ∃ t, exec j s = .next t ∧ (t.blocks[bd.blk]?).bind (fun x => x.halt.map (·.code)) = some 0x1D
    (∀ d, s.outOfBounds bd (.w1 g d []) = [] → s1.writesPending bd.blk tid = false → ¬ twice →
      ∃ t, exec (.barArrive g d i) s = .next t ∧ Became s2 t (onLanes bd [tid] fun _ th => th.give d (if x.phase then 1 else 0))) ∧
    (s1.writesPending bd.blk tid = false → ¬ twice → s2.barPhase bd.blk i.val ≠ x.phase →
      ∃ t, exec (.barSync g i) s = .next t ∧ t.still = s2.still) ∧
    (s1.writesPending bd.blk tid = false → ¬ twice → s2.barPhase bd.blk i.val = x.phase → GoesOn s1 bd k →
      ∃ t, exec (.barSync g i) s = .next t ∧ t.still = s2.still ∧ ParkedAt t bd.blk tid (.barrier i.val x.phase) bd.next) ∧
    (s1.writesPending bd.blk tid = false → twice → k.halt = none → GoesOn s1 bd k → bad (.barSync g i) ∧ bad (.barArrive g .vz i)) ∧
    (∀ p, p ≠ x.phase → ∃ t, exec (.barWait g i (.imm p)) s = .next t ∧ t.still = s1.still) ∧
    (GoesOn s1 bd k → ∃ t, exec (.barWait g i (.imm x.phase)) s = .next t ∧ t.still = s1.still ∧
      ParkedAt t bd.blk tid (.barrier i.val x.phase) bd.next) ∧
    (∀ a par, s.outOfBounds bd ⟨g, [(a, 1)], [], .none, false, false⟩ = [] →
      let p := srcRead a 1 k th % 2 == 1
      (p ≠ x.phase → ∃ t, exec (.barWait g i (.reg a par)) s = .next t ∧ t.still = s1.still) ∧
      (p = x.phase → GoesOn s1 bd k → ∃ t, exec (.barWait g i (.reg a par)) s = .next t ∧ t.still = s1.still ∧
        ParkedAt t bd.blk tid (.barrier i.val x.phase) bd.next)) ∧
    ∀ (a : Option Src) (imm : BitVec 21), s.outOfBounds bd ⟨g, (a.map fun x => (x, 1)).toList, [], .none, false, false⟩ = [] →
      let v := imm.toNat + (a.map fun x => srcRead x 1 k th).getD 0
      let sets := fun (kind : ExpKind) (y : Barrier) => ∃ t, exec (.barExpect g i kind a imm) s = .next t ∧ t.still =
        ((s1.modBlock bd.blk fun k => { k with bars := k.bars.set i.val y }).testBarrier bd.blk i.val).still
      sets .bytes { x with pending := x.pending + BitVec.ofNat 64 v } ∧ sets .all { x with expected := none } ∧
      (v ≤ 4097 → sets .arrivals { x with expected := some v }) ∧
      (4097 < v → k.halt = none → GoesOn s1 bd k → bad (.barExpect g i .arrivals a imm)))

/-- WAIT lets a thread or the sequencer pass when its counters are at most the thresholds, and holds it at the instruction until
then; the barrier instructions of the sequencer act as those of a thread, with K halves for registers, but its arrival at an ALL barrier
halts the block with BAR_STATE; CBAR arrives at the unit's barrier of its stream and waits for it (16 R440, R442–R447). -/
def Obligations.WaitsAndClusterBarriers : Prop :=
  (∀ (s : State) (bd : Bundle) (k : Block) (g : Guard) (tid : Nat) (th : Thread) (ld st cp tl : Fin 64),
    let s1 := s.commitLanes bd g
    s.curBundle = some bd → Runs s1 bd k → s1.active bd g = [tid] → s1.thread? bd.blk tid = some th →
    let pass := (ld.val = 63 ∨ th.cntLd ≤ ld.val) ∧ (st.val = 63 ∨ th.cntSt ≤ st.val) ∧ (cp.val = 63 ∨ k.cntCp ≤ cp.val) ∧ (tl.val = 63 ∨ k.cntTl ≤ tl.val)
    (pass → ∃ t, exec (.wait g ld st cp tl) s = .next t ∧ t.still = s1.still) ∧
    (¬ pass → ∃ t, exec (.wait g ld st cp tl) s = .next t ∧ t.still = s1.still ∧
      ParkedAt t bd.blk tid (.wait ld.val st.val cp.val tl.val) bd.pc) ∧
    (s1.writesPending bd.blk tid = false →
      let c := s1.cbarOf k.launch k.unit
      let s2 := (s1.setCbar { c with tarr := (bd.blk, tid) :: c.tarr }).testTbar k.launch k.unit
      ((s2.cbarOf k.launch k.unit).tphase ≠ c.tphase → ∃ t, exec (.cbar g) s = .next t ∧ t.still = s2.still) ∧
      ((s2.cbarOf k.launch k.unit).tphase = c.tphase → GoesOn s1 bd k → ∃ t, exec (.cbar g) s = .next t ∧ t.still = s2.still ∧
        ParkedAt t bd.blk tid (.cbar c.tphase) bd.next))) ∧
  ∀ (s : State) (b : Nat) (k : Block) (g : Guard) (i : Fin 16) (x : Barrier), SeqRuns s b k g → k.bars[i.val]? = some x →
    (∀ ld st cp tl : Fin 64,
      let pass := (cp.val = 63 ∨ k.cntCp ≤ cp.val) ∧ (tl.val = 63 ∨ k.cntTl ≤ tl.val)
      (pass → ∃ t, exec (.wait g ld st cp tl) s = .next t ∧ t.seqless = s.seqless ∧ WentOn t b k.seq) ∧
      (¬ pass → exec (.wait g ld st cp tl) s = .next s)) ∧
    (x.expected ≠ none →
      let s2 := (s.modBlock b fun k => { k with seqArr := k.seqArr ||| BitVec.ofNat 16 (2 ^ i.val), bars := k.bars.set i.val { x with arrived := (x.arrived + 1) % 65536 } }).testBarrier b i.val
      ∀ d, ∃ t, exec (.barArrive g d i) s = .next t ∧ t.seqless = s2.seqless) ∧
    (∀ (h : Option (Fin 256)) (imm : BitVec 21),
      let a := h.map Src.k
      let v := imm.toNat + (h.map fun h => (k.khalf h.val).toNat).getD 0
      let sets := fun (kind : ExpKind) (y : Barrier) => ∃ t, exec (.barExpect g i kind a imm) s = .next t ∧ t.seqless =
        ((s.modBlock b fun k => { k with bars := k.bars.set i.val y }).testBarrier b i.val).seqless
      sets .bytes { x with pending := x.pending + BitVec.ofNat 64 v } ∧ sets .all { x with expected := none } ∧
      (v ≤ 4097 → sets .arrivals { x with expected := some v }) ∧
      (4097 < v → k.halt = none → HaltsWith (.barExpect g i .arrivals a imm) s b 0x1D)) ∧
    (x.expected ≠ none →
      let s2 := (s.modBlock b fun k => { k with seqArr := k.seqArr ||| BitVec.ofNat 16 (2 ^ i.val), bars := k.bars.set i.val { x with arrived := (x.arrived + 1) % 65536 } }).testBarrier b i.val
      (s2.barPhase b i.val ≠ x.phase → ∃ t, exec (.barSync g i) s = .next t ∧ t.seqless = s2.seqless ∧ WentOn t b k.seq) ∧
      (s2.barPhase b i.val = x.phase → ∃ t, exec (.barSync g i) s = .next t ∧ t.seqless = s2.seqless ∧
        (t.blocks[b]?).map (·.seq.wait) = some (.barrier i.val x.phase))) ∧
    (x.expected = none → k.halt = none → HaltsWith (.barSync g i) s b 0x1D ∧ ∀ d, HaltsWith (.barArrive g d i) s b 0x1D) ∧
    (let c := s.cbarOf k.launch k.unit
     let s2 := (s.setCbar { c with sarr := b :: c.sarr }).testSbar k.launch k.unit
     ((s2.cbarOf k.launch k.unit).sphase ≠ c.sphase → ∃ t, exec (.cbar g) s = .next t ∧ t.seqless = s2.seqless ∧ WentOn t b k.seq) ∧
     ((s2.cbarOf k.launch k.unit).sphase = c.sphase → ∃ t, exec (.cbar g) s = .next t ∧ t.seqless = s2.seqless ∧
      (t.blocks[b]?).map (·.seq.wait) = some (.cbar c.sphase))) ∧
    (∀ sel phase, sel = ParSel.imm phase ∨ (∃ h par, sel = .reg (.k h) par ∧ phase = (k.khalf h.val).getLsbD 0) →
      (phase = x.phase → ∃ t, exec (.barWait g i sel) s = .next t ∧ t.seqless = s.seqless ∧
        (t.blocks[b]?).map (·.seq.wait) = some (.barrier i.val x.phase)) ∧
      (phase ≠ x.phase → ∃ t, exec (.barWait g i sel) s = .next t ∧ t.seqless = s.seqless ∧ WentOn t b k.seq))

/-! ### The uniform stream -/

/-- Each K instruction writes what 14 R393 gives it into its K register, where its guard holds; a write to K0 is discarded; a false
guard has no effect; the sequencer goes on, and nothing else changes. KRDSR writes the value 04 R123 gives the register. -/
def Obligations.UniformArithmetic : Prop :=
  (∀ (i : Instr) (g : Guard) (kd : Fin 128) (f : Block → DWord) (s : State) (b : Nat) (k : Block),
    seqLane i = some (g, kd, f) → s.cur = .sequencer b → s.resident? b = some k →
    ∃ t, exec i s = .next t ∧ SeqDid s t (s.modBlock b fun x => { x with
      k := if (g.val = 0 ∨ k.kreg g.val ≠ 0) ∧ kd.val ≠ 0 then x.k.set kd.val (f k) else x.k }) b) ∧
  ∀ (s : State) (b : Nat) (k : Block) (g : Guard) (kd : Fin 128) (n : BitVec 12), SeqRuns s b k g →
    (∃ t, exec (.krdsr g kd n) s = .next t ∧ SeqDid s t (s.modBlock b fun x => { x with
      k := if kd.val ≠ 0 then x.k.set kd.val (BitVec.ofNat 64 (s.sysread k none n.toNat)) else x.k }) b) ∧
    ∀ x ∈ [(0x002, k.bid.toNat), (0x020, s.logical k.core), (0x021, k.core % 36 / 4), (0x022, k.core / 36), (0x023, s.pkg), (0x024, k.core % 4),
      (0x040, s.clock.toNat), (0x041, s.regs.stepno.toNat), (0x052, k.cntCp), (0x053, k.cntTl),
      (0x061, ((s.cores[k.core]?).map (·.dropcnt.toNat)).getD 0)] ++
      ((List.range 8).map fun n =>
        let below := (s.launch? k).any fun l => decide (n < l.blockLevel)
        (0x010 + n, if below then 0 else (k.lvidx.getD n 0).toNat)) ++
      (List.range 8).map fun n => (0x018 + n, (k.ext.getD n 1).toNat), s.sysread k none x.1 = x.2

/-- KBRA goes to its target, KLOOP enters its body with its count or skips it, KEND goes round, leaves the loop, or ends the stream;
a fifth loop raises LOOP_NEST and a target that is no header ILLEGAL_TARGET (14 R393, R394; 02 R52; 01 R30). -/
def Obligations.UniformControl : Prop :=
  ∀ (s : State) (b : Nat) (k : Block) (imm : BitVec 32), s.cur = .sequencer b → s.resident? b = some k →
    let target := k.seq.hdr + 8 * imm.signExtend 64
    let stack := fun (l : List (DWord × DWord)) => (s.modBlock b fun k => { k with seq := { k.seq with loops := l } }).seqless
    (∀ g : Guard, g.val = 0 ∨ k.kreg g.val ≠ 0 →
      (s.targetOk k false target = true → ∃ t, exec (.kbra g imm) s = .next t ∧ SeqAt t b target ∧ t.seqless = s.seqless) ∧
      (s.targetOk k false target = false → k.halt = none → HaltsWith (.kbra g imm) s b 0x05)) ∧
    (∀ g : Guard, ¬(g.val = 0 ∨ k.kreg g.val ≠ 0) → ∃ t, exec (.kbra g imm) s = .next t ∧ SeqDid s t s b) ∧
    (∀ ka : Fin 128,
      (k.kreg ka.val = 0 → s.targetOk k false target = true → ∃ t, exec (.kloop ka imm) s = .next t ∧ SeqAt t b target ∧ t.seqless = s.seqless) ∧
      (k.kreg ka.val ≠ 0 → k.seq.loops.length < 4 → s.targetOk k false k.seq.after = true → ∃ t, exec (.kloop ka imm) s = .next t ∧
        SeqAt t b k.seq.after ∧ t.seqless = stack (k.seq.loops ++ [(k.seq.after, k.kreg ka.val)])) ∧
      (k.kreg ka.val ≠ 0 → 4 ≤ k.seq.loops.length → k.halt = none → HaltsWith (.kloop ka imm) s b 0x19)) ∧
    (k.seq.loops = [] → ∃ t, exec .kend s = .next t ∧ t.homes.mem = s.homes.mem ∧ SameReqs t.homes.reqs s.homes.reqs ∧
      ∃ k', t.blocks[b]? = some k' ∧ k'.seq.ended = true ∧ k'.k = k.k ∧ k'.threads = k.threads) ∧
    ∀ rest start n, k.seq.loops = rest ++ [(start, n)] →
      (n ≠ 1 → s.targetOk k false start = true → ∃ t, exec .kend s = .next t ∧ SeqAt t b start ∧ t.seqless = stack (rest ++ [(start, n - 1)])) ∧
      (n = 1 → s.targetOk k false k.seq.after = true → ∃ t, exec .kend s = .next t ∧ SeqAt t b k.seq.after ∧ t.seqless = stack rest)

/-- An engine reads the bytes of memory that its virtual addresses name, and writes change those bytes and no others (09 R257–R259;
the spec's homes, 09 R248). KLD reads 64 bits into its K register, from the line of its core's L1 that it hits or from its home, and KST
writes one's 64 bits, also into the line that the L1 holds (09 R246, R247; the model's reading that they act as a thread's accesses
there, log 51); SIGNAL writes, adds or maximises
its 32-bit word; no other byte of memory changes; a misaligned address raises MISALIGNED (14 R393, R395; 16 R448). -/
def Obligations.UniformMemory : Prop :=
  (∀ (s : State) (e : Eng) (va n pa a : Nat) (code : Bool), e.via.persist = none →
    (Plain s e.core e.via.ctx va n .read pa a code → (s.readVa e va n).2 = (.ok, Memory.bytes s.homes.mem a n) ∧
      (s.readVa e va n).1.homes.mem = s.homes.mem ∧ (s.readVa e va n).1.blocks = s.blocks ∧ (s.readVa e va n).1.regs = s.regs) ∧
    ∀ bs : List Byte, bs.length = n → Plain s e.core e.via.ctx va n .write pa a code → (s.writeVa e va bs).2 = .ok ∧
      Stored s.homes.mem (s.writeVa e va bs).1.homes.mem a bs ∧ (s.writeVa e va bs).1.blocks = s.blocks ∧ (s.writeVa e va bs).1.regs = s.regs) ∧
  (∀ (s : State) (b : Nat) (k : Block) (g : Guard) (pa a : Nat) (code : Bool), SeqRuns s b k g →
    let after := fun (t : State) => WentOn t b k.seq ∧ ∀ b', b' ≠ b → t.blocks[b']? = s.blocks[b']?
    let kregs := fun (t : State) => (t.blocks[b]?).map (·.k)
    (∀ (kd ka : Fin 128) (o : Order) (sc : Scope) (imm : BitVec 32),
      let va := (k.kreg ka.val + imm.signExtend 64).toNat
      (va % 8 = 0 → Plain s (some k.core) (s.ctxOf k) (va / 128 * 128) 128 .read pa a code →
        let hit := (s.l1Line k.core ((s.pkg * 2 ^ 42 + a + va % 128) / 128)).filter fun x =>
          !x.ro && !x.stale && (o == .rlx || (o == .acq && (sc == .thread || sc == .block)))
        let v := match hit with
          | some l => ofBytes ((l.data.drop (va % 128)).take 8)
          | none => Memory.read s.homes.mem (a + va % 128) 8
        ∃ t, exec (.kld g kd ka o sc imm) s = .next t ∧ after t ∧ t.homes.mem = s.homes.mem ∧
          kregs t = some (if kd.val = 0 then k.k else k.k.set kd.val (BitVec.ofNat 64 v))) ∧
      (va % 8 = 0 → Plain s (some k.core) (s.ctxOf k) va 8 .write pa a code → ∃ t, exec (.kst g kd ka o sc imm) s = .next t ∧ after t ∧
        Stored s.homes.mem t.homes.mem a (toBytes (k.kreg kd.val).toNat 8) ∧ kregs t = some k.k ∧
        ∀ l, s.l1Line k.core ((s.pkg * 2 ^ 42 + a) / 128) = some l → l.data.length = 128 →
          ∃ l', t.l1Line k.core ((s.pkg * 2 ^ 42 + a) / 128) = some l' ∧ ∀ j, j < 128 → l'.data.getD j 0 =
            if (s.pkg * 2 ^ 42 + a) % 128 ≤ j ∧ j < (s.pkg * 2 ^ 42 + a) % 128 + 8
            then (toBytes (k.kreg kd.val).toNat 8).getD (j - (s.pkg * 2 ^ 42 + a) % 128) 0 else l.data.getD j 0) ∧
      (va % 8 ≠ 0 → k.halt = none → HaltsWith (.kld g kd ka o sc imm) s b 0x14 ∧ HaltsWith (.kst g kd ka o sc imm) s b 0x14)) ∧
    ∀ m : Fin 128,
      let va := (k.kreg m.val).toNat
      let v := (k.kreg (m.val + 1)).toNat % 2 ^ 32
      let old := Memory.read s.homes.mem a 4
      let leaves := fun (op : SigOp) (w : Nat) => ∃ t, exec (.signal g (.k m) op) s = .next t ∧ after t ∧
        Stored s.homes.mem t.homes.mem a (toBytes w 4) ∧ kregs t = some k.k
      (va % 4 = 0 → Plain s (some k.core) (s.ctxOf k) va 4 .write pa a code → leaves .set v) ∧
      (va % 4 = 0 → Plain s (some k.core) (s.ctxOf k) va 4 .atomic pa a code → leaves .add ((old + v) % 2 ^ 32) ∧ leaves .maxu (max old v)))

/-- A thread's SIGNAL leaves as a request to its word, as a SYSTEM release: a store of the value or the atomic; it counts in CNT.ST,
and memory and the registers stay until it is performed (16 R448, R445). -/
def Obligations.ThreadSignal : Prop :=
  ∀ (s s1 : State) (bd : Bundle) (k : Block) (tid : Nat) (th : Thread) (g : Guard) (x : SigAddr) (op : SigOp) (pa : Nat) (code : Bool),
    LoneMem s s1 bd k tid th (sigMem g x op) →
    let ea := (sigMem g x op).ea k th
    let v := match x with
      | .v n => (th.reg (n.val + 2)).toNat
      | .k m => (k.kreg (m.val + 1)).toNat % 2 ^ 32
    s1.memTgt bd.blk k (sigMem g x op) ea = .mem pa code →
    ∃ t, exec (.signal g x op) s = .next t ∧ t.homes.mem = s1.homes.mem ∧
      (∃ th', t.thread? bd.blk tid = some th' ∧ th'.v = th.v ∧ th'.pred = th.pred ∧ th'.cntSt = th.cntSt + 1 ∧ th'.cntLd = th.cntLd) ∧
      ∃ rs r p, t.homes.reqs = rs ++ [r] ∧ SameReqs rs s1.homes.reqs ∧ r.parts = [p] ∧ r.line = pa / 128 ∧ r.order = .rel ∧ r.scope = .system ∧
        r.op = (match op with
          | .set => .store
          | .add => .atomic 0x85
          | .maxu => .atomic 0x89) ∧
        p.tid = tid ∧ p.ea = ea ∧ p.off = pa % 128 ∧ p.bytes = 4 ∧ p.data = BitVec.ofNat 128 v ∧ p.dst = none

/-- TALLOC binds an unbound name to an EMPTY tile, TFREE unbinds and TSET makes READY an EMPTY or READY tile without read holds, for
which they wait; the wrong state raises TILE_STATE and a tile outside the window SPAD_BOUNDS (14 R397, R399–R401). AALLOC maps a
handle to a free tile of its bank, zeroed, by the model's choice the first one (log 10); AFREE frees it and advances its tag, and a
free tile holds no words (the model's choice, log 5); ACLR zeroes it, once the handle's earlier
instructions have ended; a mapped or unmapped handle raises ACC_STATE, and one above MAXACC ACC_OVERCOMMIT (14 R406–R408; 04
R119). -/
def Obligations.TilesAndAccumulators : Prop :=
  (∀ (s : State) (b : Nat) (k : Block) (g : Guard) (t : Fin 64), SeqRuns s b k g → t.val < k.tiles.length →
    let x := k.tile t.val
    let bound := countp k.tiles Tile.bound
    let puts := fun (i : Instr) (y : Tile) => ∃ u, exec i s = .next u ∧ SeqDid s u (s.modBlock b fun k => { k with tiles := k.tiles.set t.val y }) b
    (∀ (ty : Ty) (koff : Fin 128),
      let off := (k.kreg koff.val).toNat
      let fits := x.state = .unbound ∧ bound < k.spadBytes / 16384
      (fits → off % 128 = 0 → off + 8192 ≤ k.spadBytes → puts (.talloc g t ty koff) ⟨.empty, off, ty, 0⟩) ∧
      (¬ fits → k.halt = none → HaltsWith (.talloc g t ty koff) s b 0x18) ∧
      (fits → off % 128 ≠ 0 ∨ k.spadBytes < off + 8192 → k.halt = none → HaltsWith (.talloc g t ty koff) s b 0x11)) ∧
    ((x.state = .empty ∨ x.state = .ready) ∧ x.holds = 0 → puts (.tfree g t) ⟨.unbound, 0, .fp32, 0⟩ ∧ puts (.tset g t) { x with state := .ready }) ∧
    (x.state = .unbound → k.halt = none → HaltsWith (.tfree g t) s b 0x18 ∧ HaltsWith (.tset g t) s b 0x18) ∧
    (x.state ≠ .unbound → ¬((x.state = .empty ∨ x.state = .ready) ∧ x.holds = 0) →
      exec (.tfree g t) s = .next s ∧ exec (.tset g t) s = .next s)) ∧
  (∀ (s : State) (b : Nat) (k : Block) (g : Guard) (h : Fin 16) (c : Core) (bk : Bank), SeqRuns s b k g → h.val < k.accs.length →
    s.cores[k.core]? = some c → c.banks[k.bank]? = some bk → c.active = k.bank → c.switching = none →
    let tile := fun (u : State) (i : Nat) => ((u.cores[k.core]?).bind (·.banks[k.bank]?)).bind (·.tiles[i]?)
    let did := fun (i : Instr) (n : Nat) (acc : Option (Nat × BitVec 4)) (y : AccTile) => ∃ u, exec i s = .next u ∧ WentOn u b k.seq ∧
      u.homes = s.homes ∧ (u.blocks[b]?).map (·.accs) = some (k.accs.set h.val acc) ∧ tile u n = some y
    (∀ i y, k.acc h.val = none → countp k.accs (·.isSome) < s.maxacc k → bk.tiles.findIdx? (·.owner.isNone) = some i → bk.tiles[i]? = some y →
      did (.aalloc g h) i (some (i, y.tag)) ⟨some (b, h.val), y.tag, List.replicate 4096 0⟩) ∧
    (∀ i tag y, k.acc h.val = some (i, tag) → bk.tiles[i]? = some y → s.accBusy b h.val = false →
      did (.afree g h) i none ⟨none, y.tag + 1, []⟩ ∧ did (.aclr g h) i (some (i, tag)) { y with words := List.replicate 4096 0 }) ∧
    (k.acc h.val ≠ none → s.accBusy b h.val = true → exec (.afree g h) s = .next s ∧ exec (.aclr g h) s = .next s) ∧
    (k.halt = none → k.acc h.val ≠ none → HaltsWith (.aalloc g h) s b 0x1A) ∧
    (k.halt = none → k.acc h.val = none → HaltsWith (.afree g h) s b 0x1A ∧ HaltsWith (.aclr g h) s b 0x1A) ∧
    (k.halt = none → k.acc h.val = none → s.maxacc k ≤ countp k.accs (·.isSome) → HaltsWith (.aalloc g h) s b 0x0B))

/-- TLOAD, TSTORE, ALOAD, ASTORE and MMA start: CNT.TL rises, their tiles go FILLING or take a read hold, and the transfer stands at its
first row or the MMA in its core's queue; the sequencer goes on, and no byte of memory has changed (14 R402, R403, R409–R412). The rows of
a transfer move one by one: TLOAD's into its tile, TSTORE's to memory, ALOAD's into its accumulator, ASTORE's, converted, to memory or its
tile; after the 64th the tile is READY, CNT.TL falls, and a named barrier loses 8,192 bytes (14 R402–R404, R409, R410; 16 R442); that each
event moves one row is the model's choice (log 52). An ALOAD whose accumulator has a new grant tag is dropped and counted (04 R119, R120).
-/
def Obligations.Transfers : Prop :=
  (∀ (s : State) (b : Nat) (k : Block) (g : Guard), SeqRuns s b k g → k.cntTl ≠ 63 →
    let started := fun (i : Instr) (more : State → Xfer → Prop) => ∃ u x, exec i s = .next u ∧ WentOn u b k.seq ∧
      u.homes.mem = s.homes.mem ∧ (u.blocks[b]?).map (fun q => (q.cntTl, q.xfers)) = some (k.cntTl + 1, k.xfers ++ [x]) ∧ x.row = 0 ∧
      x.faultVa = none ∧ more u x
    let pitch := fun (n : Fin 128) (row : DWord) => if n.val = 0 then row else k.kreg n.val
    let tile := fun (u : State) (o t : Nat) => (u.blocks[o]?).map fun q => q.tile t
    (∀ (t : Fin 64) (m : BitVec 4) (ka kp : Fin 128) (spad baren : Bool) (bar : Fin 16),
      let ts := s.mcastBlocks b k m
      (∀ o ∈ ts, (tile s o t.val).map Tile.takable = some true) → started (.tload g t m ka kp spad baren bar) fun u x =>
        x.kind = .tload ∧ x.targets.map (fun y => (y.1, y.2.1)) = ts.map (fun o => (o, t.val)) ∧ x.spad = spad ∧ x.addr = k.kreg ka.val ∧
        x.pitch = pitch kp 128 ∧ x.bar = (if baren then some bar.val else none) ∧ ∀ o ∈ ts, (tile u o t.val).map (·.state) = some .filling) ∧
    (∀ (t : Fin 64) (ka kp : Fin 128) (spad baren : Bool) (bar : Fin 16),
      let y := k.tile t.val
      y.state = .ready → started (.tstore g t ka kp spad baren bar) fun u x =>
        x.kind = .tstore ∧ x.targets = [(b, t.val, k.gen)] ∧ x.spad = spad ∧ x.addr = k.kreg ka.val ∧ x.pitch = pitch kp 128 ∧
        x.bar = (if baren then some bar.val else none) ∧ tile u b t.val = some { y with state := .draining, holds := y.holds + 1 }) ∧
    (∀ (h : Fin 16), (k.acc h.val).isSome = true → s.bankActive k = true →
      (∀ int (ka kp : Fin 128) spad, spad = true ∨ ((k.kreg ka.val).toNat % 4 = 0 ∧ (pitch kp 256).toNat % 4 = 0) →
        started (.aload g h int ka kp spad) fun _ x => x.kind = .aload ∧ x.handle = h.val ∧ x.spad = spad ∧ x.addr = k.kreg ka.val ∧ x.pitch = pitch kp 256) ∧
      (∀ (ka kp : Fin 128) (spad : Bool) (ty : Ty) (fmt : Byte), started (.astore g h (.rows ka kp spad) ty fmt) fun _ x =>
        x.kind = .astore ∧ x.handle = h.val ∧ x.dtile = false ∧ x.spad = spad ∧ x.addr = k.kreg ka.val ∧ x.ty = ty ∧ x.fmt = fmt ∧
        x.pitch = pitch kp (if ty = .fp32 ∨ ty = .int32 then 256 else 128)) ∧
      ∀ (t : Fin 64) (ty : Ty) (fmt : Byte), (k.tile t.val).takable = true → (k.tile t.val).ty = ty →
        started (.astore g h (.tile t) ty fmt) fun u x => x.kind = .astore ∧ x.handle = h.val ∧ x.dtile = true ∧
          x.targets = [(b, t.val, k.gen)] ∧ x.ty = ty ∧ x.fmt = fmt ∧ (tile u b t.val).map (·.state) = some .filling) ∧
    ∀ (h : Fin 16) (ta tb : TileOp) (ty : Ty) (clr : Bool) (oa ob : Nat) (xa xb : Block) (c : Core),
      s.harvested k ta = false → s.harvested k tb = false → (k.acc h.val).isSome = true → s.mmaBlock b ta = some oa → s.mmaBlock b tb = some ob →
      s.blocks[oa]? = some xa → s.blocks[ob]? = some xb → (xa.tile ta.tile.val).state = .ready → (xb.tile tb.tile.val).state = .ready →
      mmaTypes ty (xa.tile ta.tile.val) (xb.tile tb.tile.val) = true → s.bankActive k = true → s.cores[k.core]? = some c →
      let both := if oa = ob ∧ ta.tile = tb.tile then 2 else 1
      ∃ u, exec (.mma g h ta tb ty clr) s = .next u ∧ WentOn u b k.seq ∧ u.homes.mem = s.homes.mem ∧
        (u.blocks[b]?).map (·.cntTl) = some (k.cntTl + 1) ∧
        (u.cores[k.core]?).map (·.mmas) = some (c.mmas ++ [⟨s.homes.nextId, b, h.val, oa, ta.tile.val, ob, tb.tile.val, ty, clr⟩]) ∧
        (tile u oa ta.tile.val).map (·.holds) = some ((xa.tile ta.tile.val).holds + both) ∧
        (tile u ob tb.tile.val).map (·.holds) = some ((xb.tile tb.tile.val).holds + both)) ∧
  (∀ (s : State) (b n : Nat) (k : Block) (x : Xfer), s.resident? b = some k → k.xfers.find? (fun y => y.id == n) = some x → x.faultVa = none →
    let rowAddr := (x.addr + BitVec.ofNat 64 x.row * x.pitch).toNat
    let row := fun (u : State) => ((u.blocks[b]?).bind fun q => q.xfers.find? fun y => y.id == n).map (·.row)
    let ended := fun (u : State) => u.homes.mem = s.homes.mem ∧
      (u.blocks[b]?).map (fun q => (q.cntTl, q.xfers)) = some (k.cntTl - 1, k.xfers.filter fun y => y.id != n)
    let drained := fun (u : State) => ∀ i y, x.bar = some i → k.bars[i]? = some y →
      ((u.blocks[b]?).bind (·.bars[i]?)).map (·.pending) = some (y.pending - 8192)
    (∀ t pa a code, x.kind = .tload → x.row < 64 → x.spad = false → x.ty ≠ .b8 → x.targets = [(b, t, k.gen)] →
      Plain s (some k.core) (s.ctxOf k) rowAddr 128 .read pa a code → ∃ u, exec (.tloadCompletion b n) s = .next u ∧ u.homes.mem = s.homes.mem ∧
        row u = some (x.row + 1) ∧
        (u.blocks[b]?).map (·.spad) = some (Memory.put k.spad ((k.tile t).offset + 128 * x.row) (Memory.bytes s.homes.mem a 128))) ∧
    (∀ t, x.kind = .tload → 64 ≤ x.row → x.targets = [(b, t, k.gen)] → t < k.tiles.length → ∃ u, exec (.tloadCompletion b n) s = .next u ∧
      ended u ∧ drained u ∧ (u.blocks[b]?).map (fun q => (q.tile t).state) = some .ready) ∧
    (∀ t pa a code, x.kind = .tstore → x.row < 64 → x.spad = false → x.targets = [(b, t, k.gen)] → k.spadPoison = [] →
      (k.tile t).offset + 128 * x.row + 128 ≤ k.spadBytes → Plain s (some k.core) (s.ctxOf k) rowAddr 128 .write pa a code →
      ∃ u, exec (.tstoreCompletion b n) s = .next u ∧ row u = some (x.row + 1) ∧
        Stored s.homes.mem u.homes.mem a (Memory.bytes k.spad ((k.tile t).offset + 128 * x.row) 128)) ∧
    (∀ t, x.kind = .tstore → 64 ≤ x.row → x.targets = [(b, t, k.gen)] → t < k.tiles.length → ∃ u, exec (.tstoreCompletion b n) s = .next u ∧
      ended u ∧ drained u ∧ (u.blocks[b]?).map (fun q => q.tile t) = some { k.tile t with state := .ready, holds := (k.tile t).holds - 1 }) ∧
    (s.accBefore b x.handle n = false →
      let old := s.accWords k x.handle
      (∀ pa a code, x.kind = .aload → x.row < 64 → x.spad = false → (k.acc x.handle).map (·.2) = some x.tag → old.length = 4096 →
        Plain s (some k.core) (s.ctxOf k) rowAddr 256 .read pa a code → ∃ u, exec (.aloadCompletion b n) s = .next u ∧ u.homes.mem = s.homes.mem ∧
          row u = some (x.row + 1) ∧ ∃ k', u.blocks[b]? = some k' ∧ ∀ i, i < 4096 →
            (u.accWords k' x.handle).getD i 0 = if i / 64 = x.row then BitVec.ofNat 32 (Memory.read s.homes.mem (a + 4 * (i % 64)) 4) else old.getD i 0) ∧
      (x.kind = .aload → 64 ≤ x.row → ∃ u, exec (.aloadCompletion b n) s = .next u ∧ ended u) ∧
      (∀ c, x.kind = .aload → (k.acc x.handle).map (·.2) ≠ some x.tag → s.cores[k.core]? = some c → ∃ u,
        exec (.aloadCompletion b n) s = .next u ∧ ended u ∧ (u.cores[k.core]?).map (·.dropcnt) = some (satAdd c.dropcnt 1)) ∧
      (∀ pa a code, x.kind = .astore → x.row < 64 → x.dtile = false → x.spad = false → x.ty = .fp32 ∨ x.ty = .int32 →
        Plain s (some k.core) (s.ctxOf k) rowAddr 256 .write pa a code → ∃ u, exec (.astoreCompletion b n) s = .next u ∧ row u = some (x.row + 1) ∧
          Stored s.homes.mem u.homes.mem a ((accRow old x.row).flatMap fun w => toBytes w.toNat 4)) ∧
      (∀ t, x.kind = .astore → x.row < 64 → x.dtile = true → x.targets = [(b, t, k.gen)] → ∃ u, exec (.astoreCompletion b n) s = .next u ∧
        row u = some (x.row + 1) ∧ (u.blocks[b]?).map (·.spad) = some
          (Memory.put k.spad ((k.tile t).offset + 128 * x.row) (convRow x.ty x.fmt.toNat (accRow old x.row)).1)) ∧
      (x.kind = .astore → 64 ≤ x.row → x.dtile = false → ∃ u, exec (.astoreCompletion b n) s = .next u ∧ ended u)))

/-- An integer MMA's element is the accumulator plus the 128 products of its row and column, signed or unsigned as each tile's type
says, kept to 32 bits (06 R174, R175; 14 R411). A matrix unit requests a grant for the MMA at its queue's head; a step grants
the oldest request of the die, ties to the lower logical core, its start under the table in force, and advances a running unit; the MMA
that has done its MACs retires with its result and its counts, its read holds fall, and so does CNT.TL; a bank switch drains, takes 64
cycles, and turns to the other bank (14 R412, R413, R415, R416; 08 R240). -/
def Obligations.MatrixUnits : Prop :=
  (∀ (x : MmaTiles) (i j acc : Nat),
    let rd := fun (k : Block) (t : Tile) (n : Nat) =>
      let v := Memory.get k.spad (t.offset + n)
      if t.ty = .int8 then v.toInt else (v.toNat : Int)
    (x.elem .int8 i j acc).1 = (BitVec.ofInt 32 ((acc : Int) + ((List.range 128).map fun n => rd x.a x.ta (128 * i + n) * rd x.b x.tb (128 * j + n)).sum)).toNat) ∧
  ((∀ (s : State) (c : Nat) (cr : Core) (m : Mma) (rest : List Mma) (k : Block), s.cores[c]? = some cr → cr.unit = .idle → cr.mmas = m :: rest →
    s.blocks[m.blk]? = some k → k.halt = none → s.mmaFmtBad m = false → s.accBefore m.blk m.handle m.id = false →
    exec (.startGrantRequest c) s = .next (s.modCore c fun x => { x with unit := .requesting s.cycle })) ∧
  (∀ (s : State) (die c : Nat) (cr : Core), die < 8 → s.cores[c]? = some cr → c / 36 = die → s.cores.length = 288 →
    (∀ c', c' ≠ c → c' / 36 = die → (s.cores[c']?).map (·.unit) = some .idle) →
    (s.cycle % 4 ≠ 0 → exec (.barchanStep die) s = .next s) ∧
    (s.cycle % 4 = 0 → s.barchan.getD die 0 ≤ s.cycle / 4 →
      (∀ m rest k at', cr.unit = .requesting at' → cr.mmas = m :: rest → s.blocks[m.blk]? = some k → k.halt = none → s.mmaFmtBad m = false →
        s.accBefore m.blk m.handle m.id = false → ∃ u, exec (.barchanStep die) s = .next u ∧
          u.cores[c]? = some { cr with unit := .active 0 0, ramp := s.regs.ramps.getD die 0 } ∧ u.barchan = s.barchan.set die (s.cycle / 4 + 1)) ∧
      (∀ step work, cr.unit = .active step work → work < fullWork → ∃ u, exec (.barchanStep die) s = .next u ∧
        u.cores[c]? = some { cr with unit := .active (step + 1) (work + s.stepDone c (startActivity cr.ramp step)) }))) ∧
  (∀ (s : State) (die c at' : Nat) (cr : Core), die < 8 → c / 36 = die → s.cores[c]? = some cr → s.cycle % 4 = 0 →
    s.barchan.getD die 0 ≤ s.cycle / 4 →
    let waits := fun (c' t : Nat) => ∃ x m rest k, s.cores[c']? = some x ∧ x.unit = .requesting t ∧ x.mmas = m :: rest ∧
      s.blocks[m.blk]? = some k ∧ k.halt = none ∧ s.mmaFmtBad m = false ∧ s.accBefore m.blk m.handle m.id = false
    waits c at' →
    (∀ c', c' ≠ c → c' / 36 = die → (s.cores[c']?).map (·.unit) = some .idle ∨
      ∃ t, waits c' t ∧ (at' < t ∨ (at' = t ∧ s.logical c < s.logical c'))) →
    ∃ u, exec (.barchanStep die) s = .next u ∧ u.cores = s.cores.set c { cr with unit := .active 0 0, ramp := s.regs.ramps.getD die 0 } ∧
      u.barchan = s.barchan.set die (s.cycle / 4 + 1)) ∧
  (∀ (s : State) (c i step work : Nat) (cr : Core) (m : Mma) (k : Block) (x : MmaTiles) (tag : BitVec 4) (bk : Bank) (y : AccTile),
    s.cores[c]? = some cr → cr.unit = .active step work → fullWork ≤ work → cr.mmas = [m] → s.blocks[m.blk]? = some k → k.core = c →
    s.mmaTiles m = some x → k.acc m.handle = some (i, tag) → cr.banks[k.bank]? = some bk → bk.tiles[i]? = some y →
    let r := x.run m.ty (if m.clr then List.replicate 4096 0 else y.words)
    ∃ u c', exec (.mmaRetire c) s = .next u ∧ u.homes = s.homes ∧ u.cores[c]? = some c' ∧ c'.mmas = [] ∧
      ((c'.banks[k.bank]?).bind (·.tiles[i]?)).map (·.words) = some r.1 ∧
      (let both := if m.aBlk = m.bBlk ∧ m.aTile = m.bTile then 2 else 1
       (u.blocks[m.aBlk]?).map (fun q => (q.tile m.aTile).holds) = some (x.ta.holds - both) ∧
       (u.blocks[m.bBlk]?).map (fun q => (q.tile m.bTile).holds) = some (x.tb.holds - both)) ∧
      ∃ k', u.blocks[m.blk]? = some k' ∧ k'.cntTl = k.cntTl - 1 ∧ k'.mxnan = satAdd k.mxnan r.2.1 ∧ k'.mxinf = satAdd k.mxinf r.2.2.1 ∧
        k'.mxovf = satAdd k.mxovf r.2.2.2) ∧
  ∀ (s : State) (c : Nat) (cr : Core), s.cores[c]? = some cr →
    (cr.switching = none → s.anyReady c cr.active = false → s.anyReady c (1 - cr.active) = true → exec (.bankSwitch c) s =
      .next (s.modCore c fun x => { x with switching := some (if s.bankDrained c cr.active then s.cycle + 64 else 0) })) ∧
    (cr.switching = some 0 → exec (.bankSwitch c) s =
      .next (s.modCore c fun x => { x with switching := some (if s.bankDrained c cr.active then s.cycle + 64 else 0) })) ∧
    (∀ d, cr.switching = some d → s.cycle < d → exec (.bankSwitch c) s = .next s) ∧
    ∀ d, cr.switching = some d → d ≠ 0 → d ≤ s.cycle → exec (.bankSwitch c) s =
      .next (s.modCore c fun x => { x with active := 1 - cr.active, switching := none }))

/-! ### Engines -/

/-- The copy commands capture their K registers, take a slot and count in CNT.CP, and no byte moves yet; CPYEC captures its table. A
descriptor outside its limits raises COPY_DESC, for CPYQ one with DSP, EVICT or BAREN as well (log 85), a scratchpad range outside its
window SPAD_BOUNDS, and with no free slot the sequencer waits (12 R346–R351). A copy whose bytes are all done subtracts its programmed
total from its barrier, lowers CNT.CP and frees its slot; CPYCAN lets the units in flight complete and issues no other, then ends the
selected copies so, and writes the bytes they had left to its K register (12 R347, R352). -/
def Obligations.CopyCommands : Prop :=
  (∀ (s : State) (b : Nat) (k : Block) (a : CpyArgs),
    let v := a.desc.toNat
    let x := a.aux.toNat
    let len := v % 2 ^ 32
    let rows := v / 2 ^ 40 % 2 ^ 16
    let elem := [4, 8, 16, 64].getD (v / 2 ^ 56 % 4) 4
    let gs := a.op = 0xE0 ∨ a.op = 0xE1
    (a.descOk = true ↔ 4 ≤ len ∧ len ≤ 2 ^ 31 ∧ (∀ y ∈ [len, a.src.toNat, a.dst.toNat], y % (if a.b8 then 64 else 4) = 0) ∧
      v / 2 ^ 32 % 4 ≤ 1 ∧ v / 2 ^ 34 % 4 ≤ 2 ∧ v / 2 ^ 63 = 0 ∧ (a.op ≠ 0xDF → rows = 0) ∧ (¬ gs → v / 2 ^ 56 % 4 = 0) ∧ (gs → len % elem = 0) ∧
      (a.op ≠ 0xE3 → v / 2 ^ 58 % 2 ^ 5 = 0) ∧ (a.op = 0xDF → x % 2 ^ 32 % 4 = 0 ∧ x / 2 ^ 32 % 4 = 0) ∧ (gs → x / 2 ^ 32 = 0 ∧ x % 4 = 0) ∧
      (a.op = 0xE2 → v / 2 ^ 34 % 2 ^ 6 = 0) ∧ (a.op = 0xE3 → v / 2 ^ 32 % 4 = 0 ∧ v / 2 ^ 34 % 4 ≠ 1 ∧ a.src.toNat % 16 = 0)) ∧
    let count : Nat := if a.op = 0xDF then rows + 1 else 1
    let inside := fun (base : DWord) (j : Nat) => ∀ r, r < count →
      s.spadTarget b (base + BitVec.ofInt 64 ((r : Int) * if a.op = 0xDF then sval 32 (x / 2 ^ (32 * j) % 2 ^ 32) else 0)).toNat len ≠ none
    (s.cpyRanges b k a = none ↔ (a.op ≠ 0xE0 → v / 2 ^ 32 % 4 = 1 → inside a.src 0) ∧ (a.op ≠ 0xE1 → v / 2 ^ 34 % 4 = 1 → inside a.dst 1) ∧
      (gs → x % 2 ^ 32 + 4 * (len / elem) ≤ k.spadBytes))) ∧
  (∀ (i : Instr) (s : State) (b : Nat) (k : Block) (g : Guard) (a : CpyArgs), SeqRuns s b k g → copyForm k i = some (g, a) →
    let len := a.desc.toNat % 2 ^ 32
    let q := k.queue a.bq
    let queueOk := a.op = 0xE2 → q.carved = true ∧ len % q.esz = 0
    let started := fun (table : List (DWord × Byte)) => ∃ u id, exec i s = .next u ∧ WentOn u b k.seq ∧ u.homes.mem = s.homes.mem ∧
      (u.blocks[b]?).map (fun q => (q.cntCp, q.copies)) = some (k.cntCp + 1, k.copies ++
        [⟨id, a.op, 1, a.bq, a.desc.getLsbD 39, a.b8, k.copySeq, a.src, a.dst, a.desc, a.aux, 0, 0, table, q.tag, none⟩])
    let room := s.slotsUsed k.core < 32 ∧ k.cntCp ≠ 63
    (a.descOk = true → queueOk → s.cpyRanges b k a = none →
      (room → a.op ≠ 0xE3 → started []) ∧
      (¬ room → exec i s = .next s) ∧
      ∀ pa at' code, room → a.op = 0xE3 →
        let n := a.desc.toNat / 2 ^ 59 % 16 + 1
        Plain s (some k.core) (s.ctxOf k) a.src.toNat (16 * n) .read pa at' code →
        (∀ j, j < n → Memory.read s.homes.mem (at' + 16 * j) 4 % 4 = 0 ∧ Memory.read s.homes.mem (at' + 16 * j + 9) 7 = 0) →
        started ((List.range n).map fun j =>
          (BitVec.ofNat 64 (Memory.read s.homes.mem (at' + 16 * j) 8), Memory.get s.homes.mem (at' + 16 * j + 8)))) ∧
    (k.halt = none →
      (a.descOk = false → HaltsWith i s b 0x17) ∧
      (a.descOk = true → a.op = 0xE2 → q.carved = false → HaltsWith i s b 0x15) ∧
      (a.descOk = true → a.op = 0xE2 → q.carved = true → len % q.esz ≠ 0 → HaltsWith i s b 0x17) ∧
      ∀ x, a.descOk = true → queueOk → s.cpyRanges b k a = some x → HaltsWith i s b 0x11)) ∧
  ((∀ (s : State) (b n : Nat) (k : Block) (c : Copy), Works s b k → s.copy? b n = some c → c.state ≠ 2 → c.state ≠ 4 →
    let d := CpyDesc.of c.desc
    let total := if c.op = 0xDF then d.len * (d.rows + 1) else d.len
    (c.done < total → exec (.copyCompletion b n) s = .next s) ∧
    (total ≤ c.done → ∃ u, exec (.copyCompletion b n) s = .next u ∧ u.homes = s.homes ∧
      (u.blocks[b]?).map (fun q => (q.cntCp, q.copies)) = some (k.cntCp - 1, k.copies.filter fun x => x.id != n) ∧
      ∀ y, k.bars[c.bq]? = some y → ((u.blocks[b]?).bind (·.bars[c.bq]?)).map (·.pending) =
        some (if c.baren then y.pending - BitVec.ofNat 64 total else y.pending))) ∧
  ∀ (s : State) (b : Nat) (k : Block) (g : Guard) (kd : Fin 128) (all : Bool) (bar : Fin 16), SeqRuns s b k g → (k.copies.map (·.id)).Nodup →
    let sel := fun (c : Copy) => all || (c.baren && c.bq == bar.val)
    let total := fun (c : Copy) => if c.op = 0xDF then (CpyDesc.of c.desc).len * ((CpyDesc.of c.desc).rows + 1) else (CpyDesc.of c.desc).len
    let left := ((k.copies.filter sel).map fun c => total c - c.done).sum
    ((∀ c ∈ k.copies, sel c = true → s.copyBusy b c = false) →
      ∃ u k', exec (.cpycan g kd all bar) s = .next u ∧ WentOn u b k.seq ∧ u.homes.mem = s.homes.mem ∧ u.blocks[b]? = some k' ∧
        k'.cntCp = k.cntCp - (k.copies.filter sel).length ∧ k'.copies = k.copies.filter (fun c => !sel c) ∧
        k'.k = if kd.val = 0 then k.k else k.k.set kd.val (BitVec.ofNat 64 left)) ∧
    ((∃ c ∈ k.copies, sel c = true ∧ s.copyBusy b c = true) →
      exec (.cpycan g kd all bar) s = .next (s.modBlock b fun k => { k with
        copies := k.copies.map fun c => if sel c && c.state != 2 then { c with state := 4 } else c })))

/-- A unit of a copy moves its bytes, each destination byte the source's, and DONE rises by as many: CPY at most up to a destination line,
CPYA within its row, CPYG and CPYS one element at its index, CPYQ one entry into its queue, CPYEC the sum over GF(2^8) of its sources,
XORed into the word under ACCUM. No other byte changes. With TYPE 3 the bytes before a block with a reserved FMT are written, and the
block halts with BLOCK_FORMAT, wherever the destination's lines cut the source's blocks (12 R347–R351). An entry for a carve that is gone
is dropped (04 R120). -/
def Obligations.CopyUnits : Prop :=
  ∀ (s : State) (b n : Nat) (k : Block) (c : Copy), Works s b k → s.copy? b n = some c → c.state ≠ 2 → c.state ≠ 4 → c.hold = none →
    let d := CpyDesc.of c.desc
    let total := if c.op = 0xDF then d.len * (d.rows + 1) else d.len
    let ctx := s.ctxOf k
    let mem := s.homes.mem
    let did := fun (u : State) (m : Nat) => ((u.blocks[b]?).bind fun q => q.copies.find? fun x => x.id == n).map (fun x => (x.done, x.state)) = some (c.done + m, 1)
    let plus := fun (x : DWord) (m : Nat) => (x + BitVec.ofNat 64 m).toNat
    let index := fun (m : Nat) => Memory.read k.spad (c.aux.toNat % 2 ^ 32 + 4 * m) 4
    let word := fun (j : Nat) (v : Nat) => (sval 32 (c.aux.toNat / 2 ^ (32 * j)) * v : Int)
    let core := some k.core
    let after := s.translated (s.copyEng b c false)
    let moves := fun (src dst m : Nat) =>
      (∀ pa a code pa' a' code', d.ssp = 0 → d.dsp = 0 → c.b8 = false → Plain s core ctx src m .read pa a code →
        Plain s core ctx dst m .write pa' a' code' → Plain (after [(src, m)]) core ctx dst m .write pa' a' code' →
        ∃ u, exec (.copyUnit b n) s = .next u ∧ did u m ∧ Stored mem u.homes.mem a' (Memory.bytes mem a m)) ∧
      (∀ pa a code pa' a' code', d.ssp = 0 → d.dsp = 0 → c.b8 = true → Plain s core ctx src m .read pa a code →
        Plain s core ctx dst m .write pa' a' code' → Plain (after [(src, m)]) core ctx dst m .write pa' a' code' →
        let bad := fun (i : Nat) => i < m ∧ (c.done + i) % 64 = 0 ∧ bfmt (Memory.get mem (a + i)).toNat = none
        ((∀ i, ¬ bad i) → ∃ u, exec (.copyUnit b n) s = .next u ∧ did u m ∧ Stored mem u.homes.mem a' (Memory.bytes mem a m)) ∧
        ∀ i, bad i → (∀ j, j < i → ¬ bad j) → ∃ u, exec (.copyUnit b n) s = .next u ∧
          (u.blocks[b]?).bind (fun x => x.halt.map (·.code)) = some 0x0C ∧ Stored mem u.homes.mem a' (Memory.bytes mem a i)) ∧
      ∀ pa a code off, d.ssp = 0 → d.dsp = 1 → c.b8 = false → Plain s core ctx src m .read pa a code → s.spadTarget b dst m = some (b, off) → dst % 128 + m ≤ 128 →
        ∃ u, exec (.copyUnit b n) s = .next u ∧ did u m ∧ u.homes.mem = mem ∧
          (u.blocks[b]?).map (·.spad) = some (Memory.put k.spad off (Memory.bytes mem a m))
    c.done < total →
    (c.op = 0xDE → let dst := plus c.dst c.done; moves (plus c.src c.done) dst (min (d.len - c.done) (128 - dst % 128))) ∧
    (c.op = 0xDF → d.len ≠ 0 →
      let row := c.done / d.len
      let off := c.done % d.len
      let src := (c.src + BitVec.ofInt 64 (word 0 row + off)).toNat
      let dst := (c.dst + BitVec.ofInt 64 (word 1 row + off)).toNat
      moves src dst (min (d.len - off) (128 - dst % 128))) ∧
    (c.op = 0xE0 → k.spadPoison = [] → moves (plus c.src (index (c.done / d.elem) * d.elem)) (plus c.dst c.done) d.elem) ∧
    (c.op = 0xE1 → k.spadPoison = [] → moves (plus c.src c.done) (plus c.dst (index (c.done / d.elem) * d.elem)) d.elem) ∧
    (c.op = 0xE2 →
      let q := k.queue c.bq
      let w := 4 * 2 ^ q.width
      (q.carved = true → q.closed = false → q.count < q.cap → d.ssp = 0 → ∀ pa a code, Plain s core ctx (plus c.src c.done) q.esz .read pa a code →
        ∃ u, exec (.copyUnit b n) s = .next u ∧ did u q.esz ∧ u.homes.mem = mem ∧
          let k' := if q.tag = c.qtag then k.push c.bq ((List.range q.elems).map fun j => Memory.read mem (a + w * j) w) else k
          (u.blocks[b]?).map (fun x => (x.queues, x.spad)) = some (k'.queues, k'.spad)) ∧
      (q.carved = true → q.closed = true → HaltsWith (.copyUnit b n) s b 0x15) ∧
      (q.carved = true → q.closed = false → q.cap ≤ q.count → s.asking (copyWho b c) = false → ∃ u, exec (.copyUnit b n) s = .next u ∧ u.homes = s.homes ∧
        ((u.blocks[b]?).bind fun q => q.copies.find? fun x => x.id == n).map (fun x => (x.done, x.state)) = some (c.done, 3))) ∧
    (c.op = 0xE3 → d.dsp = 0 → ∀ (pa' a' : Nat) (code' : Bool) (at' : Nat → Nat) (paOf : Nat → Nat) (codeOf : Nat → Bool),
      let dst := plus c.dst c.done
      let m := if d.accum then 4 else min (d.len - c.done) (128 - dst % 128)
      let sum := fun (i : Nat) => (c.table.zipIdx).foldl (fun v e => v ^^^ gmul e.1.2.toNat (Memory.get mem (at' e.2 + i)).toNat) 0
      let before := fun (j : Nat) => after ((c.table.take j).map fun e => (plus e.1 c.done, m))
      dst % 4 = 0 → Plain s core ctx dst m .write pa' a' code' → Plain (before c.table.length) core ctx dst m .write pa' a' code' →
      (∀ e ∈ c.table.zipIdx, Plain (before e.2) core ctx (plus e.1.1 c.done) m .read (paOf e.2) (at' e.2) (codeOf e.2)) →
      ∃ u, exec (.copyUnit b n) s = .next u ∧ did u m ∧ Stored mem u.homes.mem a' ((List.range m).map fun i =>
        BitVec.ofNat 8 ((if d.accum then (Memory.get mem (a' + i)).toNat else 0) ^^^ sum i)))

/-- QCFG carves an empty queue at its offset, and QREL releases one and advances its tag; a carve of a carved queue, beyond MAXQ, off its
alignment, outside the window or over another queue raises QUEUE_STATE, and so does the release of one that is not carved or is in use, or
that threads wait on (12 R320–R322). STRM reads its table row and its program and binds a running stream, once the program keeps the rules
of its header, its dimensions and its tile (12 R336, R337, R340) and its queue or tile can serve it; a stream bound already, a row past
the table or a bad program raises STREAM_PROG; with 16 contexts in use the sequencer waits; STRMSTOP lets the element in flight complete,
unbinds the stream and empties its tile (12 R338–R340, R343). -/
def Obligations.CarvesAndStreams : Prop :=
  (∀ (prog : List DWord) (base : DWord) (tile : Nat),
    let h := (prog.headD 0).toNat
    let dir := h % 4
    let path := h / 2 ^ 5 % 4
    let size := 2 ^ (h / 2 ^ 2 % 8)
    progOk prog base tile = true ↔ dir ≠ 3 ∧ h / 2 ^ 2 % 8 ≤ 4 ∧ path ≠ 3 ∧ (path = 1 → dir ≠ 1) ∧ (path = 2 → dir = 1) ∧
      (dir = 2 → h / 2 ^ 12 % 16 = 0) ∧ h / 2 ^ 16 % 2 ^ 7 ≠ 0 ∧ (h / 2 ^ 28 % 2 = 1 → dir = 0) ∧ h / 2 ^ 29 = 0 ∧
      (∀ w ∈ prog.drop 1, w.toNat % 2 ^ 32 ≠ 0 ∧ w.toNat / 2 ^ 32 % size = 0) ∧ base.toNat % size = 0 ∧
      (dir = 2 → ((prog.drop 1).map fun w => w.toNat % 2 ^ 32).foldl (· * ·) 1 * size ≤ 8192) ∧ (dir ≠ 2 → tile = 0)) ∧
  (∀ (s : State) (b : Nat) (k : Block) (g : Guard) (q : Fin 16) (c : Carve), SeqRuns s b k g → k.queues[q.val]? = some c →
    let sets := fun (i : Instr) (x : Carve) => ∃ u, exec i s = .next u ∧ SeqDid s u (s.modBlock b fun k => { k with queues := k.queues.set q.val x }) b
    (∀ (ka : Fin 128) (row : Bool) (width : Fin 3) (cap : BitVec 16),
      let off := (k.kreg ka.val).toNat
      let size := fun (x : Carve) => x.cap * ((if x.row then 8 else 1) * (4 * 2 ^ x.width))
      let x : Carve := ⟨true, off, cap.toNat, 0, 0, row, width.val, false, 0, 0, c.tag⟩
      let free := c.carved = false ∧ countp k.queues (·.carved) < ((s.launch? k).map (·.lrec.maxq)).getD 16 ∧ off % 64 = 0 ∧
        off + size x ≤ k.spadBytes ∧ ∀ y ∈ k.queues, y.carved = true → y.offset + size y ≤ off ∨ off + size x ≤ y.offset
      (free → sets (.qcfg g q ka row width cap) x) ∧ (¬ free → k.halt = none → HaltsWith (.qcfg g q ka row width cap) s b 0x15)) ∧
    let waits := ∃ th ∈ k.threads, th.status = .parked (.queue q.val)
    (c.carved = true → k.queueUsed q.val = false → ¬ waits → sets (.qrel g q) ⟨false, 0, 0, 0, 0, false, 0, false, 0, 0, c.tag + 1⟩) ∧
    (k.halt = none → c.carved = false ∨ k.queueUsed q.val = true ∨ waits → HaltsWith (.qrel g q) s b 0x15)) ∧
  (∀ (s : State) (b : Nat) (k : Block) (g : Guard) (sh : Fin 16) (t : Fin 64) (pidx : BitVec 16) (l : Launch), SeqRuns s b k g →
    s.launch? k = some l → sh.val < k.streams.length →
    let row := l.lrec.code + l.hdr.soff + 16 * pidx.toNat
    (k.halt = none → l.hdr.scount ≤ pidx.toNat ∨ (k.streams[sh.val]?).join ≠ none → HaltsWith (.strm g t pidx sh) s b 0x16) ∧
    (pidx.toNat < l.hdr.scount → (k.streams[sh.val]?).join = none → ∀ pa a code pa' a' code', Plain s (some k.core) (s.ctxOf k) row 16 .read pa a code →
      let off := Memory.read s.homes.mem a 8
      let len := Memory.read s.homes.mem (a + 8) 8
      len ∈ [16, 24, 32, 40] →
      Plain (s.translated (s.seqEng b) [(row, 16)]) (some k.core) (s.ctxOf k) (l.lrec.code + off) len .read pa' a' code' →
      let prog := (List.range (len / 8)).map fun j => BitVec.ofNat 64 (Memory.read s.homes.mem (a' + 8 * j) 8)
      let h := (prog.headD 0).toNat
      let base := k.kreg (h / 2 ^ 16 % 2 ^ 7)
      let q := k.queue (h / 2 ^ 12 % 16)
      let tile := k.tile t.val
      prog.length = h / 2 ^ 10 % 4 + 2 →
      (k.halt = none → progOk prog base t.val = false → HaltsWith (.strm g t pidx sh) s b 0x16) ∧
      (k.halt = none → progOk prog base t.val = true → h % 4 ≠ 2 → q.carved = false → HaltsWith (.strm g t pidx sh) s b 0x15) ∧
      (progOk prog base t.val = true → (h % 4 ≠ 2 → q.carved = true ∧ 2 ^ (h / 4 % 8) ≤ 4 * 2 ^ q.width) →
        (h % 4 = 2 → tile.state = .empty ∨ tile.state = .ready) →
        (16 ≤ s.contextsUsed k.core → ∃ u, exec (.strm g t pidx sh) s = .next u ∧ u.blocks = s.blocks) ∧
        (s.contextsUsed k.core < 16 → (h % 4 = 2 → tile.holds = 0 ∧ t.val < k.tiles.length) →
          ∃ u, exec (.strm g t pidx sh) s = .next u ∧ WentOn u b k.seq ∧ u.homes.mem = s.homes.mem ∧
          (u.blocks[b]?).map (·.streams) = some (k.streams.set sh.val (some ⟨pidx.toNat, 1, t.val, base, 0, 0, prog, [], q.tag, k.gen⟩)) ∧
          (h % 4 = 2 → (u.blocks[b]?).map (fun x => (x.tile t.val).state) = some .filling)))) ∧
    ((k.streams[sh.val]?).join = none → ∃ u, exec (.strmstop g sh) s = .next u ∧ SeqDid s u s b) ∧
    ∀ x, (k.streams[sh.val]?).join = some x →
      (s.strmBusy b sh.val x = true → exec (.strmstop g sh) s = .next (s.modStream b sh.val fun x => { x with state := 4 })) ∧
      (s.strmBusy b sh.val x = false → ∃ u, exec (.strmstop g sh) s = .next u ∧ WentOn u b k.seq ∧ u.homes.mem = s.homes.mem ∧
        (u.blocks[b]?).map (·.streams) = some (k.streams.set sh.val none) ∧
        ((x.prog.headD 0).toNat % 4 = 2 → x.tile < k.tiles.length → (u.blocks[b]?).map (fun y => (y.tile x.tile).state) = some .empty)))

/-- A running stream moves the element it is at: LOAD pushes it (in ROW mode with its row), STORE writes the next popped one's low
bytes, TILE writes it into its tile; the address is base plus each index times its stride, dimension 0 fastest; a full or empty
queue makes it wait, a push to a closed one halts the block, and so does a STORE stream's entry in a poisoned line (12 R337, R341, R344; 09
R263). A stream whose elements are done, or a
STORE stream on a closed and empty queue, reports and is unbound: CLOSE closes its queue, TILE makes its tile READY, BAREN
subtracts its programmed bytes; before that nothing happens. QUEUE_DEADLOCK halts the block once its condition has held for
4,096 cycles (12 R342, R331). -/
def Obligations.StreamProgress : Prop :=
  (∀ (s : State) (b : Nat) (sh : Fin 16) (k : Block) (x : Stream), Works s b k → (k.streams[sh.val]?).join = some x → x.state ≠ 2 → x.state ≠ 4 →
    let ws := x.prog.drop 1
    let cnt := fun (d : Nat) => (ws.getD d 0).toNat % 2 ^ 32
    let idx := fun (d : Nat) => x.done / ((List.range d).map cnt).foldl (· * ·) 1 % cnt d
    let at' := (x.base + BitVec.ofInt 64 ((List.range ws.length).map fun d => (idx d : Int) * sval 32 ((ws.getD d 0).toNat / 2 ^ 32)).sum).toNat
    let h := (x.prog.headD 0).toNat
    let size := 2 ^ (h / 4 % 8)
    let total := ((List.range ws.length).map cnt).foldl (· * ·) 1
    let qn := h / 2 ^ 12 % 16
    let q := k.queue qn
    let mem := s.homes.mem
    let str := fun (u : State) => ((u.blocks[b]?).bind (·.streams[sh.val]?)).join
    let ends := x.buf.length + 1 = min 8 (total - x.done / 8 * 8)
    (∀ d, d < ws.length → cnt d ≠ 0) → x.done < total →
    (h % 4 = 0 →
      (q.closed = true → q.row = false ∨ ends → HaltsWith (.streamElement b sh) s b 0x15) ∧
      (q.closed = false → q.row = false ∨ ends → q.cap ≤ q.count → s.asking [2, b, sh.val] = false → ∃ u, exec (.streamElement b sh) s = .next u ∧ u.homes = s.homes ∧
        str u = some { x with state := 3 }) ∧
      (∀ pa a code, q.closed = false ∨ (q.row = true ∧ ¬ ends) → Plain s (some k.core) (s.ctxOf k) at' size .read pa a code →
        let v := Memory.read mem a size
        (q.row = false → q.count < q.cap → q.tag = x.qtag → x.buf = [] → ∃ u, exec (.streamElement b sh) s = .next u ∧ u.homes.mem = mem ∧
          str u = some { x with done := x.done + 1, state := 1 } ∧
          (u.blocks[b]?).map (fun y => (y.queues, y.spad)) = some ((k.push qn [v % 2 ^ 128]).queues, (k.push qn [v % 2 ^ 128]).spad)) ∧
        (q.row = true → ¬ ends → ∃ u, exec (.streamElement b sh) s = .next u ∧ u.homes.mem = mem ∧
          str u = some { x with done := x.done + 1, state := 1, buf := x.buf ++ [BitVec.ofNat 128 v] } ∧
          (u.blocks[b]?).map (fun y => (y.queues, y.spad)) = some (k.queues, k.spad)) ∧
        (q.row = true → ends → q.count < q.cap → q.tag = x.qtag → ∃ u, exec (.streamElement b sh) s = .next u ∧ u.homes.mem = mem ∧
          str u = some { x with done := x.done + 1, state := 1, buf := [] } ∧
          let k' := k.push qn (((x.buf ++ [BitVec.ofNat 128 v]).map BitVec.toNat ++ List.replicate 8 0).take 8)
          (u.blocks[b]?).map (fun y => (y.queues, y.spad)) = some (k'.queues, k'.spad)) ∧
        (q.row = false ∨ ends → q.count < q.cap → q.tag ≠ x.qtag → ∃ u, exec (.streamElement b sh) s = .next u ∧ u.homes.mem = mem ∧
          str u = some { x with done := x.done + 1, state := 1, buf := [] } ∧
          (u.blocks[b]?).map (fun y => (y.queues, y.spad)) = some (k.queues, k.spad)))) ∧
    (h % 4 = 1 → h / 2 ^ 5 % 4 ≠ 2 → ∀ pa a code, Plain s (some k.core) (s.ctxOf k) at' size .write pa a code →
      let left := fun (l : List QWord) => if x.done + 1 = total then [] else l
      (x.buf = [] → q.count = 0 → ∃ u, exec (.streamElement b sh) s = .next u ∧ u.homes = s.homes ∧ str u = some { x with state := 3 }) ∧
      (x.buf = [] → 0 < q.count → k.headPoison qn = true → HaltsWith (.streamElement b sh) s b 0x12) ∧
      (x.buf = [] → 0 < q.count → k.headPoison qn = false →
        let r := k.pop qn
        ∃ u, exec (.streamElement b sh) s = .next u ∧ Stored mem u.homes.mem a (toBytes (r.2.headD 0 % 2 ^ 128) size) ∧
          str u = some { x with done := x.done + 1, state := 1, buf := left ((r.2.map (BitVec.ofNat 128)).drop 1) } ∧
          (u.blocks[b]?).map (fun y => (y.queues, y.spad)) = some (r.1.queues, r.1.spad)) ∧
      ∀ v rest, x.buf = v :: rest → ∃ u, exec (.streamElement b sh) s = .next u ∧ Stored mem u.homes.mem a (toBytes v.toNat size) ∧
        str u = some { x with done := x.done + 1, state := 1, buf := left rest } ∧ (u.blocks[b]?).map (·.queues) = some k.queues) ∧
    (h % 4 = 2 → ∀ pa a code, Plain s (some k.core) (s.ctxOf k) at' size .read pa a code → ∃ u, exec (.streamElement b sh) s = .next u ∧ u.homes.mem = mem ∧
      str u = some { x with done := x.done + 1, state := 1 } ∧
      (u.blocks[b]?).map (·.spad) = some (Memory.put k.spad ((k.tile x.tile).offset + x.done * size) (Memory.bytes mem a size)))) ∧
  ((∀ (s : State) (b : Nat) (sh : Fin 16) (k : Block) (x : Stream), Works s b k → (k.streams[sh.val]?).join = some x → x.state ≠ 2 → x.state ≠ 4 →
    let h := (x.prog.headD 0).toNat
    let total := ((x.prog.drop 1).map fun (w : DWord) => w.toNat % 2 ^ 32).foldl (· * ·) 1
    let q := k.queue (h / 2 ^ 12 % 16)
    let ended := total ≤ x.done ∨ (h % 4 = 1 ∧ x.buf = [] ∧ q.closed = true ∧ q.count = 0)
    (¬ ended → exec (.streamFinish b sh) s = .next s) ∧
    (ended → ∃ u, exec (.streamFinish b sh) s = .next u ∧ u.homes.mem = s.homes.mem ∧
      (u.blocks[b]?).map (·.streams) = some (k.streams.set sh.val none) ∧
      (u.blocks[b]?).map (·.queues) = some (if h % 4 = 0 ∧ h / 2 ^ 28 % 2 = 1 then k.queues.modify (h / 2 ^ 12 % 16) fun c => { c with closed := true } else k.queues) ∧
      (h % 4 = 2 → x.gen = k.gen → x.tile < k.tiles.length → (u.blocks[b]?).map (fun y => (y.tile x.tile).state) = some .ready) ∧
      ∀ i y, i = h / 2 ^ 23 % 16 → k.bars[i]? = some y → ((u.blocks[b]?).bind (·.bars[i]?)).map (·.pending) =
        some (if h / 2 ^ 27 % 2 = 1 then y.pending - BitVec.ofNat 64 (total * 2 ^ (h / 4 % 8)) else y.pending))) ∧
  ∀ (s : State) (b : Nat) (k : Block) (c : Nat), s.resident? b = some k → k.halt = none → k.queueDeadSince = some c →
    (s.queueStuck k = true → c + 4096 ≤ s.cycle → HaltsWith (.queueDeadlock b) s b 0x0A) ∧
    (s.queueStuck k = false ∨ s.cycle < c + 4096 → exec (.queueDeadlock b) s = .next s) ∧
    let live := fun (t : Nat) (th : Thread) => k.threads[t]? = some th ∧ th.status ≠ .exited
    (s.queueStuck k = true ↔
      ((∀ t th, live t th → ((∃ p, th.status = .parked p) ∨ th.status = .exiting ∨ s.waitsOctet k t th = true) ∧
          ∀ n i c v a m, th.status ∉ [.parked (.sleep n), .parked (.syscall i c v), .parked (.replay a), .parked (.grow m)]) ∧
        (∃ t th q, live t th ∧ th.status = .parked (.queue q)) ∧
        (k.seq.ended = true ∨ ∃ i p, k.seq.wait = .barrier i p ∨ k.seq.wait = .cbar p) ∧ k.cntCp = 0 ∧
        ∀ x, some x ∈ k.streams → x.atEnd k = true ∨ x.stuck k = true) ∨
      (∀ t th, ¬ live t th) ∧ k.seq.ended = true ∧ ∃ x, some x ∈ k.streams ∧ x.stuck k = true))

/-- LAUNCH reads its record and hands it on: a valid one becomes a child launch under its parent's queue and context, at a priority
capped at its parent's, or opens or joins a window of children that may be merged; an invalid one faults nothing; a record off its
alignment raises MISALIGNED (14 R417; 13 R387, R388). That a window takes children of one command queue is the model's choice (log
41). -/
def Obligations.ChildLaunch : Prop :=
  ∀ (s : State) (b : Nat) (k : Block) (g : Guard) (ka : Fin 128) (imm : BitVec 32) (p : Launch), SeqRuns s b k g → s.launch? k = some p →
    let va := (k.kreg ka.val + imm.signExtend 64).toNat
    (va % 64 ≠ 0 → k.halt = none → HaltsWith (.launch g ka imm) s b 0x14) ∧
    ∀ pa a code, va % 64 = 0 → Plain s (some k.core) (s.ctxOf k) va 256 .read pa a code →
      let bs := Memory.bytes s.homes.mem a 256
      let s1 := (s.readKeep (s.seqEng b) va 256).1
      let went := fun (u : State) => WentOn u b k.seq ∧ u.homes.mem = s.homes.mem
      (∀ s2, s1.checkLaunch [1, b, 5] p.ctx bs = (s2, .bad) → (LaunchRec.of bs).sigaddr = 0 → ∃ u, exec (.launch g ka imm) s = .next u ∧ went u ∧
        u.front = s.front) ∧
      (∀ s2, s1.checkLaunch [1, b, 5] p.ctx bs = (s2, .wait) → ∃ u, exec (.launch g ka imm) s = .next u ∧ u.blocks = s.blocks ∧ u.front = s.front) ∧
      ∀ s2 r h st dy, s1.checkLaunch [1, b, 5] p.ctx bs = (s2, .good r h st dy) →
        (s.regs.aggBase = 0 → ∃ u c, exec (.launch g ka imm) s = .next u ∧ went u ∧ u.front.launches[s.front.launches.length]? = some c ∧
          c.child = true ∧ c.queue = p.queue ∧ c.ctx = p.ctx ∧ c.part = p.part ∧ c.lrec = r ∧ c.hdr = h ∧ c.statics = st ∧ c.dynamics = dy ∧
          c.epri = min r.prio p.epri ∧ c.raddr = va ∧ c.blocks = r.blocks) ∧
        let kid := fun (first : Nat) => Child.mk first r.blocks r.dblk dy ((r.exts.getLast?).getD 1) r.sigaddr r.blocks 0 va
        let fits := fun (w : Window) => w.lrec.key = (LaunchRec.of bs).key ∧ (s.front.launches[w.parent]?).map (·.queue) = some p.queue
        (s.regs.aggBase ≠ 0 → r.blocks < 2 ^ 32 → s.front.windows.length < 64 → (∀ w ∈ s.front.windows, ¬ fits w) →
          ∃ u w, exec (.launch g ka imm) s = .next u ∧ went u ∧ u.front.windows = s.front.windows ++ [w] ∧ w.parent = k.launch ∧
            w.lrec = LaunchRec.of bs ∧ w.statics = st ∧ w.opened = s.clock.toNat ∧ w.kids = [kid 0]) ∧
        ∀ w, s.regs.aggBase ≠ 0 → r.blocks < 2 ^ 32 → s.front.windows = [w] → fits w → s.clock.toNat < w.opened + 2000 → w.kids.length < 4095 →
          (w.kids.map (·.nblk)).sum + r.blocks ≤ 2 ^ 32 → ∃ u, exec (.launch g ka imm) s = .next u ∧ went u ∧
            u.front.windows = [{ w with kids := w.kids ++ [kid (w.kids.map (·.nblk)).sum] }]

/-- COLL reads its descriptor and its send buffer and joins its group, counting in CNT.CP; a descriptor outside the table raises
COLL_DESC. When every rank has joined, the receive buffer takes the operation's bytes, combined in some order, the barrier loses
as many, and CNT.CP falls; ranks that disagree raise COLL_DESC (14 R418; 16 R449; 11 R312). What each operation writes, for the
32-bit integers: ALLREDUCE with ADD the sum of every rank's element, REDUCESCATTER its rank's part of the sums, ALLGATHER the
buffers by rank, BROADCAST the root's, whatever the order of combination (14 R418). COLL_DESC for a descriptor off its alignment and
for a repeated rank, and the send buffer read at issue, are the model's choices (log 66), as is the left fold in one order of the
ranks (logs 11, 78). -/
def Obligations.Collectives : Prop :=
  ((∀ (s : State) (b : Nat) (k : Block) (g : Guard) (ka : Fin 128) (imm : BitVec 32), SeqRuns s b k g →
    let va := (k.kreg ka.val + imm.signExtend 64).toNat
    (va % 64 ≠ 0 → k.halt = none → HaltsWith (.coll g ka imm) s b 0x1B) ∧
    ∀ pa a code, va % 64 = 0 → Plain s (some k.core) (s.ctxOf k) va 64 .read pa a code →
      let d := Memory.bytes s.homes.mem a 64
      let rd := fun (o n : Nat) => Memory.read s.homes.mem (a + o) n
      (collOk d = false → k.halt = none → HaltsWith (.coll g ka imm) s b 0x1B) ∧
      (collOk d = true → k.cntCp = 63 → ∃ u, exec (.coll g ka imm) s = .next u ∧ u.blocks = s.blocks ∧ u.coll = s.coll) ∧
      ∀ pa' a' code' size, collOk d = true → k.cntCp ≠ 63 → s.peers = [] → collSize (rd 2 1) = some size →
        let n := size * (if rd 0 1 = 2 then rd 8 4 * rd 0x28 8 else if rd 0 1 = 3 ∧ rd 4 4 ≠ rd 0xC 4 then 0 else rd 0x28 8)
        Plain (s.translated (s.seqEng b) [(va, 64)]) (some k.core) (s.ctxOf k) (rd 0x18 8) n .read pa' a' code' → ∃ u c j, exec (.coll g ka imm) s = .next u ∧ WentOn u b k.seq ∧
          u.homes.mem = s.homes.mem ∧ (u.blocks[b]?).map (fun q => (q.cntCp, q.colls)) = some (k.cntCp + 1, k.colls ++ [c]) ∧
          u.coll.joins = s.coll.joins ++ [j] ∧ j.owner = some (b, c.id) ∧ j.group = rd 0x10 8 ∧ j.rank = rd 4 4 ∧ j.npart = rd 8 4 ∧
          j.op = rd 0 1 ∧ j.red = rd 1 1 ∧ j.ty = rd 2 1 ∧ j.root = rd 0xC 4 ∧ j.count = rd 0x28 8 ∧ j.send = Memory.bytes s.homes.mem a' n ∧
          c.recv = BitVec.ofNat 64 (rd 0x20 8) ∧ c.bar = (if rd 3 1 / 16 % 2 = 1 then some (rd 3 1 % 16) else none) ∧
          j.ordinal = ((s.coll.counts.find? fun x => x.1 == j.group && x.2.1 == j.rank).map (·.2.2)).getD 0) ∧
  ∀ (s : State) (b n : Nat) (k : Block) (c : Coll) (j : Join), s.resident? b = some k → k.colls.find? (fun x => x.id == n) = some c →
    s.coll.joins.find? (fun x => x.owner == some (b, n)) = some j →
    let js := s.coll.joins.filter fun x => x.group == j.group && x.ordinal == j.ordinal
    let differ := (∃ x ∈ js, x.op ≠ j.op ∨ x.red ≠ j.red ∨ x.ty ≠ j.ty ∨ x.count ≠ j.count ∨ x.npart ≠ j.npart ∨ x.root ≠ j.root) ∨
      s.coll.joins.any (j.repeats ·) = true
    (differ → k.halt = none → HaltsWith (.collCompletion b n) s b 0x1B) ∧
    (¬ differ → js.length < j.npart → exec (.collCompletion b n) s = .next s) ∧
    (¬ differ → j.npart ≤ js.length → c.faultVa = none → ∀ m pa a code, (∀ l : List Join, l.Perm js → (collBytes j l).length = m) →
      Plain s (some k.core) (s.ctxOf k) c.recv.toNat m .write pa a code →
      ∃ u l, exec (.collCompletion b n) s = .next u ∧ l.Perm js ∧ Stored s.homes.mem u.homes.mem a (collBytes j l) ∧
        (u.blocks[b]?).map (fun q => (q.cntCp, q.colls)) = some (k.cntCp - 1, k.colls.filter fun x => x.id != n) ∧
        ∀ i y, c.bar = some i → k.bars[i]? = some y → ((u.blocks[b]?).bind (·.bars[i]?)).map (·.pending) = some (y.pending - BitVec.ofNat 64 m))) ∧
  (∀ (j : Join) (js : List Join), js ≠ [] →
    let words := fun (lo : Nat) => (List.range j.count).flatMap fun i => toBytes ((js.map fun q => rdN q.send (4 * (lo + i)) 4).sum % 2 ^ 32) 4
    (j.op = 0 → j.red = 0 → j.ty = 8 ∨ j.ty = 9 → collBytes j js = words 0) ∧
    (j.op = 2 → j.red = 0 → j.ty = 8 ∨ j.ty = 9 → collBytes j js = words (j.rank * j.count)) ∧
    (∀ js' : List Join, j.op = 1 → js'.Perm js → js'.Pairwise (fun a b => a.rank < b.rank) → collBytes j js = js'.flatMap (·.send)) ∧
    (∀ q ∈ js, j.op = 3 → q.rank = j.root → (∀ r ∈ js, r.rank = j.root → r = q) → collBytes j js = q.send))

/-- STEP confirms the current step, asks for the next, and faults on any other; STEP_ADVANCE raises STEPNO by one, to which every
block's and the rebuild's counts answer, once no capture runs and the rebuild's quota is met; either way KD receives STEPNO (14
R419; 16 R451, R460). -/
def Obligations.StepMarks : Prop :=
  (∀ (s : State) (b : Nat) (k : Block) (g : Guard) (kd ka : Fin 128), SeqRuns s b k g →
    let v : Word := (k.kreg ka.val).setWidth 32
    (v = s.regs.stepno → ∃ u, exec (.step g kd ka) s = .next u ∧ SeqDid s u (s.modBlock b fun x => { x with
      k := if kd.val = 0 then x.k else x.k.set kd.val (v.setWidth 64) }) b) ∧
    (v = s.regs.stepno + 1 → ∃ u, exec (.step g kd ka) s = .next u ∧ u.regs = s.regs ∧ u.homes = s.homes ∧
      (u.blocks[b]?).map (·.stepWait) = some (some (v, kd.val))) ∧
    (v ≠ s.regs.stepno → v ≠ s.regs.stepno + 1 → k.halt = none → HaltsWith (.step g kd ka) s b 0x1C)) ∧
  ∀ (s : State) (b : Nat) (k : Block) (v : Word) (kd : Nat), Works s b k → k.stepWait = some (v, kd) → kd < k.k.length →
    let wrote := fun (u : State) => WentOn u b k.seq ∧ ∃ k', u.blocks[b]? = some k' ∧ k'.stepWait = none ∧ k'.k = if kd = 0 then k.k else k.k.set kd (v.setWidth 64)
    (v = s.regs.stepno → ∃ u, exec (.stepAdvance b) s = .next u ∧ wrote u ∧ u.regs = s.regs) ∧
    let mans := [s.seif.man0.toNat + 4, s.seif.man1.toNat + 4]
    (v = s.regs.stepno + 1 → s.seif.capturing = false → s.quotaOpen = false → (∀ m ∈ mans, s.migOf m = none) → ∃ u, exec (.stepAdvance b) s = .next u ∧ wrote u ∧
      u.regs.stepno = v ∧ u.rebuild.served = 0 ∧ u.seif.capturing = s.seif.armed ∧
      (s.seif.armed = true → u.seif.capstep = s.regs.stepno ∧
        ((∀ m ∈ mans, s.movedFrom m = none ∧ s.seifRange m = none) → u.seif.copied = 0) ∧
        Memory.get u.homes.mem ((if u.seif.slot = 0 then s.seif.man0 else s.seif.man1).toNat + 4) = 0)) ∧
    (v = s.regs.stepno + 1 → s.seif.capturing = true ∨ s.quotaOpen = true → exec (.stepAdvance b) s = .next s)

/-! ### Memory events -/

/-- A request that no earlier one holds back is performed at its home in this package's HBM: a load returns the line's bytes, with
its own forwarded ones over them, a store writes its parts, and an atomic computes on the old value and returns it; a hole and a
poisoned line halt the block. A persist write to SCM is performed by CARAVAN_ENTRY, and enters its queue with its agent and
epoch (10 R276–R283, R288, R289; 09 R248, R256, R257, R263). A return writes its destination registers, lowers CNT.LD and ends
its hold, while its slot tag and grant are the thread's; a stale one writes nothing and is counted, and a fatally halted block's
registers stay. An acknowledgement lowers CNT.ST. A return waits for its thread's earlier loads, and either for the earlier answers
of its home (11 R297). Neither changes memory or another thread's registers (04 R118–R122, R126; 10 R274, R276). -/
def Obligations.RequestsAndReturns : Prop :=
  (∀ (s : State) (n : Nat) (r : Req), s.homes.reqs.find? (fun x => x.id == n) = some r → s.homeReady r = true → r.spadBlk = none →
    (∀ x ∈ r.parts, x.off + x.bytes ≤ 128) →
    let mem := s.homes.mem
    let gone := fun (u : State) => SameReqs u.homes.reqs (s.homes.reqs.filter fun x => x.id != n)
    let rets := fun (u : State) => (u.homes.rets.drop s.homes.rets.length).map fun x => (x.load, x.part)
    let older := fun (u : State) => SameRets (u.homes.rets.take s.homes.rets.length) s.homes.rets
    let put := fun (a : Nat) => r.parts.foldl (fun m x => Memory.put m (a + x.off) (toBytes x.data.toNat x.bytes)) mem
    (∀ a, s.reqPhys r = .hbm a → s.reqPersist r = false → s.Unmoved a → (∀ x ∈ r.parts, s.Unmoved (a + x.off)) →
      (s.poisoned a = false → r.op = .load ∨ r.op = .ldro → ∃ u, exec (.homeAccess n) s = .next u ∧ gone u ∧ u.homes.mem = mem ∧
        older u ∧ rets u = r.parts.map fun x => (true, { x with
          data := BitVec.ofNat 128 (mergeFwd x.fmask x.fdata.toNat (Memory.read mem (a + x.off) x.bytes) x.bytes) })) ∧
      (s.poisoned a = true → r.op = .load ∨ r.op = .ldro → r.parts ≠ [] → ∀ k, s.resident? r.blk = some k → k.halt = none →
        HaltsWith (.homeAccess n) s r.blk 0x12) ∧
      (r.op = .store → ∃ u, exec (.homeAccess n) s = .next u ∧ gone u ∧ u.homes.mem = put a ∧
        (rets u).map (fun x => (x.1, x.2.tid, x.2.slot)) = r.parts.map fun x => (false, x.tid, x.slot)) ∧
      ∀ op x, r.op = .atomic op → r.parts = [x] → s.poisoned a = false →
        let old := Memory.read mem (a + x.off) x.bytes
        let o := x.data.toNat
        let signed := fun (v : Nat) => sval (8 * x.bytes) v
        let stores := fun (v : Nat) => ∃ u, exec (.homeAccess n) s = .next u ∧ gone u ∧ Stored mem u.homes.mem (a + x.off) (toBytes v x.bytes) ∧
          (rets u).map (fun y => (y.1, y.2.dst, if y.1 then y.2.data.toNat else 0)) =
            [if x.dst.isSome then (true, x.dst, old % 2 ^ 128) else (false, x.dst, 0)]
        (op = 0x85 → stores ((old + o) % 2 ^ (8 * x.bytes))) ∧ (op = 0x86 → stores (if signed o < signed old then o else old)) ∧
        (op = 0x87 → stores (if signed old < signed o then o else old)) ∧ (op = 0x88 → stores (min old o)) ∧ (op = 0x89 → stores (max old o)) ∧
        (op = 0x8A → stores (old &&& o)) ∧ (op = 0x8B → stores (old ||| o)) ∧ (op = 0x8C → stores (old ^^^ o)) ∧ (op = 0x8D → stores o) ∧
        (op = 0x8E → stores (if old = o then x.data2.toNat else old)) ∧
        (op = 0x8F → stores (fp32.add .rne (fp32.decode old) (fp32.decode o)).1) ∧
        (op = 0x90 → stores (fp32.minMax false old o).1) ∧ (op = 0x91 → stores (fp32.minMax true old o).1)) ∧
    (s.reqPhys r = .hole → s.reqPersist r = false →
      (r.prefetch = true → ∃ u, exec (.homeAccess n) s = .next u ∧ gone u ∧ u.homes.mem = mem ∧ u.blocks.map (·.halt) = s.blocks.map (·.halt)) ∧
      (r.prefetch = false → r.parts ≠ [] → ∀ k, s.resident? r.blk = some k → k.halt = none → HaltsWith (.homeAccess n) s r.blk 0x13)) ∧
    ∀ a x, s.reqPhys r = .scm a → r.op = .store → r.path = .pers → r.parts = [x] → x.bytes ≤ 16 → s.seif.capturing = false →
      s.migOf (a + x.off) = none → 0x20000000000 ≤ a → ∃ u id more, exec (.caravanEntry n) s = .next u ∧ gone u ∧ u.homes.mem = put a ∧
        u.homes.caravan[iodOf (a + x.off)]? = (s.homes.caravan[iodOf (a + x.off)]?).map fun q => q ++
          ⟨id, alignDown (a + x.off) 128, cellsOf (a + x.off) (toBytes x.data.toNat x.bytes), some (r.blk, x.tid), x.epoch,
            s.poisoned (a + x.off), false⟩ :: more) ∧
  (∀ (s : State) (n : Nat) (r : Ret) (k : Block), s.homes.rets.find? (fun x => x.id == n) = some r → s.resident? r.blk = some k →
    let gone := fun (u : State) => u.homes.mem = s.homes.mem ∧ u.homes.rets = s.homes.rets.filter fun x => x.id != n
    let others := fun (u : State) => ∀ b t, (b, t) ≠ (r.blk, r.part.tid) → u.thread? b t = s.thread? b t
    (∀ th, k.threads[r.part.tid]? = some th → th.slotTag = r.part.slot → th.status ≠ .exited →
      (r.load = true → s.earlierLoad r = false → s.earlierHome r = false → k.dead = false →
        (∀ g, r.part.grant = some g → th.grantTag (r.part.dst.getD 0) = some g) → ∃ u th', exec (.returnLanding n) s = .next u ∧ gone u ∧ others u ∧
        u.thread? r.blk r.part.tid = some th' ∧ th'.cntLd = th.cntLd - 1 ∧ th'.cntSt = th.cntSt ∧ th'.pred = th.pred ∧ th'.status = th.status ∧ th'.pc = th.pc ∧
        th'.blocked = th.blocked - (if r.order = .acq ∨ r.order = .sc then 1 else 0) ∧ th'.regs = th.regs ∧
        ∀ j, j < th.regs → th'.reg j = match r.part.dst with
          | some d => if d ≤ j ∧ j < d + max 1 (r.part.bytes / 4) then BitVec.ofNat 32 (r.part.data.toNat / 2 ^ (32 * (j - d))) else th.reg j
          | none => th.reg j) ∧
      (r.load = true → s.earlierLoad r = false → s.earlierHome r = false → k.dead = true →
        (∀ g, r.part.grant = some g → th.grantTag (r.part.dst.getD 0) = some g) → ∃ u th', exec (.returnLanding n) s = .next u ∧ gone u ∧
        u.thread? r.blk r.part.tid = some th' ∧ th'.cntLd = th.cntLd - 1 ∧ th'.v = th.v ∧
        (u.cores[r.core]?).map (·.dropcnt) = (s.cores[r.core]?).map (·.dropcnt)) ∧
      (∀ g, r.load = true → s.earlierLoad r = false → s.earlierHome r = false → r.part.grant = some g →
        th.grantTag (r.part.dst.getD 0) ≠ some g → ∃ u, exec (.returnLanding n) s = .next u ∧ gone u ∧
          (u.cores[r.core]?).map (·.dropcnt) = (s.cores[r.core]?).map fun c => satAdd c.dropcnt 1) ∧
      (r.load = false → s.earlierHome r = false → ∃ u th', exec (.storeAck n) s = .next u ∧ gone u ∧ others u ∧
        u.thread? r.blk r.part.tid = some th' ∧ th'.cntSt = th.cntSt - 1 ∧ th'.cntLd = th.cntLd ∧ th'.v = th.v ∧ th'.pred = th.pred ∧ th'.status = th.status)) ∧
    (r.load = true → s.earlierLoad r = false → s.earlierHome r = false → (∀ th, k.threads[r.part.tid]? = some th → th.slotTag ≠ r.part.slot ∨ th.status = .exited) →
      ∃ u, exec (.returnLanding n) s = .next u ∧ gone u ∧
        (u.cores[r.core]?).map (·.dropcnt) = (s.cores[r.core]?).map fun c => satAdd c.dropcnt 1) ∧
    (r.load = true → s.earlierLoad r = true ∨ s.earlierHome r = true → exec (.returnLanding n) s = .next s) ∧
    (r.load = false → s.earlierHome r = true → exec (.storeAck n) s = .next s))

/-- A walk reads CTX and up to four table entries: a valid leaf gives its frame and rights; an entry that is not present makes the
page absent, and an invalid context, an address out of range, a reserved bit or a LEAF value its level forbids forbids it. The
walk takes the CTX that it read when it started, and fills its core's TLB, or parks the faulting lane for replay with a record, or halts
the block with PROT_FAULT, or with LINK_LOST where a port took a table with it (15 R422–R424; 09 R258, R259, R261; 08 R214; 17 R474;
log 16). -/
def Obligations.PageWalks : Prop :=
  (∀ (s : State) (ctx va : Nat),
    let c := (s.regs.ctxs.getD ctx 0).toNat
    let v := va % 2 ^ 57
    let root := c / 2 ^ 21 % 2 ^ 31 * 2 ^ 21
    let local' := fun (pa e : Nat) => ∃ a, s.phys pa = .hbm a ∧ Memory.read s.homes.mem (s.homeAddr a) 8 = e
    let next := fun (e : Nat) => e / 2 ^ 8 % 2 ^ 44 * 256
    let table := fun (e align : Nat) => e % 2 = 1 ∧ e / 8 % 2 = 0 ∧ e / 16 % 16 = 0 ∧ e / 2 ^ 52 % 2 ^ 12 = 0 ∧ next e % align = 0
    let leaf := fun (e align : Nat) => e % 2 = 1 ∧ e / 8 % 2 = 1 ∧ e / 16 % 16 = 0 ∧ e / 2 ^ 52 % 2 ^ 12 = 0 ∧ next e % align = 0
    let gives := fun (lg e : Nat) => s.walk ctx va = .leaf ⟨ctx, v / 2 ^ lg * 2 ^ lg, lg, next e, e / 2 % 2 = 1, e / 4 % 2 = 1⟩
    ((c % 2 = 0 ∨ (va / 2 ^ 56 ≠ 0 ∧ va / 2 ^ 56 ≠ 255)) → s.walk ctx va = .prot) ∧
    (c % 2 = 1 → va / 2 ^ 56 = 0 ∨ va / 2 ^ 56 = 255 → ∀ e4, local' (root + 8 * (v / 2 ^ 39)) e4 →
      (e4 % 2 = 0 → s.walk ctx va = .absent) ∧ (e4 % 2 = 1 → e4 / 8 % 2 = 1 → s.walk ctx va = .prot) ∧
      (table e4 (2 ^ 12) → ∀ e3, local' (next e4 + 8 * (v / 2 ^ 30 % 2 ^ 9)) e3 →
        (e3 % 2 = 0 → s.walk ctx va = .absent) ∧ (leaf e3 (2 ^ 30) → gives 30 e3) ∧
        (table e3 (2 ^ 12) → ∀ e2, local' (next e3 + 8 * (v / 2 ^ 21 % 2 ^ 9)) e2 →
          (e2 % 2 = 0 → s.walk ctx va = .absent) ∧ (leaf e2 (2 ^ 21) → gives 21 e2) ∧
          (table e2 (2 ^ 8) → ∀ e1, local' (next e2 + 8 * (v / 2 ^ 16 % 2 ^ 5)) e1 →
            (e1 % 2 = 0 → s.walk ctx va = .absent) ∧ (leaf e1 (2 ^ 16) → gives 16 e1) ∧
            (e1 % 2 = 1 → e1 / 8 % 2 = 0 ∨ e1 / 16 % 16 ≠ 0 ∨ e1 / 2 ^ 52 % 2 ^ 12 ≠ 0 ∨ next e1 % 2 ^ 16 ≠ 0 → s.walk ctx va = .prot)))))) ∧
  ∀ (s : State) (n : Nat) (w : Walk), s.homes.walks.find? (fun x => x.id == n) = some w →
    let gone := fun (u : State) => u.homes.mem = s.homes.mem ∧ u.homes.walks = s.homes.walks.filter fun x => x.id != n
    (∀ e, s.walkFrom w.root w.ctx w.va = .leaf e → ∃ u, exec (.tlbWalk n) s = .next u ∧ gone u ∧ u.blocks = s.blocks ∧
      (u.cores[w.core]?).map (·.tlb) = (s.cores[w.core]?).map fun c => (e :: c.tlb.filter fun x => !(x.ctx == e.ctx && x.page == e.page && x.lg == e.lg)).take 256) ∧
    ∀ b t va acc bd k th, w.who = [(b, t, va, acc)] → s.bundleOf b t = some bd → s.blocks[b]? = some k → k.halt = none → acc ≠ 16 →
      s.thread? b t = some th → bd.meet = false → th.held = false → (∀ c, s.cores[k.core]? = some c → ∀ q ∈ c.growq, ¬(q.blk = b ∧ t ∈ q.tids)) →
      (s.walkFrom w.root w.ctx w.va = .absent → ∃ u th', exec (.tlbWalk n) s = .next u ∧ gone u ∧ u.thread? b t = some th' ∧
        th'.status = .parked (.replay va) ∧ th'.stores = [] ∧ th'.pend = 0 ∧ th'.v = th.v ∧ th'.pred = th.pred ∧ th'.pc = (if th.opening then th.pc else th.rpc) ∧
        ∃ x, u.regs.faqWait = s.regs.faqWait ++ [x] ∧ x.va = va ∧ x.kind = 0 ∧ x.src = 0 ∧ x.agent = t ∧ x.ctx = s.ctxOf k) ∧
      (s.walkFrom w.root w.ctx w.va = .prot → HaltsWith (.tlbWalk n) s b 0x0D) ∧
      (s.walkFrom w.root w.ctx w.va = .lost → HaltsWith (.tlbWalk n) s b 0x1E)

/-! ### The Erg -/

/-- A ready continuation enters the bin of its block and PC when its clause's thresholds are met and a bin is there; with thresholds
not met it parks for them, and re-enters when they hold, as it does from a counter at its limit and from PBAR. A thread that sleeps
re-enters once its deadline has passed. One that parked with its octet then waits for the octet's other lanes, and all of them re-enter
together (01 R42). A thread at EXIT ends once its counters are zero: its slot's tag advances, its registers go, and its chunks go first
to its block's reserve, until that is whole, and the rest to the free pool (01 R35, R37, R44; 02 R54; 04 R111, R120; 08 R205, R209; 10
R274, R291). -/
def Obligations.ErgEntry : Prop :=
  ∀ (s : State) (b t : Nat) (k : Block) (th : Thread), Works s b k → k.threads[t]? = some th → s.farCode k true = none →
    let sets := fun (i : Instr) (f : Thread → Thread) => exec i s = .next (s.modThread b t f)
    let wakes := fun (i : Instr) => sets i fun x => if x.octet then { x with status := .parked .meet } else { x with status := .ready false, arrival := s.cycle }
    let room := (b, th.pc) ∈ s.binKeys k.core ∨ ((s.binKeys k.core).length < 64 ∧ s.olderWaits k.core b t th = false)
    let unbinned : State → State := fun u => ({ u with cores := u.cores.map fun c => { c with bins := [] } } : State)
    let enters := (room → ∃ u, exec (.continuationEntry b t) s = .next u ∧
        unbinned u = unbinned (s.modThread b t fun x => { x with status := .ready true })) ∧
      (¬ room → exec (.continuationEntry b t) s = .next s)
    (th.status = .ready false → s.atHeader k th.pc = none → enters) ∧
    (∀ w : DWord, th.status = .ready false → s.atHeader k th.pc = some (th.pc - 8) → s.fetchWord k true (th.pc - 8) = .ok w →
      let field := fun (o : Nat) => w.toNat / 2 ^ o % 16
      let limit := fun (o : Nat) => if field o = 15 then 63 else field o
      let meets := fun (o c : Nat) => field o = 15 ∨ c ≤ field o
      let all := meets 8 th.cntLd ∧ meets 12 th.cntSt ∧ meets 16 k.cntCp ∧ meets 20 k.cntTl
      (all → enters) ∧
      (¬ all → sets (.continuationEntry b t) fun x => { x with status := .parked (.wait (limit 8) (limit 12) (limit 16) (limit 20)) })) ∧
    (∀ ld st cp tl, th.status = .parked (.wait ld st cp tl) →
      let pass := (ld = 63 ∨ th.cntLd ≤ ld) ∧ (st = 63 ∨ th.cntSt ≤ st) ∧ (cp = 63 ∨ k.cntCp ≤ cp) ∧ (tl = 63 ∨ k.cntTl ≤ tl)
      (pass → wakes (.continuationEntry b t)) ∧ (¬ pass → exec (.continuationEntry b t) s = .next s)) ∧
    (∀ ld st, th.status = .parked (.limit ld st) →
      let pass := (ld = true → th.cntLd < 63) ∧ (st = true → th.cntSt < 63)
      (pass → wakes (.continuationEntry b t)) ∧ (¬ pass → exec (.continuationEntry b t) s = .next s)) ∧
    (∀ pod, th.status = .parked (.pbar pod) →
      (s.persistOut b t pod = false → wakes (.continuationEntry b t)) ∧
      (s.persistOut b t pod = true → exec (.continuationEntry b t) s = .next s)) ∧
    (th.status = .parked .meet →
      let mate := fun (i : Nat) (x : Thread) => i / 8 = t / 8 ∧ k.threads[i]? = some x
      let allMet := ∀ i x, mate i x → x.octet = true → (∀ p, x.status = .parked p → p = .meet) ∧ x.status ≠ .exiting
      (allMet → (∀ i x, mate i x → x.held = false) → ∃ u, exec (.continuationEntry b t) s = .next u ∧ u.homes.mem = s.homes.mem ∧
        ∀ i x, k.threads[i]? = some x → u.thread? b i = some (if i / 8 = t / 8 ∧ x.status = .parked .meet
          then { x with status := .ready false, arrival := s.cycle, octet := false } else x)) ∧
      (¬ allMet → exec (.continuationEntry b t) s = .next s)) ∧
    (∀ d, th.status = .parked (.sleep d) →
      (d ≤ s.clock.toNat → wakes (.sleepWake b t)) ∧
      (s.clock.toNat < d → exec (.sleepWake b t) s = .next s)) ∧
    (th.status = .exiting →
      (th.cntLd = 0 → th.cntSt = 0 → ∃ u th', exec (.threadEnd b t) s = .next u ∧ u.thread? b t = some th' ∧ u.homes.mem = s.homes.mem ∧
        th'.status = .exited ∧ th'.slotTag = th.slotTag + 1 ∧ th'.pred = th.pred ∧ ((∀ c, s.cores[k.core]? = some c → c.growq = []) →
          let r := min (th.regs / 64) (k.reserveWhole - k.reserve)
          th'.v = [] ∧ (u.blocks[b]?).map (·.reserve) = some (k.reserve + r) ∧
          (u.cores[k.core]?).map (·.free) = (s.cores[k.core]?).map fun c => c.free + (th.regs / 64 - r))) ∧
      (th.cntLd ≠ 0 ∨ th.cntSt ≠ 0 → exec (.threadEnd b t) s = .next s))

/-- A bin that may form a bundle does, once in a cycle, whatever key it holds (log 10): of a clause without MEET the oldest continuation
of each lane, once it holds eight lanes or has waited eight cycles; of one with MEET all live threads of the octet, those held for their
handlers included. The lanes are issued where they stand, and nothing else changes, but that a clause entered with REGION commits their
open regions (08 R210). A clause that fails the check halts the block, and so does a PC in no clause. The bundle is ready when the fast
file has room for its working set, registers at or above REGS counted as well (log 74) (01 R36, R41, R43; 02 R59, R88; 04 R114, R116). -/
def Obligations.BundleFormation : Prop :=
  (∀ (s : State) (b t : Nat) (k : Block) (th : Thread), Works s b k → k.threads[t]? = some th → th.status = .ready true →
    s.farCode k true = none →
    let inBin := fun (i : Nat) (x : Thread) => k.threads[i]? = some x ∧ x.status = .ready true ∧ x.pc = th.pc ∧ x.alone = false
    (s.hasFormed k.core (b, th.pc) = true → exec (.bundleFormation b t) s = .next s) ∧
    (s.hasFormed k.core (b, th.pc) = false → s.standAt k th.pc = none → HaltsWith (.bundleFormation b t) s b 0x05) ∧
    (s.hasFormed k.core (b, th.pc) = false → ∀ hdr entry ws, s.standAt k th.pc = some (hdr, entry) → s.walkNeed b k true [] hdr = none →
      s.fetchClause k true hdr = .inl ws →
      let h := (ws.headD 0).toNat
      let meet := h / 2 ^ 25 % 2 = 1
      let forms := fun (lanes : List Nat) (single : Bool) => ∃ u id, exec (.bundleFormation b t) s = .next u ∧ u.homes.mem = s.homes.mem ∧
        u.bundles = s.bundles ++ [⟨id, b, lanes, hdr, (th.pc.toNat - hdr.toNat) / 8, h % 16 + 1, decide meet && !single, single, false,
          h / 2 ^ 26 % 2 == 1, 0, (s.binAge b k th).1, (s.binAge b k th).2, none⟩] ∧
        u.blocks.map Block.still = s.blocks.map Block.still ∧
        (∀ i ∈ lanes, (u.thread? b i).map (fun x => (x.status, x.pc)) = some (.issued, th.pc)) ∧
        (((s.cores[k.core]?).bind (·.binOf (b, th.pc))).isSome = true → u.hasFormed k.core (b, th.pc) = true)
      let held := fun (i : Nat) => ∃ x, k.threads[i]? = some x ∧ x.held = true ∧ x.ready = true
      let live := (List.range k.threads.length).filter fun i => i / 8 == t / 8 && (k.threads[i]?).any fun x => x.status != .exited
      let due := (th.alone = true) ∨
        (¬ meet ∧ ((∃ i x, inBin i x ∧ x.arrival + 8 ≤ s.cycle) ∨ ∀ l, l < 8 → ∃ i x, inBin i x ∧ i % 8 = l)) ∨ (meet ∧ ∀ i ∈ live, (∃ x, inBin i x) ∨ held i)
      (clauseFault true ws = none → ¬ due → exec (.bundleFormation b t) s = .next s) ∧
      (∀ i c, clauseFault true ws = some (i, c) → entry = true ∨ th.unchecked = true → due →
        (∀ i, s.storeHeld b k i = none) → HaltsWith (.bundleFormation b t) s b c) ∧
      (clauseFault true ws = none → entry = true → h / 2 ^ 24 % 2 = 1 → due → (∀ i, s.storeHeld b k i = none) →
        (∀ (i : Nat) (x : Thread), k.threads[i]? = some x → x.stores = []) → ∃ u lanes bd, exec (.bundleFormation b t) s = .next u ∧ lanes ≠ [] ∧
          u.bundles = s.bundles ++ [bd] ∧ bd.lanes = lanes ∧ bd.hdr = hdr ∧ ∀ i ∈ lanes, ∀ x, k.threads[i]? = some x →
            ∃ y, u.thread? b i = some y ∧ y.flags = x.flags ||| x.pend.setWidth 32 ∧ y.pend = 0 ∧ y.status = .issued) ∧
      (clauseFault true ws = none → entry = false ∨ h / 2 ^ 24 % 2 = 0 → due →
        (th.alone = true → forms [t] (decide meet)) ∧
        (th.alone = false → meet → forms live false) ∧
        (th.alone = false → ¬ meet → ∃ lanes, forms lanes false ∧ (lanes.map (· % 8)).Nodup ∧ (∀ i ∈ lanes, ∃ x, inBin i x) ∧
          ∀ i x, inBin i x → ∃ j ∈ lanes, ∃ y, k.threads[j]? = some y ∧ j % 8 = i % 8 ∧ y.arrival ≤ x.arrival)))) ∧
  ∀ (s : State) (n : Nat) (bd : Bundle) (k : Block) (c : Core) (w : DWord), s.bundles.find? (fun x => x.id == n) = some bd →
    s.blocks[bd.blk]? = some k → s.cores[k.core]? = some c → bd.ready = false → s.fetchWord k true bd.hdr = .ok w →
    let need := 32 * (w.toNat / 2 ^ 59 % 32) * bd.lanes.length
    (c.fast + need ≤ 65536 → exec (.workingSetCopy n) s = .next
      ((s.modBundle n fun x => { x with ready := true, ws := need }).modCore k.core fun c => { c with fast := c.fast + need })) ∧
    (65536 < c.fast + need → exec (.workingSetCopy n) s = .next s)

/-- REG_DEADLOCK halts a block whose live threads all wait, one of them at GROW and none for a deadline or a reply, whose sequencer
has ended or waits at a barrier, once its core's pool has not grown for 65,536 cycles; before that nothing happens (04 R112). -/
def Obligations.RegisterDeadlock : Prop :=
  ∀ (s : State) (b : Nat) (k : Block) (c : Core), s.resident? b = some k → k.halt = none → s.cores[k.core]? = some c →
    let live := fun (t : Nat) (th : Thread) => k.threads[t]? = some th ∧ th.status ≠ .exited
    let stuck := (∀ t th, live t th → ((∃ p, th.status = .parked p) ∨ th.status = .exiting ∨ s.waitsOctet k t th = true) ∧ (∀ d, th.status ≠ .parked (.sleep d)) ∧ ∀ i c v, th.status ≠ .parked (.syscall i c v)) ∧
      (∃ t th n, live t th ∧ th.status = .parked (.grow n)) ∧ (k.seq.ended = true ∨ (∃ i p, k.seq.wait = .barrier i p) ∨ ∃ p, k.seq.wait = .cbar p)
    (stuck → c.grew + 65536 ≤ s.cycle → HaltsWith (.regDeadlock b) s b 0x08) ∧
    (¬ stuck ∨ s.cycle < c.grew + 65536 → exec (.regDeadlock b) s = .next s)

/-! ### Faults, capture and memory errors -/

/-- A thread parked at TRAP writes its 64-byte record into the ring once it is placed and has room and the thread's earlier writes are
acknowledged, and keeps the ring index; a halted block writes no record that it has not begun (log 90). SRWAKE with that index loads V0–V7
from the reply and lets the thread resume, with its octet where it parked with it (01 R42), or raises SYSCALL_KILL or ILLEGAL_ENCODING by
the reply's STATUS; with an index that no thread holds, those of a fatally halted block not counted, it is ignored (04 R126; 08 R226–R228;
12 R356). DEBUG_HALT stops a named block with its code, its record naming the sequencer, and DEBUG_RESUME lets a block with a debug stop's
record go on; nothing else changes. Once a halted block's lanes and engines are quiet its record is written after those before it in its
queue's halt area, or HLOST is set where it does not fit; a fatally halted block is then accounted, and a debug-stopped one stays (08
R230–R234; 13 R359). -/
def Obligations.SyscallsAndHalts : Prop :=
  (∀ (s : State) (b t : Nat) (k : Block) (th : Thread), s.resident? b = some k → k.halt = none → k.threads[t]? = some th → s.farCode k true = none →
    let r := s.regs
    let size := 2 ^ (if 6 ≤ r.srSize.toNat ∧ r.srSize.toNat ≤ 16 then r.srSize.toNat else 6)
    (∀ code v, th.status = .parked (.syscall none code v) →
      let i := r.srProd.toNat
      let room := s.asking [7, 4, b, t] = true ∨
        (r.srSet = true ∧ (r.srProd - r.srCons).toNat < size ∧ s.writesPending b t = false ∧ s.asking [7, 4] = false)
      (¬ room → exec (.syscallRecordWrite b t) s = .next s) ∧
      ∀ a, room → PlainPa s (r.srBase.toNat + 64 * (i % size)) 64 a → ∃ u, exec (.syscallRecordWrite b t) s = .next u ∧
        OnlyAt s.homes.mem u.homes.mem a 64 ∧
        Holds u.homes.mem a ([(0, 2, code), (2, 2, 32768 + i / size % 32768), (4, 4, t), (8, 4, k.ticket), (12, 4, s.queueOf k),
          (16, 8, (s.trapPc k th.pc).toNat), (24, 8, (s.origin k true (s.trapPc k th.pc)).1.toNat)] ++
          (List.range 8).map fun j => (32 + 4 * j, 4, (v.getD j 0).toNat)) ∧
        u.regs.srProd = r.srProd + 1 ∧ (u.thread? b t).map (·.status) = some (.parked (.syscall (some i) code v))) ∧
    ∀ idx : Word,
      (s.srWaiter idx.toNat = none → exec (.srwake idx) s = .next s) ∧
      ∀ a, s.srWaiter idx.toNat = some (b, t) → PlainPa s (r.rpBase.toNat + 64 * (idx.toNat % size)) 64 a →
        let status := Memory.read s.homes.mem a 2
        (status = 0 → ∃ u th', exec (.srwake idx) s = .next u ∧ u.thread? b t = some th' ∧ u.homes.mem = s.homes.mem ∧
          th'.status = (if th.octet then .parked .meet else .ready false) ∧ th'.pc = th.pc ∧ th'.pred = th.pred ∧ th'.flags = th.flags ∧
          th'.regs = th.regs ∧ ∀ j, j < th.regs → th'.reg j = if j < 8 then BitVec.ofNat 32 (Memory.read s.homes.mem (a + 32 + 4 * j) 4) else th.reg j) ∧
        (status = 1 → HaltsWith (.srwake idx) s b 0x10) ∧ (2 ≤ status → HaltsWith (.srwake idx) s b 0x04)) ∧
  (∀ (s : State) (b t : Nat) (k : Block) (th : Thread) (code : Nat) (v : List Word), s.resident? b = some k → k.threads[t]? = some th →
    th.status = .parked (.syscall none code v) → k.halt.isSome = true → s.asking [7, 4, b, t] = false →
    exec (.syscallRecordWrite b t) s = .next s) ∧
  (∀ (s : State) (b : Nat) (k : Block), s.resident? b = some k →
    (k.halt = none → exec (.debugHalt b) s = .next (s.modBlock b fun x => { x with
        halt := some ⟨0x21, true, 0, none, k.seq.pc, 0, 0, s.clock, s.cycle, false, false⟩ }) ∧
      exec (.debugResume b) s = .next s ∧ exec (.blockAccounted b) s = .next s) ∧
    ∀ h : Halt, k.halt = some h →
      exec (.debugHalt b) s = .next s ∧
      (h.debug = true → h.recorded = true → exec (.debugResume b) s = .next (s.modBlock b fun x => { x with
        halt := none, threads := x.threads.map fun t => { t with
          skid := 0, status := if t.status = .ready true then .ready false else t.status } })) ∧
      (h.debug = false ∨ h.recorded = false → exec (.debugResume b) s = .next s) ∧
      let q := s.queue (s.queueOf k)
      let size := 64 + 16 * k.threads.length
      let pa := q.act.haltBase.toNat + q.haltUsed
      let blk := fun (u : State) => (u.blocks[b]?).map fun x => (x.place, x.halt.map (·.recorded))
      q.reset ≠ 1 → (∀ x ∈ s.bundles, x.blk ≠ b) → s.drained b = true → k.colls = [] → h.recorded = false →
      (s.permits (k.core / 4)).2 < 16 → (h.debug = false → ∀ l, s.launch? k = some l → l.children = []) →
      ∃ u, exec (.blockAccounted b) s = .next u ∧
        (h.debug = true → blk u = some (.live, some true)) ∧
        (h.debug = false → blk u = some (.accounted, some true) ∧ ∀ l, s.launch? k = some l →
          (u.front.launches[k.launch]?).map (fun x => (x.done, x.faulted)) = some (l.done + 1, true)) ∧
        (q.act.haltSize.toNat * 1024 < q.haltUsed + size → (u.queue (s.queueOf k)).hlost = true ∧ u.homes.mem = s.homes.mem) ∧
        ∀ a, q.haltUsed + size ≤ q.act.haltSize.toNat * 1024 → PlainPa s pa size a →
          (u.queue (s.queueOf k)).haltUsed = q.haltUsed + size ∧ (u.queue (s.queueOf k)).hlost = q.hlost ∧
          OnlyAt s.homes.mem u.homes.mem a size ∧
          Holds u.homes.mem a [(0, 1, h.code), (1, 1, if h.debug then 1 else 0), (2, 1, h.word), (3, 1, 0), (4, 4, h.ftid.getD 0xFFFFFFFF),
            (8, 4, k.ticket), (12, 4, s.logical k.core), (16, 8, h.pc.toNat), (24, 8, (s.origin k h.ftid.isSome h.pc).1.toNat),
            (32, 4, (s.origin k h.ftid.isSome h.pc).2), (36, 2, h.imm), (38, 2, k.threads.length), (40, 8, h.addr.toNat), (48, 8, h.clock.toNat),
            (56, 8, (if h.ftid = none ∧ h.pc = k.seq.pc then k.seq.pc else k.seq.stopPc).toNat)] ∧
          ∀ t th, k.threads[t]? = some th → Holds u.homes.mem a [(64 + 16 * t, 8, th.pc.toNat), (72 + 16 * t, 1, th.skid), (73 + 16 * t, 1, s.statusOf k t th),
            (74 + 16 * t, 6, 0)])

/-- A write that sets CAPEN arms Seif when no two ranges overlap and no destination overlaps a range, a manifest or another
destination: every granule of every range takes the step's tag, and no byte moves; otherwise it sets CFGERR. A write that clears
CAPEN disarms, or lets the capture in progress finish. The sweep copies the lowest granule whose tag is older, as it stands at its home
(09 R265), and tags it; once
none is left the manifest is written VALID, and the capture is over (16 R453–R456). An entry of a Caravan queue drains to the
media when no earlier entry shares a byte with it and none of an earlier epoch of its agent is left; the other entries stay in
order, and what programs read does not change (09 R256; 11 R314, R315). -/
def Obligations.CapturesAndCaravan : Prop :=
  ((∀ (s : State) (v : Word),
    let used := s.seif.ranges.filter fun r => r.2.1 != 0
    let src := used.map fun r => (r.1.toNat, r.2.1.toNat)
    let dst := used.flatMap fun r => [(r.2.2.1.toNat, r.2.1.toNat), (r.2.2.2.toNat, r.2.1.toNat)]
    let apart := fun (x y : Nat × Nat) => ¬(x.1 < y.1 + y.2 ∧ y.1 < x.1 + x.2)
    let good := src.Pairwise apart ∧ dst.Pairwise apart ∧ ∀ d ∈ dst, ∀ y ∈ src ++ [(s.seif.man0.toNat, 64), (s.seif.man1.toNat, 64)], apart d y
    (s.seif.ctl.getLsbD 0 = false → v.getLsbD 0 = true → s.seif.capturing = false →
      (good → ∃ u, exec (.seifArm v) s = .next u ∧ u.homes.mem = s.homes.mem ∧ u.seif = { s.seif with ctl := v &&& 7, armed := true, cfgerr := false } ∧
        ∀ g, u.gtag g = if ∃ r ∈ src, r.1 / 256 ≤ g ∧ g < r.1 / 256 + r.2 / 256 then s.step16 else s.gtag g) ∧
      (¬ good → exec (.seifArm v) s = .next { s with seif := { s.seif with ctl := v &&& 6, cfgerr := true } })) ∧
    (s.seif.ctl.getLsbD 0 = true → v.getLsbD 0 = false →
      exec (.seifDisarm v) s = .next { s with seif := { s.seif with ctl := v &&& 6, armed := s.seif.armed && s.seif.capturing } })) ∧
  ∀ s : State,
    let inRange := fun (g : Nat) => ∃ r ∈ s.seif.ranges, r.2.1 ≠ 0 ∧ r.1.toNat / 256 ≤ g ∧ g < r.1.toNat / 256 + r.2.1.toNat / 256
    let man := if s.seif.slot = 0 then s.seif.man0.toNat else s.seif.man1.toNat
    (s.seif.capturing = false → exec .seifSweep s = .next s ∧ exec .seifCaptureComplete s = .next s) ∧
    (∀ g src dst, s.seif.capturing = true → inRange g → s.gtag g ≠ s.step16 → (∀ h, inRange h → h < g → s.gtag h = s.step16) →
      s.seifRange (256 * g) = some (src, dst) → exec .seifCaptureComplete s = .next s ∧
        let d := dst + (256 * g - src)
        (s.migOf d = none → s.migOf (d + 128) = none → ∃ u, exec .seifSweep s = .next u ∧ u.gtag g = s.step16 ∧
          u.seif = { s.seif with copied := s.seif.copied + 1 } ∧
          Stored s.homes.mem u.homes.mem d (Memory.bytes s.homes.mem (s.homeAddr (256 * g)) 256))) ∧
    (s.seif.capturing = true → (∀ g, inRange g → s.gtag g = s.step16) → exec .seifSweep s = .next s ∧
      (s.migOf man = none → s.movedFrom man = none → (s.seifRange man = none ∨ s.gtag (man / 256) = s.step16) → ∃ u, exec .seifCaptureComplete s = .next u ∧ u.seif = { s.seif with capturing := false, armed := s.seif.ctl.getLsbD 0 } ∧
        OnlyAt s.homes.mem u.homes.mem man 64 ∧
        Holds u.homes.mem man [(0, 4, 0x53454946), (4, 1, 1), (5, 1, s.seif.slot), (6, 2, 0), (8, 4, s.seif.capstep.toNat), (12, 4, s.pkg),
          (18, 6, 0), (24, 8, s.seif.copied), (32, 8, s.clock.toNat), (40, 24, 0)] ∧
        (s.seif.ranges.length = 16 → ∀ i r, s.seif.ranges[i]? = some r → (Memory.read u.homes.mem (man + 16) 2).testBit i = (r.2.1 != 0))))) ∧
  (∀ (s : State) (iod : Fin 2) (before after : List CarEntry) (e : CarEntry), s.homes.caravan[iod.val]? = some (before ++ e :: after) →
    (∀ x ∈ before ++ after, x.id ≠ e.id) →
    let may := (∀ x ∈ before, x.line = e.line → ∀ c ∈ x.data, ∀ d ∈ e.data, c.1 ≠ d.1) ∧
      ∀ x ∈ before ++ after, e.agent ≠ none → x.agent = e.agent → (x.epoch - e.epoch).toNat < 2 ^ 31
    (¬ may → exec (.caravanDrain iod e.id) s = .next s) ∧
    (may → ∃ u, exec (.caravanDrain iod e.id) s = .next u ∧ u.homes.mem = s.homes.mem ∧
      u.homes.caravan = s.homes.caravan.set iod.val (before ++ after) ∧
      ∀ a, Memory.get u.homes.media a = match e.data.reverse.find? fun c => c.1 == a with
        | some c => c.2
        | none => Memory.get s.homes.media a))

/-- A corrected error counts; in HBM and the SCM media it also counts for its page, which joins the bad-page list with a record when its
count reaches the threshold. An uncorrectable one counts, poisons its line, and is recorded; in HBM and the SCM media its page is listed;
a line of L1 is refetched from its home, one of another package by a request; the address of an SRAM error, and where an L1's lines stand,
are the model's (log 53). BPCMD adds a page, removes one or clears the list; a listed page gains no second entry and a full list only a
record. Background maintenance changes nothing (09 R262–R264, R267; 15 R434; 16 R462). The oldest waiting record goes into the
fault-address queue, VALID with its pass count, once the queue is placed, before which records wait (log 55), and has room; a place that
reaches no memory sets FAQERR and keeps the record, until FAQBASE is written. A RESIDENT notice, once its links have a permit, which it
waits for unchanged (log 59), lets every thread, sequencer and copy of its context that waits on the page go on, and nothing else changes
of them (09 R261; 17 R467, R509; 08 R214). -/
def Obligations.MemoryErrorsAndFaultQueue : Prop :=
  (∀ s : State,
    let count := fun (n : Nat) (f : Ecc → Ecc) => { s.regs with ecc := s.regs.ecc.modify n f }
    let more := fun (e : Ecc) => { e with corr := satAdd e.corr 1 }
    let worse := fun (e : Ecc) => { e with uncorr := satAdd e.uncorr 1 }
    let record := fun (kind pa : Nat) => (⟨0, pa, kind, 5, 0, 0, 0xFFFFFFFF, 0, 0, 0, 0⟩ : FaqRec)
    let number := fun (k : EccKind) => match k with
      | .sram => 0
      | .l2 => 1
      | .hbm => 2
      | .scmCache => 3
      | .scmMedia => 4
    let listed := fun (page : Nat) => ∃ e ∈ s.regs.badpages, e.toNat / 2 ^ 16 = page
    let entry := fun (reason page : Nat) => (BitVec.ofNat 64 (page * 2 ^ 16 + 2 * reason + 1) : DWord)
    -- the bad-page list and the records after an addition, before which `rs` were recorded and after which `rs'` are
    let adds := fun (u : State) (reason page : Nat) (rs : List FaqRec) =>
      (listed page → u.regs.badpages = s.regs.badpages ∧ u.regs.faqWait = s.regs.faqWait ++ rs) ∧
      (¬ listed page → s.regs.badpages.length < 4096 → u.regs.badpages = s.regs.badpages ++ [entry reason page] ∧ u.regs.faqWait = s.regs.faqWait ++ rs) ∧
      (¬ listed page → 4096 ≤ s.regs.badpages.length → u.regs.badpages = s.regs.badpages ∧ ∃ pa, pa / 2 ^ 16 = page ∧
        u.regs.faqWait = s.regs.faqWait ++ record 4 pa :: rs)
    exec .backgroundMaintenance s = .next s ∧
    (∀ k a, k ∉ [EccKind.hbm, .scmMedia] → exec (.eccError k a true) s = .next { s with regs := count (number k) more }) ∧
    (∀ k a, k ∈ [EccKind.hbm, .scmMedia] →
      let pa := s.pkg * 2 ^ 42 + a
      let c := ((s.regs.tracker.find? fun x => x.1 == pa / 2 ^ 16).map (·.2)).getD 0 + 1
      let rest := s.regs.tracker.filter fun x => x.1 != pa / 2 ^ 16
      ∃ u, exec (.eccError k a true) s = .next u ∧ u.homes = s.homes ∧ u.blocks = s.blocks ∧ u.regs.ecc = (count (number k) more).ecc ∧
        (c < (s.regs.ecc.getD (number k) ⟨0, 0, 16⟩).thr.toNat → u.regs.tracker = ((pa / 2 ^ 16, c) :: rest).take 1024 ∧
          u.regs.badpages = s.regs.badpages ∧ u.regs.faqWait = s.regs.faqWait) ∧
        ((s.regs.ecc.getD (number k) ⟨0, 0, 16⟩).thr.toNat ≤ c → u.regs.tracker = rest ∧ adds u 2 (pa / 2 ^ 16) [record 1 (pa / 128 * 128)])) ∧
    (∀ k a, k ≠ .sram →
      let pa := s.pkg * 2 ^ 42 + a
      ∃ u, exec (.eccError k a false) s = .next u ∧ u.homes.mem = s.homes.mem ∧ u.blocks = s.blocks ∧ u.regs.ecc = (count (number k) worse).ecc ∧
        (∀ x, u.poisoned x = (s.poisoned x || x / 128 == a / 128)) ∧
        (k ∈ [EccKind.l2, .scmCache] → u.regs.badpages = s.regs.badpages ∧ u.regs.faqWait = s.regs.faqWait ++ [record 2 (pa / 128 * 128)]) ∧
        (k ∈ [EccKind.hbm, .scmMedia] → adds u 1 (pa / 2 ^ 16) [record 2 (pa / 128 * 128)])) ∧
    (∀ a, let c := a / 2 ^ 20
      let unit := a % 2 ^ 20 / 65536
      let holder := fun (b : Nat) (k : Block) => s.resident? b = some k ∧ k.core = c ∧ unit ∈ k.units
      ((∀ b k, ¬ holder b k) →
        (s.l1At c (a % 2 ^ 20) = none → exec (.eccError .sram a false) s = .next s) ∧
        (∀ x cr p, s.l1At c (a % 2 ^ 20) = some x → s.cores[c]? = some cr → s.phys (128 * x.line) = .remote p →
          ∃ u, exec (.eccError .sram a false) s = .next u ∧ u.homes.mem = s.homes.mem ∧ u.blocks = s.blocks ∧ u.regs.ecc = (count 0 more).ecc ∧
            (u.cores[c]?).map (·.l1) = some (cr.l1.filter fun y => y.line != x.line) ∧
            ((∃ b k, s.resident? b = some k ∧ k.core = c ∧ (x.ro = false ∨ k.launch = x.launch)) → ∃ r, u.homes.reqs = s.homes.reqs ++ [r] ∧
              r.op = .pref x.ro ∧ r.line = x.line ∧ r.core = c ∧ r.fills = true)) ∧
        ∀ x cr h, s.l1At c (a % 2 ^ 20) = some x → s.cores[c]? = some cr → s.phys (128 * x.line) = .hbm h → s.migOf h = none →
          ∃ u, exec (.eccError .sram a false) s = .next u ∧ u.homes.mem = s.homes.mem ∧ u.blocks = s.blocks ∧ u.regs.ecc = (count 0 more).ecc ∧
            (u.cores[c]?).map (·.l1) = some (if s.poisoned h then cr.l1.filter fun y => y.line != x.line
              else cr.l1.map fun y => if y.line = x.line then { y with data := Memory.bytes s.homes.mem h 128 } else y)) ∧
      ∀ b k i, holder b k → (∀ b' k', holder b' k' → b' = b) → k.units[i]? = some unit → k.units.Nodup →
        ∃ u, exec (.eccError .sram a false) s = .next u ∧ u.homes = s.homes ∧ u.regs.ecc = (count 0 worse).ecc ∧
          (u.blocks[b]?).map (fun x => x.spadPoison.contains ((i * 65536 + a % 65536) / 128)) = some true ∧
          ∃ pa, u.regs.faqWait = s.regs.faqWait ++ [record 2 pa]) ∧
    ∀ v : DWord,
      let page := v.toNat / 2 ^ 16 % 2 ^ 36
      (∃ u, exec (.bpcmdAdd v) s = .next u ∧ u.homes = s.homes ∧ adds u 3 page []) ∧
      exec (.bpcmdRemove v) s = .next { s with regs := { s.regs with badpages := s.regs.badpages.filter fun e => e.toNat / 2 ^ 16 != page } } ∧
      exec .bpcmdClear s = .next { s with regs := { s.regs with badpages := [] } }) ∧
  ((∀ s : State,
    let r := s.regs
    let n := 2 ^ (if 12 ≤ r.faqSize.toNat ∧ r.faqSize.toNat ≤ 20 then r.faqSize.toNat else 12) / 32
    let p := r.faqProd.toNat
    let pa := r.faqBase.toNat + 32 * (p % n)
    let room := r.faqSet = true ∧ r.faqErr = false ∧ (r.faqProd - r.faqCons).toNat < n
    (r.faqWait = [] ∨ ¬ room → exec .faqRecordWrite s = .next s) ∧
    ∀ x rest, r.faqWait = x :: rest → room →
      (s.phys pa = .hole → ∃ u, exec .faqRecordWrite s = .next u ∧ u.homes = s.homes ∧ u.regs.faqErr = true ∧ u.regs.faqWait = r.faqWait ∧ u.regs.faqProd = r.faqProd) ∧
      ∀ a, PlainPa s pa 32 a → ∃ u, exec .faqRecordWrite s = .next u ∧ u.regs.faqProd = r.faqProd + 1 ∧ u.regs.faqWait = rest ∧ u.blocks = s.blocks ∧
        OnlyAt s.homes.mem u.homes.mem a 32 ∧
        Holds u.homes.mem a [(0, 8, x.va), (8, 8, x.pa), (16, 1, x.kind), (17, 1, x.src), (18, 1, x.access), (19, 1, x.rep), (20, 4, x.core),
          (24, 4, x.bid), (28, 2, x.agent), (30, 1, x.ctx), (31, 1, 128 + p / n % 128)]) ∧
  (∀ (s : State) (v : DWord), exec (.faqbase v) s = .next { s with regs := { s.regs with
    faqBase := v &&& 0x000FFFFFFFFFF000, faqErr := false, faqSet := true } }) ∧
  ∀ (s : State) (v : DWord),
    let x := v.toNat
    let size := [2 ^ 16, 2 ^ 21, 2 ^ 30].getD (x % 4) 0
    let base := x / 2 ^ 16 % 2 ^ 41 * 2 ^ 16
    let ok := x % 4 ≠ 3 ∧ x / 4 % 4 = 0 ∧ x / 2 ^ 8 % 2 ^ 8 = 0 ∧ x / 2 ^ 57 = 0 ∧ base % size = 0
    let inside := fun (va : Nat) => base ≤ va % 2 ^ 57 ∧ va % 2 ^ 57 < base + size
    (¬ ok → exec (.resident v) s = .next s) ∧
    let mine := fun (k : Block) => k.place = .live ∧ s.ctxOf k = x / 16 % 16
    (ok → (∃ k ∈ s.blocks, mine k ∧ 16 ≤ (s.permits (k.core / 4)).1) → exec (.resident v) s = .next s) ∧
    (ok → (∀ k ∈ s.blocks, mine k → (s.permits (k.core / 4)).1 < 16) → ∃ u, exec (.resident v) s = .next u ∧ u.homes = s.homes ∧ u.cores = s.cores ∧ ∀ (b : Nat) (k : Block), s.blocks[b]? = some k → ∃ k' : Block, u.blocks[b]? = some k' ∧
      k'.k = k.k ∧ k'.spad = k.spad ∧
      (∀ (t : Nat) (th : Thread), k.threads[t]? = some th → ∃ th' : Thread, k'.threads[t]? = some th' ∧ th'.still = th.still ∧ th'.pc = th.pc ∧
        th'.status = match th.status with
          | .parked (.replay va) => if mine k ∧ inside va then (if th.octet then .parked .meet else .ready false) else th.status
          | x => x) ∧
      k'.seq = (match k.seq.wait with
        | .fault va => if mine k ∧ inside va then { k.seq with wait := .none } else k.seq
        | _ => k.seq) ∧
      k'.copies = if mine k then k.copies.map fun c => if c.state = 2 ∧ inside c.faultVa.toNat then { c with state := 1 } else c else k.copies))

/-- A shoot-down names every core; a core drops its TLB's entries of the range and acknowledges once no request of it through them is on
its way, and the last acknowledgement completes it (09 R260). MIGCMD starts a migration, of which 64 may run; a write that waits for one
changes nothing (log 59). Its lines are copied one by one, with their poison; once every bit is set it switches over: the table entry
names the new frame, a line of it that an L1 has kept serves no load but an LDRO any more (log 24), a shoot-down is issued, and every
access goes to the new page; after the shoot-down the record is written and the migration is over. While it copies, a write is performed
at both pages, and an atomic at the old one only, clearing its line's bit (09 R265, R266). -/
def Obligations.ShootDownsAndMigration : Prop :=
  ((∀ (s : State) (ctx : Fin 16) (va len : Nat), ∃ u id, exec (.tlbShootdown ctx va len) s = .next u ∧ u.cores = s.cores ∧ u.homes.mem = s.homes.mem ∧
    u.blocks = s.blocks ∧ u.regs = { s.regs with shoots := s.regs.shoots ++ [⟨id, some ctx.val, va, len, List.range 288⟩] }) ∧
  ∀ (s : State) (n c : Nat) (x : Shoot) (cr : Core), s.regs.shoots.find? (fun y => y.id == n) = some x → s.cores[c]? = some cr →
    let covers := fun (e : TlbEntry) => match x.ctx with
      | some ctx => e.ctx = ctx ∧ e.page < x.va % 2 ^ 57 + x.len ∧ x.va % 2 ^ 57 < e.page + 2 ^ e.lg
      | none => e.frame < x.va + x.len ∧ x.va < e.frame + 2 ^ e.lg
    (c ∉ x.wait ∨ s.inFlight c x = true → exec (.shootdownAck n c) s = .next s) ∧
    (c ∈ x.wait → s.inFlight c x = false → ∃ u cr', exec (.shootdownAck n c) s = .next u ∧ u.homes = s.homes ∧ u.cores[c]? = some cr' ∧
      (∀ e, e ∈ cr'.tlb ↔ e ∈ cr.tlb ∧ ¬ covers e) ∧ cr'.l1 = cr.l1 ∧
      ((∃ d ∈ x.wait, d ≠ c) → (u.regs.shoots.find? fun y => y.id == n) = some { x with wait := x.wait.filter (· != c) }) ∧
      ((∀ d ∈ x.wait, d = c) → u.regs.shoots = s.regs.shoots.filter fun y => y.id != n))) ∧
  ((∀ (s : State) (v : Word),
    let size := if v.getLsbD 0 then 2 ^ 21 else 2 ^ 16
    let page := fun (x : DWord) => x.toNat / size * size
    (64 ≤ s.regs.migs.length → exec (.migcmd v) s = .next s) ∧
    ∀ o n, s.regs.migs.length < 64 → s.phys (page s.regs.migOld) = .hbm o → s.phys (page s.regs.migNew) = .hbm n →
      exec (.migcmd v) s = .next { s with regs := { s.regs with
        migs := s.regs.migs ++ [⟨o, n, s.regs.migPte.toNat, v.getLsbD 0, List.replicate (size / 128) false, false, none⟩] } }) ∧
  (∀ (s : State) (n : Nat) (m : Migration), s.regs.migs[n]? = some m →
    let size := if m.large then 2 ^ 21 else 2 ^ 16
    let global := fun (a : Nat) => s.pkg * 2 ^ 42 + a
    (∀ l, m.switched = false → m.done[l]? = some false → m.new % 128 = 0 → m.old + 128 * l < 0x06000000000 →
      s.homeAddr (m.old + 128 * l) = m.old + 128 * l → m.new + 128 * l < 0x06000000000 →
      s.Unmoved (m.new + 128 * l) → ∃ u, exec (.migrationLineCopy n l) s = .next u ∧
        Stored s.homes.mem u.homes.mem (m.new + 128 * l) (Memory.bytes s.homes.mem (m.old + 128 * l) 128) ∧
        u.poisoned (m.new + 128 * l) = s.poisoned (m.old + 128 * l) ∧ u.regs.migs[n]? = some { m with done := m.done.set l true }) ∧
    (∀ l, m.switched = true ∨ m.done[l]? ≠ some false → exec (.migrationLineCopy n l) s = .next s) ∧
    (m.switched = true ∨ false ∈ m.done → exec (.migrationSwitchover n) s = .next s) ∧
    (∀ a, m.switched = false → (∀ d ∈ m.done, d = true) → PlainPa s m.pte 8 a →
      let e := Memory.read s.homes.mem a 8
      ∃ u id, exec (.migrationSwitchover n) s = .next u ∧ u.regs.migs[n]? = some { m with switched := true, shoot := some id } ∧
        u.regs.shoots = s.regs.shoots ++ [⟨id, none, global m.old, size, List.range 288⟩] ∧
        (∀ c ∈ u.cores, ∀ y ∈ c.l1, global m.new ≤ 128 * y.line → 128 * y.line < global m.new + size → y.ro = true ∨ y.stale = true) ∧
        Stored s.homes.mem u.homes.mem a (toBytes (e % 2 ^ 8 + global m.new / 2 ^ 8 * 2 ^ 8 + e / 2 ^ 52 * 2 ^ 52) 8)) ∧
    (m.switched = false ∨ (∃ x ∈ s.regs.shoots, m.shoot = some x.id) → exec (.migrationComplete n) s = .next s) ∧
    (m.switched = true → (∀ x ∈ s.regs.shoots, m.shoot ≠ some x.id) → exec (.migrationComplete n) s = .next { s with regs := { s.regs with
      migs := s.regs.migs.eraseIdx n, faqWait := s.regs.faqWait ++ [⟨0, global m.old, 3, 5, 0, 0, 0xFFFFFFFF, 0, 0, 0, 0⟩] } })) ∧
  ∀ (s : State) (a : Nat) (m : Migration) (v : Via) (bs : List Byte), s.migOf a = some m → v.persist = none → v.code = false →
    a < 0x06000000000 → m.new + (a - m.old) < 0x06000000000 →
    let dest := m.new + (a - m.old)
    (∀ x ∈ [a, dest], ∀ y, s.movedFrom x = some y → y < 0x06000000000) →
    (m.switched = false → (s.homeWrite (.hbm a) v bs).homes.mem = Memory.put (Memory.put s.homes.mem a bs) dest bs ∧
      (s.homeUpdate (.hbm a) v bs).homes.mem = Memory.put s.homes.mem a bs ∧
      ∀ n : Nat, s.regs.migs[n]? = some m → ((s.homeUpdate (.hbm a) v bs).regs.migs[n]?).map Migration.done = some (m.done.set ((a - m.old) / 128) false)) ∧
    (m.switched = true → (s.homeWrite (.hbm a) v bs).homes.mem = Memory.put s.homes.mem dest bs ∧
      (s.homeUpdate (.hbm a) v bs).homes.mem = Memory.put s.homes.mem dest bs ∧
      ∀ n, (s.homeRead (.hbm a) v n).2 = Memory.bytes s.homes.mem dest n))

/-! ### Queues, launches and pre-emption -/

/-- A packet keeps the limits of its type (PAD's payload is not looked at, log 39), and a launch record those of its fields, its levels,
its code object's header and its place; an address of it that does not translate makes it invalid (13 R363, R366–R369; 01 R23–R25; 03
R103). Enabling a queue takes over its fields and starts it afresh (log 42), or halts it for a ring size outside 12 to 24. A WAKE value at
most a ring ahead and not older moves WR and lets a fetch begin, one further ahead halts the queue, an older one is ignored, and so is any
of a disabled or halted queue (log 26). A fetch takes the whole packet at RD when its number is the expected one; another number is
retried 64 times, 1 µs apart, and then halts the queue as stale; a packet that straddles the wrap, breaks its format or lies where nothing
can be read halts it as malformed; an incomplete one waits for a later wake (13 R359–R364). PAD is skipped. WAIT reads its word until the
masked comparison holds. WRITE and FENCE wait until every earlier launch of the queue has completed, children not counted (log 39), and
WRITE then writes its word; an address that does not translate halts the queue. LAUNCH, once its record is valid, adds the launch, which
enters dealing; an invalid one adds none, and its signal says so (13 R363, R365, R368, R370, R371). -/
def Obligations.CommandQueues : Prop :=
  (∀ bs : List Byte, packetOk bs = true ↔ PacketLimits bs) ∧
  (∀ (s : State) (who : List Nat) (ctx : Nat) (bs : List Byte), bs.length = 256 →
    let comes := (s.checkLaunch who ctx bs).2
    let r := LaunchRec.of bs
    let fits := RecordLimits bs ∧ LevelLimits bs ∧ PlaceLimits s bs
    let gone := fun (va : Nat) (acc : Acc) => s.xlate ctx va acc = .absent ∨ s.xlate ctx va acc = .prot
    (¬ fits → comes = .bad) ∧ (fits → gone r.code .read → comes = .bad) ∧
    ∀ pa a code, fits → Plain s none ctx r.code 256 .read pa a code →
      let hb := Memory.bytes s.homes.mem a 256
      let entry := fun (x d : Nat) => if x = 0xFFFFFFFF then d else x
      (¬ HeaderLimits hb → comes = .bad) ∧
      (HeaderLimits hb → r.smaskk ≠ 0 → gone r.sblk .read → comes = .bad) ∧
      ∀ pa1 a1 c1, HeaderLimits hb → (r.smaskk ≠ 0 → Plain s none ctx r.sblk (8 * (maskBits r.smaskk).length) .read pa1 a1 c1) →
        (r.dmaskk ≠ 0 → gone r.dblk .read → comes = .bad) ∧
        ∀ pa2 a2 c2, (r.dmaskk ≠ 0 → Plain s none ctx r.dblk (8 * (maskBits r.dmaskk).length) .read pa2 a2 c2) →
          (r.specMode = 0 ∨ ∀ x p, s.phys x ≠ .remote p) →
          (r.sigaddr ≠ 0 → gone r.sigaddr .write → comes = .bad) ∧
          ∀ pa3 a3 c3, (r.sigaddr ≠ 0 → Plain s none ctx r.sigaddr 8 .write pa3 a3 c3) → ∃ units, comes = .good
            { r with tentry := entry r.tentry (CodeHdr.of hb).tentry, uentry := entry r.uentry (CodeHdr.of hb).uentry }
            { CodeHdr.of hb with units := units }
            (if r.smaskk = 0 then [] else maskValues s.homes.mem a1 r.smaskk) (if r.dmaskk = 0 then [] else maskValues s.homes.mem a2 r.dmaskk)) ∧
  (∀ (s : State) (q : Nat), q < 4096 →
    let c := s.queue q
    let leaves := fun (i : Instr) (c' : Queue) => ∃ u, exec i s = .next u ∧ QueueIs s u q c' ∧ u.homes.mem = s.homes.mem
    (∀ v : BitVec 16,
      let cfg := { c.cfg with ctrl := v &&& 0xF }
      let fresh : Queue := { c with cfg := cfg, act := cfg, rd := 0, wr := 0, expect := 0, retries := 0, retryAt := 0, due := false, fetched := none, waiting := false, stat := 0
                                    part := (tget s.regs.qpart q).getD 0 }
      (c.cfg.ctrl.getLsbD 0 = true ∨ v.getLsbD 0 = false → leaves (.queueEnable q v) { c with cfg := cfg }) ∧
      (c.cfg.ctrl.getLsbD 0 = false → v.getLsbD 0 = true →
        (12 ≤ cfg.rsize ∧ cfg.rsize ≤ 24 → leaves (.queueEnable q v) fresh) ∧
        (¬(12 ≤ cfg.rsize ∧ cfg.rsize ≤ 24) → leaves (.queueEnable q v) (fresh.halted 2)))) ∧
    let units := 2 ^ c.act.rsize / 64
    (∀ w : Word,
      (c.cfg.ctrl.getLsbD 0 = false ∨ c.stat ≠ 0 → exec (.wake q w) s = .next s) ∧
      (c.cfg.ctrl.getLsbD 0 = true → c.stat = 0 →
        (units < (w - c.rd).toNat → leaves (.wake q w) (c.halted 2)) ∧
        ((w - c.rd).toNat ≤ units → (c.wr - c.rd).toNat ≤ (w - c.rd).toNat → leaves (.wake q w) { c with wr := w, due := true }) ∧
        ((w - c.rd).toNat ≤ units → (w - c.rd).toNat < (c.wr - c.rd).toNat → exec (.wake q w) s = .next s))) ∧
    let pa := c.act.rbase.toNat + 64 * (c.rd.toNat % max 1 units)
    (s.fronts q = false ∨ c.fetched ≠ none ∨ c.rd = c.wr → exec (.packetFetch q) s = .next s ∧ exec (.seqRetry q) s = .next s) ∧
    (c.retries = 0 ∨ s.clock.toNat < c.retryAt → exec (.seqRetry q) s = .next s) ∧ (c.due = false → exec (.packetFetch q) s = .next s) ∧
    (s.fronts q = true → c.fetched = none → c.rd ≠ c.wr → ∀ i ∈ [Instr.packetFetch q, .seqRetry q],
      (if i = .seqRetry q then c.retries ≠ 0 ∧ c.retryAt ≤ s.clock.toNat else c.due = true) →
      (s.phys pa = .hole → leaves i (c.halted 2)) ∧
      ∀ a, PlainPa s pa 64 a →
        let seq : BitVec 16 := BitVec.ofNat 16 (Memory.read s.homes.mem (a + 2) 2)
        let n := Memory.read s.homes.mem (a + 1) 1 % 64 + 1
        let differs := { c with retries := c.retries + 1, retryAt := s.clock.toNat + 1000, due := false }
        (seq ≠ c.expect → i = .packetFetch q → leaves i (if c.retries = 0 then differs else { c with due := false })) ∧
        (seq ≠ c.expect → i = .seqRetry q → leaves i (if c.retries < 64 then differs else c.halted 1)) ∧
        (seq = c.expect → units < c.rd.toNat % max 1 units + n → leaves i (c.halted 2)) ∧
        (seq = c.expect → c.rd.toNat % max 1 units + n ≤ units →
          ((c.wr - c.rd).toNat < n → leaves i { c with retries := 0, due := false }) ∧
          (n ≤ (c.wr - c.rd).toNat → PlainPa s pa (64 * n) a →
            let bs := Memory.bytes s.homes.mem a (64 * n)
            (packetOk bs = true → leaves i { c with fetched := some bs, retries := 0, due := false }) ∧
            (packetOk bs = false → leaves i (c.halted 2)))))) ∧
  (∀ (s : State) (q : Nat) (c : Queue) (bs : List Byte) (ty : Nat), AtPacket s q c bs ty →
    let passes := fun (i : Instr) => ∃ u, exec i s = .next u ∧ QueueIs s u q (c.passed bs) ∧ u.homes.mem = s.homes.mem ∧ u.front.launches = s.front.launches
    let va := rdN bs 8 8
    let earlier := ∃ l ∈ s.front.launches, l.child = false ∧ l.queue = q ∧ l.state ≠ .complete ∧ l.state ≠ .discarded
    (ty = 0 → passes (.pad q)) ∧
    (ty = 4 → ¬ earlier → passes (.fencePacket q)) ∧ (ty = 4 → earlier → exec (.fencePacket q) s = .next s) ∧
    (ty = 3 → earlier → exec (.writePacket q) s = .next s) ∧
    (ty = 3 → ¬ earlier → 24 ≤ bs.length → ∀ pa a code, Plain s none c.act.ctx va 8 .write pa a code → ∃ u, exec (.writePacket q) s = .next u ∧
      QueueIs s u q (c.passed bs) ∧ Stored s.homes.mem u.homes.mem a (toBytes (rdN bs 16 8) 8)) ∧
    (ty = 3 → ¬ earlier → s.xlate c.act.ctx va .write = .absent → ∃ u, exec (.writePacket q) s = .next u ∧ QueueIs s u q (c.halted 2) ∧ u.homes.mem = s.homes.mem) ∧
    (ty = 2 → ∀ i, i = (if c.waiting then Instr.waitPoll q else .waitPacket q) →
      (s.xlate c.act.ctx va .read = .absent → ∃ u, exec i s = .next u ∧ QueueIs s u q (c.halted 2) ∧ u.homes.mem = s.homes.mem) ∧
      ∀ pa a code, Plain s none c.act.ctx va 8 .read pa a code →
        let x := Memory.read s.homes.mem a 8 &&& rdN bs 24 8
        let y := rdN bs 16 8 &&& rdN bs 24 8
        let holds := match rdN bs 4 4 with
          | 0 => x = y
          | 1 => x ≠ y
          | 2 => y ≤ x
          | _ => x < y
        (holds → passes i) ∧
        (¬ holds → ∃ u, exec i s = .next u ∧ QueueIs s u q { c with waiting := true } ∧ u.homes.mem = s.homes.mem)) ∧
    (ty = 2 → (c.waiting = true → exec (.waitPacket q) s = .next s) ∧ (c.waiting = false → exec (.waitPoll q) s = .next s)) ∧
    (ty = 1 → c.waiting = false → bs.length = 320 →
      let rb := bs.drop 64
      let v := (s.checkLaunch [6, q, 0] c.act.ctx rb).2
      (∀ r h st dy, v = .good r h st dy → r.specMode = 0 → ∃ u l, exec (.launchPacket q) s = .next u ∧ QueueIs s u q (c.passed bs) ∧
        u.homes.mem = s.homes.mem ∧ u.front.launches = s.front.launches ++ [l] ∧ l.state = .dealing ∧ l.lrec = r ∧ l.hdr = h ∧ l.statics = st ∧
        l.dynamics = dy ∧ l.queue = q ∧ l.ctx = c.act.ctx ∧ l.child = false ∧ l.done = 0 ∧ l.entry = none ∧ l.seq = rdN bs 2 2 ∧
        l.epri = min r.prio c.act.prio ∧ l.blocks = r.blocks) ∧
      (v = .bad → (LaunchRec.of rb).sigaddr = 0 → passes (.launchPacket q)) ∧
      ∀ pa a code, v = .bad → (LaunchRec.of rb).sigaddr ≠ 0 → (LaunchRec.of rb).sigaddr % 8 = 0 → Plain (s.checkLaunch [6, q, 0] c.act.ctx rb).1 none c.act.ctx (LaunchRec.of rb).sigaddr 8 .write pa a code →
        ∃ u, exec (.launchPacket q) s = .next u ∧ QueueIs s u q (c.passed bs) ∧ u.front.launches = s.front.launches ∧
          Stored s.homes.mem u.homes.mem a (toBytes (1 + rdN bs 2 2 * 2 ^ 32 + 2 ^ 48) 8)))

/-- A leaf pulls the next ticket of the launch whose turn it is for a core with room: each block starts with its allocations made,
its K registers from the launch's blocks, every other register and its scratchpad zero (13 R369, R377–R383; 04 R106; 09 R242). The
blocks of a CLUSTER unit take cores of their own in one cluster (13 R382). A scheduler message that is consumed gives its permit back
(13 R376); that it has had its effect when it was sent is the model's choice (log 86). -/
def Obligations.TicketPull : Prop :=
  (∀ (s : State) (c l : Nat), s.regs.enable = false ∨ s.bestLaunch c ≠ some l → exec (.ticketPull c l) s = .next s) ∧
  (∀ (s : State) (c l t : Nat) (x : Launch) (rs : List (List (Nat × Nat))) (cs : List Nat), s.regs.enable = true → s.bestLaunch c = some l →
    s.front.launches[l]? = some x → x.nextTicket (c / 36) = some (t, rs) → s.unitCores c x = some cs → (∀ y ∈ cs, s.savedFirst y x = false) →
    (s.permits (72 + c / 4)).1 < 16 → (s.permits (72 + c / 4)).2 < 16 →
    ∃ u, exec (.ticketPull c l) s = .next u ∧ u.homes.mem = s.homes.mem ∧ u.blocks.length = s.blocks.length + cs.length ∧
      c ∈ cs ∧ cs.Nodup ∧ (∀ y ∈ cs, y / 4 = c / 4 ∧ s.fitsNew y x = true) ∧ (x.lrec.unitFor 3 = none → cs = [c]) ∧
      (∀ n, x.lrec.unitFor 3 = some n → 1 ≤ n → cs.length = n) ∧ (∀ b, b < s.blocks.length → u.blocks[b]? = s.blocks[b]?) ∧
      ((u.front.launches[l]?).map fun y => (y.ranges, y.held, y.done)) = some (rs, none, x.done) ∧
      ∀ (i core : Nat), cs[i]? = some core → ∃ k : Block, u.blocks[s.blocks.length + i]? = some k ∧ k.launch = l ∧ k.core = core ∧ k.ticket = t + i ∧
        k.place = .live ∧ k.bid = BitVec.ofNat 32 (x.bidOf (t + i)) ∧ k.k = startK (x.statics ++ x.dynOf (t + i)) ∧ k.spad = [] ∧
        k.spadBytes = 1024 * x.lrec.spad ∧ k.units.length = x.lrec.spad / 64 ∧ k.cntCp = 0 ∧ k.cntTl = 0 ∧ k.threads.length = x.lrec.threads ∧
        ((u.cores[core]?).map (·.free)) = (s.cores[core]?).map (·.free - x.lrec.chunks) ∧
        ∀ th ∈ k.threads, th.v = List.replicate 64 0 ∧ th.pred = 1 ∧ th.flags = 0 ∧ th.utvec = 0 ∧ th.intrap = false ∧ th.cntLd = 0 ∧ th.cntSt = 0 ∧
          th.stores = [] ∧ th.status = .ready false) ∧
  ∀ (s : State) (link : Nat) (toLeaf : Bool), link < 144 → ∃ u, exec (.schedulerMessage link toLeaf) s = .next u ∧
    (∀ x, u.permits x = if x = link then (if toLeaf then ((s.permits x).1 - 1, (s.permits x).2) else ((s.permits x).1, (s.permits x).2 - 1)) else s.permits x) ∧
    u.front.launches = s.front.launches ∧ u.blocks = s.blocks ∧ u.homes = s.homes

/-- A block retires when its threads have exited, its sequencer has ended, no stream is bound and no copy or tile operation is
counted: its allocations go back and its launch counts it. With its last block a launch completes and its signal is written; a
child of a merged grid is signalled when its own blocks are done (01 R34; 04 R119; 13 R370, R388). -/
def Obligations.Retirement : Prop :=
  (∀ (s : State) (b : Nat) (k : Block) (l : Launch) (c : Core), s.resident? b = some k → s.launch? k = some l → s.cores[k.core]? = some c →
    let may := k.halt = none ∧ (∀ th ∈ k.threads, th.status = .exited) ∧ k.seq.ended = true ∧ (∀ x ∈ k.streams, x = none) ∧ k.cntCp = 0 ∧ k.cntTl = 0
    (¬ may → exec (.blockRetire b) s = .next s) ∧
    (may → s.farOut b = true ∨ 16 ≤ (s.permits (k.core / 4)).2 → exec (.blockRetire b) s = .next s) ∧
    (may → s.farOut b = false → (s.permits (k.core / 4)).2 < 16 → l.children = [] → (∀ r ∈ s.homes.reqs, r.blk ≠ b) → (∀ r ∈ s.homes.rets, r.blk ≠ b) → c.growq = [] →
      ∃ u k', exec (.blockRetire b) s = .next u ∧ u.homes.mem = s.homes.mem ∧ u.blocks[b]? = some k' ∧ k'.place = .retired ∧ k'.units = [] ∧
        k'.gen = k.gen + 1 ∧ (u.cores[k.core]?).map (·.free) = some (c.free + k.reserve + (k.threads.map fun th => th.regs / 64).sum) ∧
        (u.front.launches[k.launch]?).map (fun x => (x.done, x.faulted, x.state)) = some (l.done + 1, l.faulted, l.state) ∧
        (u.queue (s.queueOf k)).mxnan = satAdd (s.queue (s.queueOf k)).mxnan k.mxnan.toNat)) ∧
  ∀ (s : State) (n : Nat) (l : Launch), s.front.launches[n]? = some l →
    let st := fun (u : State) => (u.front.launches[n]?).map (·.state)
    let signalled := ∀ c ∈ l.children, c.remain = 0 → c.sig = 0
    (l.state ≠ .dealing ∨ s.regs.enable = false → exec (.launchCompletion n) s = .next s) ∧
    (l.state = .dealing → s.regs.enable = true → signalled → l.allDealt = false ∨ l.done < l.blocks → exec (.launchCompletion n) s = .next s) ∧
    (l.state = .dealing → s.regs.enable = true → l.allDealt = true → l.blocks ≤ l.done →
      (l.children = [] → l.lrec.sigaddr = 0 → ∃ u, exec (.launchCompletion n) s = .next u ∧ st u = some .complete ∧ u.homes.mem = s.homes.mem) ∧
      ∀ pa a code, l.children = [] → l.lrec.sigaddr ≠ 0 → l.lrec.sigaddr % 8 = 0 → Plain s none l.ctx l.lrec.sigaddr 8 .write pa a code →
        ∃ u, exec (.launchCompletion n) s = .next u ∧ st u = some .complete ∧ Stored s.homes.mem u.homes.mem a
          (toBytes ((if l.faulted then 2 else 0) + (if l.child then 0 else l.seq) % 65536 * 2 ^ 32 + 2 ^ 48) 8)) ∧
    ∀ c rest pa a code, l.state = .dealing → s.regs.enable = true → l.children = c :: rest → c.remain = 0 → c.sig ≠ 0 → c.sig % 8 = 0 →
      Plain s none l.ctx c.sig 8 .write pa a code → ∃ u, exec (.launchCompletion n) s = .next u ∧ st u = some .dealing ∧
        Stored s.homes.mem u.homes.mem a (toBytes (c.status + 2 ^ 48) 8) ∧
        (u.front.launches[n]?).map (·.children) = some ({ c with sig := 0 } :: rest)

/-- A merge window closes 2 µs after it opened, or with its 4,096th child: its children form one grid, whose indirection table is
written (13 R387; 15 R432, R433). A build's result is inserted in the residual-code window, and the launches that waited for it
enter dealing on it, or on their generic code where it was discarded (13 R371, R374; 15 R426). With AGGBASE 0 by then its children are
dealt each as a launch of its own. The table's words as posted writes, with the grid in the same event, are log 41, and where the
residual streams lie in their region is log 44: the model's choices. -/
def Obligations.GridsAndBuilds : Prop :=
  (∀ (s : State) (n : Nat) (w : Window), s.front.windows.find? (fun x => x.id == n) = some w →
    let due := w.opened + 2000 ≤ s.clock.toNat ∨ w.kids.length = 4096
    (¬ due → exec (.mergeWindowClose n) s = .next s) ∧
    (due → s.regs.aggBase ≠ 0 → s.freeTable = none → exec (.mergeWindowClose n) s = .next s) ∧
    (∀ p, due → s.regs.aggBase = 0 → s.front.launches[w.parent]? = some p → ∃ u, exec (.mergeWindowClose n) s = .next u ∧
      u.front.windows = s.front.windows.filter (fun x => x.id != n) ∧ u.homes.mem = s.homes.mem ∧
      u.front.launches.length = s.front.launches.length + w.kids.length ∧
      ∀ i c, w.kids[i]? = some c → ∃ l, u.front.launches[s.front.launches.length + i]? = some l ∧ l.child = true ∧ l.children = [] ∧
        l.queue = p.queue ∧ l.ctx = p.ctx ∧ l.statics = w.statics ∧ l.dynamics = c.dyn ∧ l.lrec.dblk = c.dblk ∧ l.lrec.sigaddr = c.sig ∧
        l.lrec.icount = w.lrec.icount ∧ l.raddr = c.raddr) ∧
    ∀ p g a, due → s.regs.aggBase ≠ 0 → s.front.launches[w.parent]? = some p → s.freeTable = some g →
      let base := s.regs.aggBase.toNat + 2 ^ 17 * g
      PlainPa s base (32 * w.kids.length) a → ∃ u l, exec (.mergeWindowClose n) s = .next u ∧
        u.front.windows = s.front.windows.filter (fun x => x.id != n) ∧ u.front.launches[s.front.launches.length]? = some l ∧
        l.children = w.kids ∧ l.queue = p.queue ∧ l.ctx = p.ctx ∧ l.blocks = (w.kids.map (·.nblk)).sum ∧ l.lrec.icount = w.kids.length ∧
        l.lrec.itab = base ∧ OnlyAt s.homes.mem u.homes.mem a (32 * w.kids.length) ∧
        ∀ i c, w.kids[i]? = some c → Holds u.homes.mem a [(32 * i, 4, c.first), (32 * i + 4, 4, c.nblk), (32 * i + 8, 8, c.dblk),
          (32 * i + 16, 8, c.sig), (32 * i + 24, 4, c.remain), (32 * i + 28, 4, c.status)]) ∧
  ∀ (s : State) (n : Nat) (b : Build) (x : Launch), s.mirage.builds.find? (fun y => y.id == n) = some b → s.front.launches[b.launch]? = some x →
    let released := fun (u : State) (e : Option Nat) => ∀ (i : Nat) (y : Launch), s.front.launches[i]? = some y → y.build = some n →
      (u.front.launches[i]?).map (fun z => (z.state, z.build, z.entry)) = some (if y.state = .building then .dealing else y.state, none, e)
    let builds := s.mirage.builds.filter fun y => y.id != n
    (b.discarded = true ∨ s.residuals x = none → ∃ u, exec (.specialiserBuild n) s = .next u ∧ u.mirage = { s.mirage with builds := builds } ∧
      u.homes = s.homes ∧ released u none) ∧
    ∀ t r p, b.discarded = false → s.residuals x = some (t, r) →
      let size := t.bytes.length + r.bytes.length
      s.mirFits size = true → s.mirPlace size = some p → ∃ u id, exec (.specialiserBuild n) s = .next u ∧ released u (some id) ∧
        u.mirage = { s.mirage with builds := builds, entries := s.mirage.entries ++ [⟨id, b.key, b.objid, b.units, t, r, p, p + t.bytes.length, size, false⟩] } ∧
        Stored s.homes.mem u.homes.mem (s.mirage.inBase + p) (t.bytes ++ r.bytes)

/-- A PREEMPT packet vacates the cores it names, and the automatic trigger one whose blocks may be moved for a ticket that has fitted no
core for PDELAY µs: the core takes no block, and each of its blocks has its place in the pool. A quiesced block on such a core is saved
there whole and its allocations are freed. On a core that fits it, and that no launch of higher priority may take, it is resumed from its
area with what the area holds; a command or report waits while its link has no permit; SAVE_DISCARD gives a save up (08 R235–R240; 13
R385, R386; 18 R486). -/
def Obligations.Preemption : Prop :=
  (∀ (s : State) (q : Nat) (c : Queue) (bs : List Byte), AtPacket s q c bs 5 → c.waiting = false → s.front.vacates = [] →
    let named := (((List.range s.regs.ltab.length).filter fun i => (rdN bs 8 36).testBit i).map fun i => s.regs.ltab.getD i 0).filter fun x =>
      s.regs.clpart.getD (x / 4) 0 == c.part && !((s.cores[x]?.map (·.vacating)).getD true)
    (named = [] → ∃ u, exec (.preemptPacket q) s = .next u ∧ QueueIs s u q (c.passed bs) ∧ u.homes.mem = s.homes.mem ∧ u.blocks = s.blocks) ∧
    ∀ x b k p, named = [x] → s.liveOn x = [b] → s.blocks[b]? = some k → k.saveLen = 0 → (∀ y ∈ s.bundles, y.blk ≠ b) →
      let keep := rdN bs 4 4 == 1
      s.poolPlace (rdN bs 48 8) (rdN bs 56 8) (k.areaSize keep) = some p → if 16 ≤ (s.permits (x / 4)).1 then exec (.preemptPacket q) s = .next s else ∃ u, exec (.preemptPacket q) s = .next u ∧
        QueueIs s u q { c with waiting := true } ∧ u.homes.mem = s.homes.mem ∧ (u.cores[x]?).map (·.vacating) = some true ∧
        u.blocks[b]? = some { k with saveAddr := p, saveLen := k.areaSize keep } ∧
        u.front.vacates = [⟨some q, [x], rdN bs 48 8, rdN bs 56 8, 0, keep⟩]) ∧
  (∀ (s : State) (l : Nat) (x : Launch) (t : Nat), s.front.launches[l]? = some x →
    let delay := (s.queue x.queue).act.pdelay.toNat
    (x.held = none ∨ delay = 0 ∨ x.state ≠ .dealing → exec (.autoPreempt l) s = .next s) ∧
    (x.held = some t → s.clock.toNat < t + 1000 * delay → exec (.autoPreempt l) s = .next s) ∧
    ∀ c b k p, x.held = some t → delay ≠ 0 → t + 1000 * delay ≤ s.clock.toNat → x.state = .dealing → 0 < x.undealt →
      ((List.range 288).filter fun c => s.eligible c x) = [c] → s.liveOn c = [b] → s.blocks[b]? = some k → k.saveLen = 0 → (∀ y ∈ s.bundles, y.blk ≠ b) →
      s.poolPlace (s.queuePool b).1 (s.queuePool b).2 (k.areaSize false) = some p → if 16 ≤ (s.permits (c / 4)).1 then exec (.autoPreempt l) s = .next s else ∃ u, exec (.autoPreempt l) s = .next u ∧
        (u.cores[c]?).map (·.vacating) = some true ∧ u.blocks[b]? = some { k with saveAddr := p, saveLen := k.areaSize false } ∧
        u.front.vacates = s.front.vacates ++ [⟨none, [c], 0, 0, 0, false⟩] ∧ (u.front.launches[l]?).map (·.held) = some none) ∧
  (∀ (s : State) (b : Nat) (k : Block) (v : Vacate), s.resident? b = some k → (∀ y ∈ s.bundles, y.blk ≠ b) →
    (s.vacateOf k.core = none → exec (.preemptSave b) s = .next s) ∧
    (s.vacateOf k.core = some v → s.quiesced b k = false ∨ 16 ≤ (s.permits (k.core / 4)).2 → exec (.preemptSave b) s = .next s) ∧
    (s.vacateOf k.core = some v → s.quiesced b k = true → (s.permits (k.core / 4)).2 < 16 →
      let keep := v.keep && k.accMask != 0
      ∀ a, PlainPa s k.saveAddr (s.saveBytes k keep).length a → ∃ u k', exec (.preemptSave b) s = .next u ∧ u.blocks[b]? = some k' ∧
        k'.place = .saved ∧ k'.units = [] ∧ k'.saveAddr = k.saveAddr ∧ k'.kept = keep ∧
        Stored s.homes.mem u.homes.mem a (s.saveBytes k keep))) ∧
  (∀ (s : State) (n c : Nat) (k : Block) (l : Launch), s.blocks[n]? = some k → s.launch? k = some l →
    (s.regs.enable = false ∨ s.fitsSaved c n = false ∨ s.outranked c k = true → exec (.blockResume n c) s = .next s) ∧
    ∀ a, s.regs.enable = true → s.fitsSaved c n = true → s.outranked c k = false → s.farCode k true = none → PlainPa s k.saveAddr k.saveLen a → 0x140 ≤ k.saveLen →
      let rd := fun (o n : Nat) => Memory.read s.homes.mem (a + o) n
      ∃ u k', exec (.blockResume n c) s = .next u ∧ u.homes.mem = s.homes.mem ∧ u.blocks[n]? = some k' ∧ k'.place = .live ∧ k'.core = c ∧
        k'.saveAddr = 0 ∧ k'.saveLen = 0 ∧ k'.cntCp = rd 0x20 1 ∧ k'.cntTl = rd 0x21 1 ∧ k'.bid = k.bid ∧ k'.threads.length = min k.threads.length k'.slots.length ∧
        (rd 0x48 8 + 1024 ≤ k.saveLen → ∀ j, j < 128 → k'.k.getD j 0 = BitVec.ofNat 64 (rd (rd 0x48 8 + 8 * j) 8)) ∧
        (rd 0x80 8 + k.spadBytes ≤ k.saveLen → ∀ x, x < k.spadBytes → Memory.get k'.spad x = Memory.get s.homes.mem (a + rd 0x80 8 + x))) ∧
  ∀ (s : State) (n : Nat) (k : Block), s.blocks[n]? = some k →
    (k.place ≠ .saved → exec (.saveDiscard n) s = .next s) ∧
    (k.place = .saved → ∃ u k', exec (.saveDiscard n) s = .next u ∧ u.blocks[n]? = some k' ∧ k'.place = .discarded ∧ k'.kept = false ∧ u.homes = s.homes ∧
      ∀ c, u.cores[k.core]? = some c → ∀ x ∈ c.banks, ∀ t ∈ x.tiles, ∀ h, t.owner ≠ some (n, h))

/-- What a thread's record holds in a save area, the thread has again when its block resumes in the same slot of its cluster:
registers, flags, trap registers, epoch, barrier marks and open region; a barrier's and a queue's record likewise (08 R238,
R239; 12 R335; 18 R486, R487). Reserved bits that memory was given are dropped (00 R15). That a restored store has EVICT 0 is the
model's choice (log 85). -/
def Obligations.SaveRoundTrip : Prop :=
  (∀ (t : Thread) (tid cycle slot : Nat) (tag : BitVec 4), t.status ≠ .exited → t.v.length < 65536 → t.stores.length < 256 →
    (∀ x ∈ t.stores, x.addr < 2 ^ 64) →
    let r := t.ofBytes (t.bytes tid t.statusCode) cycle slot slot tag
    r.v = t.v ∧ r.pred = t.pred ||| 1 ∧ r.flags = t.flags &&& 0x71F ∧ r.utvec = t.utvec ∧ r.uepc = t.uepc ∧ r.uepco = t.uepco ∧ r.uspecit = t.uspecit ∧
    r.ucause = t.ucause &&& 0x777FF ∧ r.ulanes = t.ulanes ∧ r.udst = t.udst &&& 0x7FF ∧ r.intrap = t.intrap ∧ r.pend = t.pend ∧ r.epoch = t.epoch ∧ r.arrb = t.arrb ∧
    r.stores = t.stores.map (fun x => { x with evict := 0 }) ∧ r.unchecked = true ∧
    r.grants = (if 64 < t.v.length then [(64, t.v.length, t.grant)] else []) ∧ r.cntLd = 0 ∧ r.cntSt = t.stores.length ∧ r.slotTag = tag ∧
    ((∀ va, t.status ≠ .parked (.replay va)) → r.pc = t.pc) ∧
    (∀ d, d < 2 ^ 64 → t.status = .parked (.sleep d) → r.status = .parked (.sleep d)) ∧
    (∀ b p, b < 16 → t.status = .parked (.barrier b p) → r.status = .parked (.barrier b p)) ∧
    (∀ va, t.status = .parked (.replay va) → r.status = .ready false ∧ r.pc = if t.opening then t.pc else t.rpc)) ∧
  (∀ x : Barrier, x.arrived < 65536 → (∀ n, x.expected = some n → n < 65535) → Barrier.ofBytes x.bytes = x) ∧
  ∀ c : Carve, c.carved = true → c.offset < 2 ^ 32 → c.cap < 65536 → c.head < 65536 → c.count < 65536 → c.width < 4 → Carve.ofBytes c.bytes c.tag = c

/-! ### The package: registers, resets, links, power and rebuild -/

/-- PKGCTL enables the package, and its first enable latches HBMMODE; a ramp table with an entry above 4 is ignored whole; a routing
entry takes its 26 bits unless a second entry would be LOCAL; while the entry it replaces is in use the write waits, and holds new
requests to that package; MIRINV drops an object's entries, or all of them and applies the window; LINKDOWN written 0 brings a port up
(15 R428–R430, R435; 17 R467, R474), with its sequence at 0 as the model chooses (log 65). -/
def Obligations.PackageControl : Prop :=
  ∀ s : State,
    (∀ v : Word, exec (.packageEnable v) s = .next { s with regs := { s.regs with
      enable := v.getLsbD 0, hbmmode := if s.regs.hbmLatched.isSome then s.regs.hbmmode else v.getLsbD 1
      hbmLatched := if v.getLsbD 0 ∧ s.regs.enable = false ∧ s.regs.hbmLatched = none then some (v.getLsbD 1) else s.regs.hbmLatched } }) ∧
    (∀ (d : Nat) (v : DWord),
      ((∀ e, e < 16 → v.toNat / 2 ^ (3 * e) % 8 ≤ 4) → d < s.regs.ramps.length →
        exec (.rampWrite d v) s = .next { s with regs := { s.regs with ramps := s.regs.ramps.set d (v &&& 0xFFFFFFFFFFFF) } }) ∧
      ((∃ e, e < 16 ∧ 4 < v.toNat / 2 ^ (3 * e) % 8) → exec (.rampWrite d v) s = .next s)) ∧
    (∀ (p : Nat) (v : DWord), p < 1024 →
      let second := v.getLsbD 25 = true ∧ ∃ r ∈ s.regs.routes, r.1 ≠ p ∧ r.2.getLsbD 25 = true
      let inUse := (s.route p).getLsbD 24 = true ∧ ∃ r ∈ s.homes.remotes, r.pkg = p ∧ r.answer = none ∧ r.lost = false
      (inUse → exec (.routeWrite p v) s = .next { s with regs := { s.regs with routeNext := tset s.regs.routeNext p v } }) ∧
      (∀ w pa who mk, tget s.regs.routeNext p = some w → pa / 2 ^ 42 % 1024 = p → (s.ask who pa mk).1 = s) ∧
      (second → ¬ inUse → ∃ u, exec (.routeWrite p v) s = .next u ∧ u.homes = s.homes ∧ u.blocks = s.blocks ∧ ∀ n, u.route n = s.route n) ∧
      (¬ second → ¬ inUse → ∃ u, exec (.routeWrite p v) s = .next u ∧ u.homes.mem = s.homes.mem ∧ u.blocks = s.blocks ∧
        ∀ n, u.route n = if n = p then v &&& 0x3FFFFFF else s.route n)) ∧
    (∀ o : DWord, ∃ u, exec (.mirinv o) s = .next u ∧ u.homes = s.homes ∧ u.front = s.front ∧
      (∀ e ∈ u.mirage.entries, (o = 0 ∨ e.objid = o) → e.dropped = true ∧ s.pinned e.id = true) ∧
      (∀ e ∈ s.mirage.entries, o ≠ 0 → e.objid ≠ o → e.dropped = false → e ∈ u.mirage.entries) ∧
      (∀ b ∈ u.mirage.builds, (o = 0 ∨ b.objid = o) → b.discarded = true) ∧
      (o ≠ 0 → (u.mirage.inBase, u.mirage.inSize, u.mirage.enabled) = (s.mirage.inBase, s.mirage.inSize, s.mirage.enabled)) ∧
      (o = 0 →
        let size := min s.mirage.size.toNat (2 ^ 30)
        u.mirage.inBase = s.mirage.base.toNat ∧ u.mirage.inSize = size ∧
        u.mirage.enabled = decide (s.mirage.base.toNat + (if size = 0 then 0x800000 else size) ≤ 0x06000000000))) ∧
    ∀ v : Word, ∃ u, exec (.linkUp v) s = .next u ∧ u.homes.mem = s.homes.mem ∧ u.blocks = s.blocks ∧ u.ports.length = s.ports.length ∧
      ∀ (n : Nat) (p : Port), s.ports[n]? = some p → u.ports[n]? = some (if p.down = true ∧ v.getLsbD n = false then Port.reset else p)

/-- A host's write of a whole register does what the register does, one to a reserved offset is dropped, and a read answers its
value; the aperture reaches the HBM at its home, and reads zero beyond it; a virtual function's BAR0 reaches the blocks of its
queues; a write to a count clears it; an unmasked vector sends its pending message (12 R356; 16 R464; 17 R466, R469–R471). A PWRCAP
above 2,600 that is stored is the model's choice (log 61), and so are what the aperture does beyond its size and what a resize does to
APBASE (log 99). -/
def Obligations.HostAccesses : Prop :=
  ∀ s : State, s.regs.bootstat = 1 →
    (∀ (off size : Nat) (r : RegAt) (v : DWord), 1 ≤ size → size ≤ 8 → r.base = off → r.len = size → (∀ i, i < size → regAt (off + i) = some r) →
      let after := (s.regSet r.reg (v.toNat % 2 ^ (8 * size))).getD (s.regWait r.reg (v.toNat % 2 ^ (8 * size)))
      exec (.registerWrite off size v) s = .next after ∧ exec (.hostAccess (.barWrite off size v)) s = .next after ∧
      exec (.hostAccess (.barRead off size)) s = .next { s with out := .read (BitVec.ofNat 64 (s.regGet r.reg % 2 ^ (8 * size))) :: s.out }) ∧
    (∀ (off size : Nat) (v : DWord), (∀ i, i < size → regAt (off + i) = none) →
      exec (.registerWrite off size v) s = .next s ∧ exec (.hostAccess (.barWrite off size v)) s = .next s ∧
      exec (.hostAccess (.barRead off size)) s = .next { s with out := .unsupported :: s.out }) ∧
    (∀ v : DWord, exec (.registerWrite 0x100 8 v) s = .next { s with regs := { s.regs with apbase := v >>> s.regs.apsize <<< s.regs.apsize } } ∧
      exec (.registerWrite 0x100000 4 v) s = .next { s with power := { s.power with cap := v.setWidth 32 } } ∧
      exec (.registerWrite 0x10028 4 v) s = .next { s with regs := { s.regs with faqSize := v.setWidth 32 } } ∧
      ∀ q, q < 4096 → ∃ u, exec (.registerWrite (0x1000000 + 256 * q) 8 v) s = .next u ∧
        QueueIs s u q { s.queue q with cfg := { (s.queue q).cfg with rbase := BitVec.ofNat 64 (v.toNat % 2 ^ 52 / 4096 * 4096) } }) ∧
    (∀ lg, exec (.hostAccess (.aperResize lg)) s = .next (if 28 ≤ lg ∧ lg ≤ 39 then
      { s with regs := { s.regs with apsize := lg, apbase := s.regs.apbase >>> lg <<< lg } } else s)) ∧
    (∀ off n (bs : List Byte), (2 ^ s.regs.apsize < off + n → exec (.hostAccess (.aperRead off n)) s = .next { s with out := .unsupported :: s.out }) ∧
      (2 ^ s.regs.apsize < off + bs.length → exec (.hostAccess (.aperWrite off bs)) s = .next s)) ∧
    (∀ off n, off + n ≤ 2 ^ s.regs.apsize → (∀ i, i < n → s.regs.apbase.toNat + off + i < 0x06000000000 ∧ s.migOf (s.regs.apbase.toNat + off + i) = none ∧
        s.poisoned (s.regs.apbase.toNat + off + i) = false) →
      ∃ u, exec (.hostAccess (.aperRead off n)) s = .next u ∧ u.homes.mem = s.homes.mem ∧
        u.out = .bytes (Memory.bytes s.homes.mem (s.regs.apbase.toNat + off) n) :: s.out) ∧
    (∀ (off : Nat) (bs : List Byte), off + bs.length ≤ 2 ^ s.regs.apsize → (∀ i, i < bs.length → s.regs.apbase.toNat + off + i < 0x06000000000 ∧ s.migOf (s.regs.apbase.toNat + off + i) = none) →
      ∃ u, exec (.hostAccess (.aperWrite off bs)) s = .next u ∧ Stored s.homes.mem u.homes.mem (s.regs.apbase.toNat + off) bs) ∧
    (∀ off n (bs : List Byte), off + n ≤ 2 ^ s.regs.apsize → off + bs.length ≤ 2 ^ s.regs.apsize → 0x06000000000 ≤ s.regs.apbase.toNat + off →
      exec (.hostAccess (.aperRead off n)) s = .next { s with out := .bytes (List.replicate n 0) :: s.out } ∧
      exec (.hostAccess (.aperWrite off bs)) s = .next s) ∧
    (∀ (fn : Fin 9) (j q o size : Nat) (v : DWord), s.vfQueue fn.val j = some q → j < 4096 → q < 4096 → o + size ≤ 256 →
      exec (.hostAccess (.vfWrite fn (0x100000 + 256 * j + o) size v)) s = exec (.hostAccess (.barWrite (0x1000000 + 256 * q + o) size v)) s ∧
      exec (.hostAccess (.vfRead fn (0x100000 + 256 * j + o) size)) s = exec (.hostAccess (.barRead (0x1000000 + 256 * q + o) size)) s) ∧
    (∀ n e, s.regs.ecc[n]? = some e → n < 5 →
      exec (.counterClear (0x448000 + 16 * n)) s = .next { s with regs := { s.regs with ecc := s.regs.ecc.set n { e with corr := 0 } } } ∧
      exec (.counterClear (0x448004 + 16 * n)) s = .next { s with regs := { s.regs with ecc := s.regs.ecc.set n { e with uncorr := 0 } } }) ∧
    (∀ c k core, c < 288 → s.regs.ltab[c]? = some k → s.cores[k]? = some core →
      exec (.counterClear (0x400008 + 0x400 * c)) s = .next { s with cores := s.cores.set k { core with dropcnt := 0 } }) ∧
    (∀ q, q < 4096 → ∃ u, exec (.counterClear (0x450000 + 16 * q)) s = .next u ∧ QueueIs s u q { s.queue q with mxnan := 0 }) ∧
    ∀ (fn : Fin 9) (n : Nat), n < msixRows fn.val →
      let x := s.vector (msixRow fn.val n)
      ∃ u, exec (.msixUnmask fn n) s = .next u ∧ u.homes = s.homes ∧ (u.vector (msixRow fn.val n)) = { x with mask := false, pend := false } ∧
        u.out = if x.pend then .msix x.addr.toNat x.data.toNat :: s.out else s.out

/-- A queue's reset discards its launches that are not complete and its saved blocks, and halts its resident blocks, whose engines
give up their work; once their writes, and those the command processor sent to other packages for the queue, have ended it
discards them and clears ENABLE. Function resets do so for a function's
queues, or for all of them. A package reset keeps the SCM media, with the Caravan queues drained into it, the bad-page list, the
guard bands and the deconfigured cores, enumerates, and boots where every image verifies; power loss keeps the same, and nothing is
enumerated before the package boots again (09 R241, R256; 12 R355; 15 R431; 17 R472, R479–R481, R508). That every launch not complete
is discarded at once, and BOOTSTAT 0 after power loss, are the model's choices (log 60). -/
def Obligations.Resets : Prop :=
  (∀ (s : State) (q : Nat), q < 4096 →
    ((s.queue q).reset = 1 → exec (.queueReset q) s = .next s) ∧
    ((s.queue q).reset ≠ 1 → ∃ u, exec (.queueReset q) s = .next u ∧ u.homes.mem = s.homes.mem ∧
      QueueIs s u q { s.queue q with reset := 1, fetched := none, waiting := false, retries := 0, due := false } ∧ u.blocks.length = s.blocks.length ∧
      (∀ (i : Nat) (l : Launch), s.front.launches[i]? = some l → u.front.launches[i]? =
        some (if l.queue = q ∧ (l.state = .building ∨ l.state = .dealing) then { l with state := .discarded } else l)) ∧
      ∀ (b : Nat) (k : Block), s.blocks[b]? = some k → ∃ k', u.blocks[b]? = some k' ∧
        let mine := (s.launch? k).map (·.queue) = some q
        (mine → k.place = .live → k'.place = .live ∧ (k'.halt.map (·.recorded)) = some true ∧ k'.copies = [] ∧ k'.xfers = [] ∧ k'.colls = [] ∧
          (∀ x ∈ k'.streams, x = none) ∧ ∀ th ∈ k'.threads, th.stores = [] ∧ th.pend = 0) ∧
        (mine → k.place = .saved → k'.place = .discarded) ∧
        (¬ mine → k'.place = k.place ∧ k'.halt = k.halt ∧ k'.threads = k.threads ∧ k'.spad = k.spad ∧ k'.k = k.k)) ∧
    ((s.queue q).reset ≠ 1 ∨ s.farWrite (s.whoQueue q) = true ∨ (∃ b ∈ s.liveOf q, s.asking [7, 4, b] = true) →
      exec (.queueResetComplete q) s = .next s) ∧
    (∀ b k, s.resident? b = some k → (s.launch? k).map (·.queue) = some q → s.writesOut b = true → exec (.queueResetComplete q) s = .next s) ∧
    ((s.queue q).reset = 1 → (∀ b ∈ s.liveOf q, s.resetDone b = true ∧ s.asking [7, 4, b] = false) → s.farWrite (s.whoQueue q) = false → ∃ u, exec (.queueResetComplete q) s = .next u ∧ u.homes.mem = s.homes.mem ∧
      (u.queue q).reset = 2 ∧ (u.queue q).cfg.ctrl = (s.queue q).cfg.ctrl &&& 0xFFFE ∧
      ∀ (b : Nat) (k : Block), s.blocks[b]? = some k → ∃ k', u.blocks[b]? = some k' ∧
        if b ∈ s.liveOf q then k'.place = .discarded ∧ k'.units = [] ∧ k'.gen = k.gen + 1 else k'.place = k.place)) ∧
  (∀ (s : State) (p : Nat),
    (p = 0 ∨ 8 < p → exec (.flrVirtualFunction p) s = .next s) ∧
    (1 ≤ p → p ≤ 8 → ∃ u, exec (.flrVirtualFunction p) s = .next u ∧ u.homes.mem = s.homes.mem ∧ u.regs.enable = s.regs.enable ∧
      (∀ q, q < 4096 → if s.queuePart q = p then (u.queue q).reset = 1 else u.queue q = s.queue q) ∧
      (∀ n, n < 256 → u.vector (msixRow p n) = ⟨0, 0, true, false⟩) ∧
      ∀ f n, f ≠ p → f ≤ 8 → n < msixRows f → u.vector (msixRow f n) = s.vector (msixRow f n))) ∧
  (∀ s : State, ∃ u, exec .flrPhysicalFunction s = .next u ∧ u.homes.mem = s.homes.mem ∧ u.regs.enable = false ∧
    (∀ q, q < 4096 → (u.queue q).reset = 1) ∧ ∀ n, n < 2048 → u.vector (msixRow 0 n) = ⟨0, 0, true, false⟩) ∧
  (∀ (s : State) (x : Image), s.boot.verifies x = true ↔
    shake32 x.key = s.boot.keyHash ∧ s.boot.floor ≤ x.version ∧ Config.mldsaVerify x.key (toBytes x.version 8 ++ x.body) x.sig = true) ∧
  ∀ (s : State) (a b c : Image) (i : Instr) (boot : Word), let good := ∀ x ∈ [a, b, c], s.boot.verifies x = true
    i = .conventionalReset ⟨a, b, c⟩ ∧ good ∧ boot = 1 ∨ i = .conventionalReset ⟨a, b, c⟩ ∧ ¬ good ∧ boot = 2 ∨ i = .powerLoss ∧ boot = 0 →
    let on := (List.range 288).filter fun c => s.fuse.getD c false && !s.ageing.dcfgmap.getD c false
    ∃ u, exec i s = .next u ∧ u.regs.bootstat = boot ∧ u.blocks = [] ∧ u.bundles = [] ∧ u.front = Front.reset ∧ u.seif = Seif.reset ∧
      u.mirage = Mirage.reset ∧ u.cores = List.replicate 288 Core.reset ∧ u.homes.caravan = [[], []] ∧ u.homes.mem = u.homes.media ∧
      (∀ a, Memory.get u.homes.media a =
        (((s.homes.caravan.flatten.flatMap (·.data)).reverse.find? fun c => c.1 == a).map (·.2)).getD (Memory.get s.homes.media a)) ∧
      u.regs.badpages = s.regs.badpages ∧ u.ageing.dcfgmap = s.ageing.dcfgmap ∧ u.ageing.rows.map (·.2) = s.ageing.rows.map (·.2) ∧ u.fuse = s.fuse ∧
      u.boot = (if boot = 0 then s.boot else { s.boot with images := [a, b, c] }) ∧
      (boot ≠ 0 → 224 ≤ on.length → u.regs.lcount = on.length ∧ u.regs.ltab = on) ∧
      (boot = 0 ∨ on.length < 224 → u.regs.lcount = 0 ∧ u.regs.ltab = [])

/-- A flit has its CRC over its first 248 bytes. A port that is down takes nothing. A flit with a bad CRC is NAKed; one out of
sequence only acknowledges; an accepted one has its packets performed, and answered where they ask; an answer for an engine is kept
for it. Without an ACK for 2 µs a port resends all it has in order; after the sixteenth time it goes down, PWRMSI is raised, what
waits for an answer through it is lost, and a COLL it has not carried over halts its block (17 R473, R474). Flits without packets
outside the sequence are the model's choice (log 30), and so are the forms of the packets, one flit acknowledging all before it, and
the answer in a flit of its own (log 65). -/
def Obligations.LinkFlits : Prop :=
  ∀ (s : State) (port : Fin 24) (p : Port), s.ports[port.val]? = some p →
    let n := port.val
    let acked := fun (u : State) (ack : BitVec 12) (l : List Flit) =>
      let kept := match p.unack.findIdx? fun f => f.seq == ack with
        | some i => p.unack.drop (i + 1)
        | none => p.unack
      (u.ports[n]?).map (·.unack) = some (kept ++ l)
    (∀ (seq ack : BitVec 12) (vc : Fin 4) (nak : Bool) (ps : List LinkPacket),
      let bs := flitBytes seq vc ack nak ps
      Flit.make seq vc ack nak ps = ⟨seq, vc, ack, nak, crc64 bs, ps⟩ ∧ bs.length = 248 ∧
      ofBytes (bs.take 2) = seq.toNat + 4096 * vc.val ∧ ofBytes ((bs.drop 2).take 2) = ack.toNat + 4096 * nak.toNat ∧
      (bs.drop 4).take 4 = [0, 0, 0, 0] ∧ ∀ crc, (Flit.mk seq vc ack nak crc ps).good = true ↔ crc = crc64 bs) ∧
    (∀ f : Flit, p.down = true → exec (.flitReceive port f) s = .next s) ∧
    (∀ f : Flit, p.down = false → f.good = false →
      exec (.flitReceive port f) s = .next { s with out := .flit n (.make (p.tx - 1) 1 (p.rx - 1) true []) :: s.out }) ∧
    (∀ f : Flit, p.down = false → f.good = true → f.nak = false →
      (f.packets = [] ∨ f.seq ≠ p.rx → ∃ u, exec (.flitReceive port f) s = .next u ∧ u.homes = s.homes ∧ u.out = s.out ∧ acked u f.ack [] ∧
        (u.ports[n]?).map (·.rx) = some p.rx) ∧
      (f.seq = p.rx → p.unack.length ≤ 510 →
        (∀ tag a len, f.packets = [.read tag a len none] → (∀ i, i < len → a + i < 0x06000000000 ∧ s.migOf (a + i) = none ∧ s.poisoned (a + i) = false) → 0 < len →
          let ans : Flit := .make p.tx 1 p.rx false [.answer tag (Memory.bytes s.homes.mem a len) false 0]
          ∃ u, exec (.flitReceive port f) s = .next u ∧ u.homes.mem = s.homes.mem ∧ u.out = .flit n ans :: s.out ∧ acked u f.ack [ans] ∧
            (u.ports[n]?).map (fun x => (x.rx, x.tx)) = some (p.rx + 1, p.tx + 1)) ∧
        (∀ tag a bs, f.packets = [.write tag a bs none none] → (∀ i, i < bs.length → a + i < 0x06000000000 ∧ s.migOf (a + i) = none) → bs ≠ [] →
          let ans : Flit := .make p.tx 1 p.rx false [.answer tag [] false 0]
          ∃ u, exec (.flitReceive port f) s = .next u ∧ Stored s.homes.mem u.homes.mem a bs ∧ u.out = .flit n ans :: s.out ∧ acked u f.ack [ans]) ∧
        (∀ rid data bad ts, f.packets = [.answer rid data bad ts] → s.regs.routeNext = [] →
          (∀ r ∈ s.homes.remotes, r.rid = rid → ∀ x, r.who.head? = some x → 2 ≤ x) → ∃ u, exec (.flitReceive port f) s = .next u ∧
          (u.ports[n]?).map (·.rx) = some (p.rx + 1) ∧ u.out = .flit n (.make (p.tx - 1) 1 p.rx false []) :: s.out ∧
          u.homes = { s.homes with remotes := s.homes.remotes.map fun r =>
            if r.rid = rid ∧ r.lost = false then { r with answer := some data, poison := bad, ts := ts } else r }))) ∧
    (p.down = true ∨ p.unack = [] ∨ s.clock.toNat < p.sentAt + 2000 → exec (.ackTimeout port) s = .next s) ∧
    (p.down = false → p.unack ≠ [] → p.sentAt + 2000 ≤ s.clock.toNat →
      let again := (p.unack.map fun f => Out.flit n (.make f.seq f.vc (p.rx - 1) f.nak f.packets)).reverse ++ s.out
      (p.tries + 1 < 16 → exec (.ackTimeout port) s =
        .next { s with out := again, ports := s.ports.set n { p with tries := p.tries + 1, sentAt := s.clock.toNat } }) ∧
      (16 ≤ p.tries + 1 → ∃ u, exec (.ackTimeout port) s = .next u ∧ (u.ports[n]?).map (fun x => (x.down, x.unack)) = some (true, []) ∧
        (∀ m < 2048, s.power.msi = m → (s.vector m).mask = false → u.out = .msix (s.vector m).addr.toNat (s.vector m).data.toNat :: again) ∧
        (s.regs.routeNext = [] → s.collsAt n = [] → u.homes = { s.homes with
          remotes := s.homes.remotes.map fun r => if r.port = n ∧ r.answer = none then { r with lost := true } else r }) ∧
        ∀ (j : Join) (b c : Nat) (k : Block), j ∈ s.coll.joins → j.owner = some (b, c) → j.fin = false → s.blocks[b]? = some k → k.halt = none →
          (∃ f ∈ p.unack, ∃ x ∈ f.packets, ∃ g np op re ty ro ct sd, x = .collJoin g j.rank np op re ty ro ct sd ∧ g.toNat = j.group) →
          ∃ k' h, u.blocks[b]? = some k' ∧ k'.halt = some h ∧ h.code = 0x1E))

/-- While the security processor runs, each SPDM request is answered, and nothing else changes. The measurement of each block asked for
is the SHA3-384 of what it covers: the boot ROM, the three images, the deconfigured cores with the guard bands, the fuses; a CHALLENGE
and a measurement request are signed. The answer says nothing else: two packages that agree in these give the same (17 R481, R482). The
other bytes of an answer and the signature are free values, and what the signature covers is the model's choice (log 68). -/
def Obligations.Attestation : Prop :=
  ∀ (s : State) (i : Instr), (i = .getVersion ∨ i = .getCapabilities ∨ (∃ r, i = .negotiateAlgorithms r) ∨ i = .getDigests ∨
      (∃ o n, i = .getCertificate o n) ∨ (∃ c, i = .challenge c) ∨ ∃ x c, i = .getMeasurements x c) →
    (s.regs.bootstat ≠ 1 → exec i s = .next s) ∧
    (s.regs.bootstat = 1 → ∃ code m body sig, exec i s = .next { s with out := .spdm code m body sig :: s.out } ∧
      (∀ x ∈ m, 1 ≤ x.1 ∧ x.1 ≤ 6 ∧ x.2 = sha3384 (s.measured x.1)) ∧
      (m.map (·.1) = match i with
        | .challenge _ => [1, 2, 3, 4, 5, 6]
        | .getMeasurements n _ => if n = 255 then [1, 2, 3, 4, 5, 6] else if 1 ≤ n ∧ n ≤ 6 then [n] else []
        | _ => []) ∧
      (((∃ c, i = .challenge c) ∨ ∃ n c, i = .getMeasurements n c) → ∃ msg, sig = Config.mldsaSign s.boot.seed msg) ∧
      ∀ t : State, t.regs.bootstat = 1 → t.boot = s.boot → t.fuse = s.fuse → t.ageing.dcfgmap = s.ageing.dcfgmap →
        t.ageing.rows.map (·.2.1) = s.ageing.rows.map (·.2.1) → exec i t = .next { t with out := .spdm code m body sig :: t.out }) ∧
    s.measured 1 = s.boot.rom ∧
    (∀ n x, n < 3 → s.boot.images[n]? = some x → s.measured (n + 2) = toBytes x.version 8 ++ x.body) ∧
    ∀ t : State, (s.measured 6 = t.measured 6 → s.fuse.length = t.fuse.length → s.boot.keyHash.length = t.boot.keyHash.length → s.fuse = t.fuse) ∧
      (s.measured 5 = t.measured 5 → s.ageing.dcfgmap.length = t.ageing.dcfgmap.length → s.ageing.dcfgmap = t.ageing.dcfgmap)

/-- Each loop of the controller keeps every awake cluster's frequency in its pool's band and its block limit in 1 to 32, enforces
the idle floor as the lowest cap, scales the partitions' grants to the cap, and raises the guard band of a cluster below its
margin (17 R475, R476, R478, R479). The hardware limits act beneath it, and clusters sleep, change pools and move partitions
once they are empty (13 R389; 17 R471, R475, R477, R480). That the sensors' readings and the targets within these limits are the
event's operands, that the controller does nothing during an update, and the count of halvings are the model's choices (log 61). -/
def Obligations.PowerControl : Prop :=
  (∀ (s : State) (x : Sensors),
    (s.power.fwctl = true ∨ s.power.wdogged = true → exec (.powerControllerLoop x) s = .next s) ∧
    (s.power.fwctl = false → s.power.wdogged = false → ∃ u, exec (.powerControllerLoop x) s = .next u ∧ u.homes = s.homes ∧ u.blocks = s.blocks ∧
      u.power.asleep = s.power.asleep ∧ u.power.idlew = BitVec.ofNat 32 x.idleW ∧ u.power.written = s.clock.toNat ∧
      (∀ cl f, s.power.freq[cl]? = some f → ∃ f', u.power.freq[cl]? = some f' ∧
        if s.power.asleep.getD cl false then f' = f else
          let o := s.power.opt.getD (s.power.pool.getD cl 0) (0, 0)
          let lo := max o.1 s.power.envLo
          let hi := min o.2 s.power.envHi
          if lo ≤ hi then lo ≤ f' ∧ f' ≤ hi ∧ (lo ≤ x.freq.getD cl f → x.freq.getD cl f ≤ hi → f' = x.freq.getD cl f) else f' = s.power.envLo) ∧
      (∀ cl l, s.power.limit[cl]? = some l → s.power.asleep.getD cl false = false → ∃ l', u.power.limit[cl]? = some l' ∧ 1 ≤ l' ∧ l' ≤ 32) ∧
      (let cap := max (if s.power.cap = 0 then 2600 else min 2600 s.power.cap.toNat) (x.idleW % 2 ^ 32)
       let sum := (s.power.floors.map (·.1)).sum
       ∀ (p : Nat) (f : Nat × Nat × Bool), s.power.floors[p]? = some f → u.power.floors[p]? = some (f.1, if cap < sum then f.1 * cap / sum else f.1, decide (cap < sum ∧ f.1 * cap / sum < f.1))) ∧
      ((if s.power.cap = 0 then 2600 else min 2600 s.power.cap.toNat) < x.idleW % 2 ^ 32 → u.power.stat.getLsbD 0 = true) ∧
      ∀ cl m gb w, s.ageing.rows[cl]? = some (m, gb, w) → cl < 72 →
        let m' := (x.margin[cl]?.map (· % 256)).getD m
        u.ageing.rows[cl]? = some (m', if m' < s.ageing.mthr ∧ gb < 8 then gb + 1 else gb, w || decide (m' < s.ageing.mthr ∧ gb = 8)))) ∧
  (∀ s : State,
    (s.power.wdogged = true ∨ s.clock.toNat < s.power.written + 10000000 → exec .watchdog s = .next s) ∧
    (s.power.wdogged = false → s.power.written + 10000000 ≤ s.clock.toNat → ∃ u, exec .watchdog s = .next u ∧ u.power.wdogged = true ∧
      u.power.freq = s.power.freq.map (fun _ => s.power.fsafe) ∧ u.regs.ramps = List.replicate 8 0x53924924 ∧ u.power.stat.getLsbD 2 = true) ∧
    (∃ u, exec .firmwareUpdate s = .next u ∧ u.power.fwctl = true ∧ u.power.freq = s.power.freq.map (fun _ => s.power.fsafe) ∧
      u.power.stat.getLsbD 5 = true) ∧
    exec .firmwareRestart s = .next { s with power := { s.power with fwctl := false, stat := s.power.stat &&& 0xFFFFFFDF } } ∧
    exec .thermalShutdown s = .next { s with power := { s.power with stopped := true } } ∧
    (∀ v : Word, ∃ u, exec (.pwrstatClear v) s = .next u ∧ u.homes = s.homes ∧ u.blocks = s.blocks ∧
      (∀ i, u.power.stat.getLsbD i = (s.power.stat.getLsbD i && !(decide (i < 5) && v.getLsbD i))) ∧
      u.power.wdogged = (s.power.wdogged && !v.getLsbD 2)) ∧
    (∀ d, d < 8 → (∃ u, exec (.currentLimit d) s = .next u ∧ u.power.halved = s.power.halved.set d (s.power.halved.getD d 0 + 1) ∧ u.power.stat.getLsbD 4 = true) ∧
      (∃ u, exec (.thermalThrottle d) s = .next u ∧ u.power.hot = s.power.hot.set d true ∧ u.power.stat.getLsbD 3 = true) ∧
      exec (.dieCools d) s = .next { s with power := { s.power with hot := s.power.hot.set d false } }) ∧
    (∀ cl, cl < 72 →
      let busy := ∃ k ∈ s.blocks, k.place = .live ∧ k.core / 4 = cl
      (s.power.sleep.getD cl false = false ∨ busy → exec (.clusterSleep cl) s = .next s) ∧
      (s.power.sleep.getD cl false = true → ¬ busy → exec (.clusterSleep cl) s = .next { s with power := { s.power with asleep := s.power.asleep.set cl true } }) ∧
      exec (.clusterWake cl) s = .next { s with power := { s.power with sleep := s.power.sleep.set cl false, asleep := s.power.asleep.set cl false } } ∧
      (busy → exec (.clusterPoolChange cl) s = .next s ∧ exec (.clusterPartitionMove cl) s = .next s) ∧
      (¬ busy → s.power.poolNext.getD cl 0 ≠ s.power.pool.getD cl 0 → ∃ u, exec (.clusterPoolChange cl) s = .next u ∧
        u.power = { s.power with pool := s.power.pool.set cl (s.power.poolNext.getD cl 0) }) ∧
      (¬ busy → s.regs.clpartNext.getD cl 0 ≠ s.regs.clpart.getD cl 0 → exec (.clusterPartitionMove cl) s =
        .next { s with regs := { s.regs with clpart := s.regs.clpart.set cl (s.regs.clpartNext.getD cl 0) } })) ∧
    ∀ v : DWord,
      (288 ≤ v.toNat % 512 → exec (.dcfg v) s = .next s) ∧
      (v.toNat % 512 < 288 → ∃ u, exec (.dcfg v) s = .next u ∧ u.regs = s.regs ∧ u.blocks = s.blocks ∧
        ∀ c b, s.ageing.dcfgmap[c]? = some b → u.ageing.dcfgmap[c]? =
          some (b || decide (c = v.toNat % 512) || (v.getLsbD 9 && decide (c / 4 = v.toNat % 512 / 4)))))

/-- GO 1 starts a run: RBSTAT 5 for a descriptor that breaks R458, 3 for too few survivors, 4 where a manifest is not that of the
step, else the survivors are chosen; each unit writes the lost members' bytes, solved from the survivors', at their places;
RBSTAT 2 after the last, 6 where the run is stopped or a survivor is lost. The survivors' manifests and units lie on this package, in
HBM or SCM, or on another, which answers; until all have answered the unit waits. Any K members of a stripe with K data members and P
and Q give back every byte (16 R457–R460). RBSTAT 5 for a reserved byte is the model's choice (log 96). -/
def Obligations.RebuildRun : Prop :=
  (∀ s : State, (s.rebuild.stat ≠ 1 → exec .rebuildStop s = .next s ∧ exec .rebuildUnit s = .next s ∧ exec .rebuildComplete s = .next s) ∧
    (s.rebuild.stat = 1 → ∃ u, exec .rebuildStop s = .next u ∧ u.rebuild.stat = 6 ∧ u.homes.mem = s.homes.mem) ∧
    (s.rebuild.stat = 1 → s.rebuild.plan ≠ [] →
      (planUnits s.rebuild.plan ≤ s.rebuild.done.toNat → ∃ u, exec .rebuildComplete s = .next u ∧ u.rebuild.stat = 2 ∧ u.homes.mem = s.homes.mem) ∧
      (s.rebuild.done.toNat < planUnits s.rebuild.plan → exec .rebuildComplete s = .next s))) ∧
  (∀ (s : State) (v : Word), v.getLsbD 0 = false → ∃ u, exec (.rebuildStart v) s = .next u ∧ u.homes.mem = s.homes.mem ∧
    u.rebuild.stat = if s.rebuild.stat = 1 then 6 else s.rebuild.stat) ∧
  (∀ bs : List Byte,
    let n := planK bs + planM bs
    let role := fun (i : Nat) => (planMember bs i).role
    (planHeadOk bs = true ↔ 1 ≤ planK bs ∧ planK bs ≤ 14 ∧ 1 ≤ planM bs ∧ planM bs ≤ 2) ∧
    (planOk bs = true ↔ planHeadOk bs = true ∧ rdN bs 2 2 < 2 ^ n ∧ planUnit bs % 32 = 0 ∧ 32 ≤ planUnit bs ∧ planUnit bs ≤ 2 ^ 20 ∧ 1 ≤ planUnits bs ∧
      rdN bs 0x10 8 % 256 = 0 ∧ planUnit bs ≤ rdN bs 0x10 8 ∧ Zeros bs 0x18 0x40 ∧ (∀ r, r < planK bs → ∃ i, i < n ∧ role i = r) ∧
      (∀ i j, i < n → j < n → role i = role j → i = j) ∧
      ∀ i, i < n → (role i < planK bs ∨ role i = 0x80 ∨ role i = 0x81) ∧ (planMember bs i).pkg < 1024 ∧ (planMember bs i).stride % 32 = 0 ∧
        Zeros (bs.drop (64 + 64 * i)) 3 8 ∧ Zeros (bs.drop (64 + 64 * i)) 0x28 0x40 ∧ (planLost bs i = false → (planMember bs i).live = 0))) ∧
  (∀ (s : State) (v : Word) (a : Nat), v.getLsbD 0 = true → LocalPa s s.rebuild.desc.toNat 64 a →
    let h := Memory.bytes s.homes.mem a 64
    let ends := fun (code : Nat) => ∃ u, exec (.rebuildStart v) s = .next u ∧ u.rebuild.stat = code ∧ u.homes.mem = s.homes.mem
    (planHeadOk h = false → ends 5) ∧
    (planHeadOk h = true → LocalPa s s.rebuild.desc.toNat (planSize h) a →
      let bs := Memory.bytes s.homes.mem a (planSize h)
      let alive := (List.range (planK bs + planM bs)).filter fun i => !planLost bs i
      (planOk bs = false → ends 5) ∧
      (planOk bs = true → alive.length < planK bs → ends 3) ∧
      ∀ m : Nat → List Byte, planOk bs = true → planK bs ≤ alive.length →
        (∀ i ∈ alive, MemberBytes s i (planMember bs i).man 64 (if i ∈ planChosen bs then 0 else 1) (m i)) →
        let fits := ∀ i ∈ alive, rdN (m i) 4 1 = 1 ∧ rdN (m i) 8 4 = planStep bs
        (¬ fits → ends 4) ∧
        (fits → ∃ u, exec (.rebuildStart v) s = .next u ∧ u.homes.mem = s.homes.mem ∧ u.rebuild.stat = 1 ∧ u.rebuild.plan = bs ∧
          u.rebuild.done = 0 ∧ u.rebuild.chosen = planChosen bs))) ∧
  (∀ (s : State) (m : Nat → List Byte) (w x : Nat), s.rebuild.stat = 1 →
    let bs := s.rebuild.plan
    let u := s.rebuild.done.toNat
    let n := planUnit bs
    let place := fun (i : Nat) => (planMember bs i).slot + u * (planMember bs i).stride
    let got := fun (i : Nat) => MemberBytes s i (place i) n (planUnits bs * n) (m i)
    let sent := fun (i : Nat) => (s.sent [7, 10, i, place i] fun rid => .rebuildRead rid (place i % 2 ^ 42) n (planUnits bs * n)).map fun r => (r.lost, r.answer)
    let waits := fun (i : Nat) => (∃ p, s.phys (place i) = .remote p) ∧ (sent i = none ∨ sent i = some (false, none))
    let gone := fun (i : Nat) => (∃ p, s.phys (place i) = .remote p) ∧ sent i = some (true, none)
    bs ≠ [] → u < planUnits bs → 0 < n →
    (((List.range (planK bs + planM bs)).filter (planLost bs)) = [x] → (planMember bs x).live = 0 → (∀ i ∈ s.rebuild.chosen, got i) →
      LocalPa s (place x) n w → ∃ t, exec .rebuildUnit s = .next t ∧ t.rebuild.done = s.rebuild.done + 1 ∧ t.rebuild.stat = 1 ∧
        Stored s.homes.mem t.homes.mem w ((List.range n).map fun j =>
          BitVec.ofNat 8 (roleByte (solveData (planK bs) (s.rebuild.chosen.map fun i =>
            ((planMember bs i).role, ((m i).getD j 0).toNat))) (planMember bs x).role))) ∧
    ((∀ i ∈ s.rebuild.chosen, got i ∨ waits i) → (∃ i ∈ s.rebuild.chosen, waits i) → ∃ t, exec .rebuildUnit s = .next t ∧
      t.homes.mem = s.homes.mem ∧ t.rebuild.done = s.rebuild.done ∧ t.rebuild.stat = 1) ∧
    ((∀ i ∈ s.rebuild.chosen, got i ∨ waits i ∨ gone i) → (∃ i ∈ s.rebuild.chosen, gone i) → ∃ t, exec .rebuildUnit s = .next t ∧
      t.homes.mem = s.homes.mem ∧ t.rebuild.done = s.rebuild.done ∧ t.rebuild.stat = 6)) ∧
  ∀ (data : List Nat) (roles : List Nat), data.length ≤ 14 → (∀ d ∈ data, d < 256) → roles.Nodup → roles.length = data.length →
    (∀ r ∈ roles, r < data.length ∨ r = 0x80 ∨ r = 0x81) → solveData data.length (roles.map fun r => (r, roleByte data r)) = data

/-! ### The package as a whole -/

/-- A bundle's turn executes the instruction that the word at its PC holds, and notes that the bundle has issued; a sequencer's
likewise, and an event's turn is that event. So what the statements say of an instruction holds of the step that runs it, unless
a Caravan queue has no room for what it would enter: then it waits, and only the turn is spent (01 R21, R30, R38, R39; 02 R85; 09
R256; 14 R391). The agenda that names whose turn it is, and the whole of an instruction waiting for that room, are the model's choices
(logs 8, 21). -/
def Obligations.StepRunsDecoded : Prop :=
  ∀ (s : State) (rest : List Turn), s.power.stopped = false → s.regs.bootstat = 1 →
    let steps := fun (u : State) (i : Instr) => (∀ t, exec i u = .next t → step s = .next (if u.carFits t then t else u)) ∧
      ((∀ t, exec i u ≠ .next t) → step s = exec i u)
    (∀ (n : Nat) (bd : Bundle) (k : Block) (w : DWord) (i : Instr), s.agenda = .bundle n :: rest → s.bundles.find? (fun b => b.id == n) = some bd →
      s.mayIssue bd = true → s.blocks[bd.blk]? = some k → s.farCode k true = none → s.walkNeed bd.blk k true bd.lanes bd.pc = none →
      s.fetchWord k true bd.pc = .ok w → decode w = .ok i →
      steps { s with agenda := rest, cur := .bundle n
                     bundles := s.bundles.map fun x => if x.id = bd.id then { x with issued := some s.cycle } else x
                     cores := upd s.cores k.core fun c => { c with issued := (s.cycle, (if c.issued.1 = s.cycle then c.issued.2 else 0) + 1) } } i) ∧
    (∀ (b : Nat) (k : Block) (w : DWord) (i : Instr), s.agenda = .sequencer b :: rest → s.resident? b = some k → s.seqMoves b k = true →
      s.farCode k false = none → s.walkNeed b k false [] k.seq.pc = none → k.seq.idx ≠ 0 → s.fetchWord k false k.seq.pc = .ok w → decode w = .ok i →
      steps { s with agenda := rest, cur := .sequencer b, blocks := s.blocks.set b { k with seq := { k.seq with issued := some s.cycle } } } i) ∧
    ∀ i : Instr, s.agenda = .event i :: rest → steps { s with agenda := rest, cur := .none } i

/-- Words written out bit by bit from the spec's encodings decode to the instructions they stand for; a word with an unassigned
opcode or a field that breaks a rule decodes to none (02 R85, R87, R91; 03 R103; 05 R145; 08 R228; 10 R284, R291; 12 R339; 16
R440, R448; 18 R489; 19 R496). -/
def Obligations.DecodedWords : Prop :=
  (∀ x ∈ ([(0x0000005001003001, .iadd 0 (.v 6) (.v 4 .ident) (.v 5 .ident)), (0x200200600140102F, .isetp 0 2 (.v 5 .ident) (.v 6 .x1) .lt),
      (0x000000318E00581D, .shri 0 (.v 11) (.k 40) 3), (0x000000200000582C, .movi 0 (.v 11) 2), (0x003863C180007043, .ffma 0 (.v 14) (.q 0) (.k 44) (.v 14 .ident)),
      (0x0008300000802080, .ld 0 (.v 4) ⟨2, 2, .gen, .s64, 0, .thread, .rlx⟩), (0x0005B12000803081, .st 0 (.v 6) ⟨2, 1, .pers, .s64, 0, .package, .rel⟩),
      (0x0051078001005185, .atomAdd 1 (.v 10) ⟨4, .s32, 0, .die, .sc, .v 20 .ident⟩), (0x00000030000000B0, .bra 0 3), (0xB4, .exit 0),
      (0x00000250000000B7, .trap 0 0x25), (0x00800080000000E7, .strm 0 0 1 1), (0x0FC0FFF0000000F5, .wait 0 63 63 0 63),
      (0x00800030000000F3, .barExpect 0 3 .bytes none 4096), (0x00000030000000F1, .barWait 0 3 (.imm false)), (0x00000007003400D0, .kloop 13 7),
      (0x32830A80000000DE, .cpy 0 false 3 20 21 12), (0x00000410000000E5, .qcfg 0 0 0 true 0 4), (0x000000030050B8C7, .kshr 0 23 20 0 3)] : List (Nat × Instr)), decodeTableWord 64 x.1 = some x.2) ∧
  ∀ x ∈ [0x38, 0x3F, 0x5D, 0x7F, 0x97, 0x9F, 0xA4, 0xBF, 0xEC, 0xF7, 0xFF, 0x1000000000000001, 0x0000005001308001, 0x20000000B4], decodeTableWord 64 x = none

/-- After reset of a part with every core working (the model's choice of the part, log 9): every enabled core is listed, every pool
of registers is whole, no block is resident, memory holds nothing, no queue is enabled, and the registers with a reset value
hold it (04 R108; 09 R241; 13 R390; 15 R431, R435; 16 R453, R462; 17 R475, R478, R508). That the SCM reads 0 (log 1), that the TLBs
are empty (log 4) and the value 0 of the registers the spec gives none (log 7) are the model's choices. -/
def Obligations.ResetState : Prop :=
  let s := State.reset
  s.blocks = [] ∧ s.bundles = [] ∧ s.homes.mem = [] ∧ s.homes.media = [] ∧ s.homes.caravan = [[], []] ∧ s.clock = 0 ∧ s.regs.devid = 0x0C09 ∧
  s.regs.enable = false ∧ s.regs.bootstat = 1 ∧ s.regs.lcount = 288 ∧ s.regs.ltab = List.range 288 ∧ s.regs.ramps = List.replicate 8 0x53924924 ∧
  s.power.fsafe = 48 ∧ s.power.limit = List.replicate 72 32 ∧ s.ageing.mthr = 32 ∧ s.seif = ⟨0, false, false, false, 0, 0, 0, List.replicate 16 (0, 0, 0, 0), 0, 0⟩ ∧
  (∀ c ∈ s.cores, c.free = 4096 ∧ c.clk = 0 ∧ c.tlb = [] ∧ c.l1 = []) ∧ s.cores.length = 288 ∧ (∀ q, q < 4096 → (s.queue q).cfg.ctrl = 0) ∧
  ∀ p ∈ s.ports, p.down = false

/-- Every well-formed instruction word's encoding decodes to it, and every word that decodes is the encoding of what it decodes to:
no bit of an encoding is dropped, and each word has one meaning (02 R61–R87). -/
def Obligations.EncodeDecode : Prop :=
  (∀ i : Instr, i.wf = true → i.isWord = true → ∃ w, encode i = some w ∧ decode w = .ok i) ∧
  ∀ (w : DWord) (i : Instr), decode w = .ok i → i.wf = true ∧ i.isWord = true ∧ encode i = some w

/-- Every step keeps the memories and every scratchpad in canonical form, so that equal contents are equal data (the model's
invariant, log 1). -/
def Obligations.StepKeepsInvariant : Prop := ∀ s t : State, s.Inv → step s = .next t → t.Inv

/-- The invariant holds after reset (the model's invariant, log 1). -/
def Obligations.InvariantAtReset : Prop := State.reset.Inv
end

