-- ==== Sys2Proof/Laws/State.lean ====
section
/-! SUPPORT. One lemma per field per update for the updates of the state, and what the erasures of Safety.lean keep. -/

namespace Sys2Proof.Machine

/-! ### Lists -/

theorem upd_getElem? {α : Type} (l : List α) (i j : Nat) (f : α → α) :
    (upd l i f)[j]? = if i = j then (l[j]?).map f else l[j]? := by
  unfold upd; rw [List.getElem?_modify]; split <;> simp

@[simp] theorem upd_length {α : Type} (l : List α) (i : Nat) (f : α → α) : (upd l i f).length = l.length := by simp [upd]

theorem map_upd_same {α β : Type} (l : List α) (i : Nat) (f : α → α) (g : α → β) (h : ∀ x, l[i]? = some x → g (f x) = g x) :
    (upd l i f).map g = l.map g := by
  apply List.ext_getElem?; intro j
  simp only [List.getElem?_map, upd_getElem?]
  split
  · next e => subst e; cases hx : l[i]? with
    | none => rfl
    | some x => simp [h x hx]
  · rfl

/-! ### Updates, field by field -/

@[simp] theorem modBlock_agenda (s : State) (b f) : (s.modBlock b f).agenda = s.agenda := rfl
@[simp] theorem modBlock_cur (s : State) (b f) : (s.modBlock b f).cur = s.cur := rfl
@[simp] theorem modBlock_fresh (s : State) (b f) : (s.modBlock b f).fresh = s.fresh := rfl
@[simp] theorem modBlock_out (s : State) (b f) : (s.modBlock b f).out = s.out := rfl
@[simp] theorem modBlock_cycle (s : State) (b f) : (s.modBlock b f).cycle = s.cycle := rfl
@[simp] theorem modBlock_clock (s : State) (b f) : (s.modBlock b f).clock = s.clock := rfl
@[simp] theorem modBlock_lowPower (s : State) (b f) : (s.modBlock b f).lowPower = s.lowPower := rfl
@[simp] theorem modBlock_fuse (s : State) (b f) : (s.modBlock b f).fuse = s.fuse := rfl
@[simp] theorem modBlock_cores (s : State) (b f) : (s.modBlock b f).cores = s.cores := rfl
@[simp] theorem modBlock_bundles (s : State) (b f) : (s.modBlock b f).bundles = s.bundles := rfl
@[simp] theorem modBlock_homes (s : State) (b f) : (s.modBlock b f).homes = s.homes := rfl
@[simp] theorem modBlock_mirage (s : State) (b f) : (s.modBlock b f).mirage = s.mirage := rfl
@[simp] theorem modBlock_front (s : State) (b f) : (s.modBlock b f).front = s.front := rfl
@[simp] theorem modBlock_regs (s : State) (b f) : (s.modBlock b f).regs = s.regs := rfl
@[simp] theorem modBlock_seif (s : State) (b f) : (s.modBlock b f).seif = s.seif := rfl
@[simp] theorem modBlock_rebuild (s : State) (b f) : (s.modBlock b f).rebuild = s.rebuild := rfl
@[simp] theorem modBlock_power (s : State) (b f) : (s.modBlock b f).power = s.power := rfl
@[simp] theorem modBlock_ageing (s : State) (b f) : (s.modBlock b f).ageing = s.ageing := rfl
@[simp] theorem modBlock_ports (s : State) (b f) : (s.modBlock b f).ports = s.ports := rfl
@[simp] theorem modBlock_barchan (s : State) (b f) : (s.modBlock b f).barchan = s.barchan := rfl
@[simp] theorem modBlock_boot (s : State) (b f) : (s.modBlock b f).boot = s.boot := rfl
@[simp] theorem modBlock_coll (s : State) (b f) : (s.modBlock b f).coll = s.coll := rfl
@[simp] theorem modThread_agenda (s : State) (b t f) : (s.modThread b t f).agenda = s.agenda := rfl
@[simp] theorem modThread_cur (s : State) (b t f) : (s.modThread b t f).cur = s.cur := rfl
@[simp] theorem modThread_fresh (s : State) (b t f) : (s.modThread b t f).fresh = s.fresh := rfl
@[simp] theorem modThread_out (s : State) (b t f) : (s.modThread b t f).out = s.out := rfl
@[simp] theorem modThread_cycle (s : State) (b t f) : (s.modThread b t f).cycle = s.cycle := rfl
@[simp] theorem modThread_clock (s : State) (b t f) : (s.modThread b t f).clock = s.clock := rfl
@[simp] theorem modThread_lowPower (s : State) (b t f) : (s.modThread b t f).lowPower = s.lowPower := rfl
@[simp] theorem modThread_fuse (s : State) (b t f) : (s.modThread b t f).fuse = s.fuse := rfl
@[simp] theorem modThread_cores (s : State) (b t f) : (s.modThread b t f).cores = s.cores := rfl
@[simp] theorem modThread_bundles (s : State) (b t f) : (s.modThread b t f).bundles = s.bundles := rfl
@[simp] theorem modThread_homes (s : State) (b t f) : (s.modThread b t f).homes = s.homes := rfl
@[simp] theorem modThread_mirage (s : State) (b t f) : (s.modThread b t f).mirage = s.mirage := rfl
@[simp] theorem modThread_front (s : State) (b t f) : (s.modThread b t f).front = s.front := rfl
@[simp] theorem modThread_regs (s : State) (b t f) : (s.modThread b t f).regs = s.regs := rfl
@[simp] theorem modThread_seif (s : State) (b t f) : (s.modThread b t f).seif = s.seif := rfl
@[simp] theorem modThread_rebuild (s : State) (b t f) : (s.modThread b t f).rebuild = s.rebuild := rfl
@[simp] theorem modThread_power (s : State) (b t f) : (s.modThread b t f).power = s.power := rfl
@[simp] theorem modThread_ageing (s : State) (b t f) : (s.modThread b t f).ageing = s.ageing := rfl
@[simp] theorem modThread_ports (s : State) (b t f) : (s.modThread b t f).ports = s.ports := rfl
@[simp] theorem modThread_barchan (s : State) (b t f) : (s.modThread b t f).barchan = s.barchan := rfl
@[simp] theorem modThread_boot (s : State) (b t f) : (s.modThread b t f).boot = s.boot := rfl
@[simp] theorem modThread_coll (s : State) (b t f) : (s.modThread b t f).coll = s.coll := rfl
@[simp] theorem modThreads_agenda (s : State) (b f) : (s.modThreads b f).agenda = s.agenda := rfl
@[simp] theorem modThreads_cur (s : State) (b f) : (s.modThreads b f).cur = s.cur := rfl
@[simp] theorem modThreads_fresh (s : State) (b f) : (s.modThreads b f).fresh = s.fresh := rfl
@[simp] theorem modThreads_out (s : State) (b f) : (s.modThreads b f).out = s.out := rfl
@[simp] theorem modThreads_cycle (s : State) (b f) : (s.modThreads b f).cycle = s.cycle := rfl
@[simp] theorem modThreads_clock (s : State) (b f) : (s.modThreads b f).clock = s.clock := rfl
@[simp] theorem modThreads_lowPower (s : State) (b f) : (s.modThreads b f).lowPower = s.lowPower := rfl
@[simp] theorem modThreads_fuse (s : State) (b f) : (s.modThreads b f).fuse = s.fuse := rfl
@[simp] theorem modThreads_cores (s : State) (b f) : (s.modThreads b f).cores = s.cores := rfl
@[simp] theorem modThreads_bundles (s : State) (b f) : (s.modThreads b f).bundles = s.bundles := rfl
@[simp] theorem modThreads_homes (s : State) (b f) : (s.modThreads b f).homes = s.homes := rfl
@[simp] theorem modThreads_mirage (s : State) (b f) : (s.modThreads b f).mirage = s.mirage := rfl
@[simp] theorem modThreads_front (s : State) (b f) : (s.modThreads b f).front = s.front := rfl
@[simp] theorem modThreads_regs (s : State) (b f) : (s.modThreads b f).regs = s.regs := rfl
@[simp] theorem modThreads_seif (s : State) (b f) : (s.modThreads b f).seif = s.seif := rfl
@[simp] theorem modThreads_rebuild (s : State) (b f) : (s.modThreads b f).rebuild = s.rebuild := rfl
@[simp] theorem modThreads_power (s : State) (b f) : (s.modThreads b f).power = s.power := rfl
@[simp] theorem modThreads_ageing (s : State) (b f) : (s.modThreads b f).ageing = s.ageing := rfl
@[simp] theorem modThreads_ports (s : State) (b f) : (s.modThreads b f).ports = s.ports := rfl
@[simp] theorem modThreads_barchan (s : State) (b f) : (s.modThreads b f).barchan = s.barchan := rfl
@[simp] theorem modThreads_boot (s : State) (b f) : (s.modThreads b f).boot = s.boot := rfl
@[simp] theorem modThreads_coll (s : State) (b f) : (s.modThreads b f).coll = s.coll := rfl
@[simp] theorem modSeq_agenda (s : State) (b f) : (s.modSeq b f).agenda = s.agenda := rfl
@[simp] theorem modSeq_cur (s : State) (b f) : (s.modSeq b f).cur = s.cur := rfl
@[simp] theorem modSeq_fresh (s : State) (b f) : (s.modSeq b f).fresh = s.fresh := rfl
@[simp] theorem modSeq_out (s : State) (b f) : (s.modSeq b f).out = s.out := rfl
@[simp] theorem modSeq_cycle (s : State) (b f) : (s.modSeq b f).cycle = s.cycle := rfl
@[simp] theorem modSeq_clock (s : State) (b f) : (s.modSeq b f).clock = s.clock := rfl
@[simp] theorem modSeq_lowPower (s : State) (b f) : (s.modSeq b f).lowPower = s.lowPower := rfl
@[simp] theorem modSeq_fuse (s : State) (b f) : (s.modSeq b f).fuse = s.fuse := rfl
@[simp] theorem modSeq_cores (s : State) (b f) : (s.modSeq b f).cores = s.cores := rfl
@[simp] theorem modSeq_bundles (s : State) (b f) : (s.modSeq b f).bundles = s.bundles := rfl
@[simp] theorem modSeq_homes (s : State) (b f) : (s.modSeq b f).homes = s.homes := rfl
@[simp] theorem modSeq_mirage (s : State) (b f) : (s.modSeq b f).mirage = s.mirage := rfl
@[simp] theorem modSeq_front (s : State) (b f) : (s.modSeq b f).front = s.front := rfl
@[simp] theorem modSeq_regs (s : State) (b f) : (s.modSeq b f).regs = s.regs := rfl
@[simp] theorem modSeq_seif (s : State) (b f) : (s.modSeq b f).seif = s.seif := rfl
@[simp] theorem modSeq_rebuild (s : State) (b f) : (s.modSeq b f).rebuild = s.rebuild := rfl
@[simp] theorem modSeq_power (s : State) (b f) : (s.modSeq b f).power = s.power := rfl
@[simp] theorem modSeq_ageing (s : State) (b f) : (s.modSeq b f).ageing = s.ageing := rfl
@[simp] theorem modSeq_ports (s : State) (b f) : (s.modSeq b f).ports = s.ports := rfl
@[simp] theorem modSeq_barchan (s : State) (b f) : (s.modSeq b f).barchan = s.barchan := rfl
@[simp] theorem modSeq_boot (s : State) (b f) : (s.modSeq b f).boot = s.boot := rfl
@[simp] theorem modSeq_coll (s : State) (b f) : (s.modSeq b f).coll = s.coll := rfl
@[simp] theorem modCore_agenda (s : State) (c f) : (s.modCore c f).agenda = s.agenda := rfl
@[simp] theorem modCore_cur (s : State) (c f) : (s.modCore c f).cur = s.cur := rfl
@[simp] theorem modCore_fresh (s : State) (c f) : (s.modCore c f).fresh = s.fresh := rfl
@[simp] theorem modCore_out (s : State) (c f) : (s.modCore c f).out = s.out := rfl
@[simp] theorem modCore_cycle (s : State) (c f) : (s.modCore c f).cycle = s.cycle := rfl
@[simp] theorem modCore_clock (s : State) (c f) : (s.modCore c f).clock = s.clock := rfl
@[simp] theorem modCore_lowPower (s : State) (c f) : (s.modCore c f).lowPower = s.lowPower := rfl
@[simp] theorem modCore_fuse (s : State) (c f) : (s.modCore c f).fuse = s.fuse := rfl
@[simp] theorem modCore_cores (s : State) (c f) : (s.modCore c f).cores = upd s.cores c f := rfl
@[simp] theorem modCore_blocks (s : State) (c f) : (s.modCore c f).blocks = s.blocks := rfl
@[simp] theorem modCore_bundles (s : State) (c f) : (s.modCore c f).bundles = s.bundles := rfl
@[simp] theorem modCore_homes (s : State) (c f) : (s.modCore c f).homes = s.homes := rfl
@[simp] theorem modCore_mirage (s : State) (c f) : (s.modCore c f).mirage = s.mirage := rfl
@[simp] theorem modCore_front (s : State) (c f) : (s.modCore c f).front = s.front := rfl
@[simp] theorem modCore_regs (s : State) (c f) : (s.modCore c f).regs = s.regs := rfl
@[simp] theorem modCore_seif (s : State) (c f) : (s.modCore c f).seif = s.seif := rfl
@[simp] theorem modCore_rebuild (s : State) (c f) : (s.modCore c f).rebuild = s.rebuild := rfl
@[simp] theorem modCore_power (s : State) (c f) : (s.modCore c f).power = s.power := rfl
@[simp] theorem modCore_ageing (s : State) (c f) : (s.modCore c f).ageing = s.ageing := rfl
@[simp] theorem modCore_ports (s : State) (c f) : (s.modCore c f).ports = s.ports := rfl
@[simp] theorem modCore_barchan (s : State) (c f) : (s.modCore c f).barchan = s.barchan := rfl
@[simp] theorem modCore_boot (s : State) (c f) : (s.modCore c f).boot = s.boot := rfl
@[simp] theorem modCore_coll (s : State) (c f) : (s.modCore c f).coll = s.coll := rfl
@[simp] theorem modBundle_agenda (s : State) (n f) : (s.modBundle n f).agenda = s.agenda := rfl
@[simp] theorem modBundle_cur (s : State) (n f) : (s.modBundle n f).cur = s.cur := rfl
@[simp] theorem modBundle_fresh (s : State) (n f) : (s.modBundle n f).fresh = s.fresh := rfl
@[simp] theorem modBundle_out (s : State) (n f) : (s.modBundle n f).out = s.out := rfl
@[simp] theorem modBundle_cycle (s : State) (n f) : (s.modBundle n f).cycle = s.cycle := rfl
@[simp] theorem modBundle_clock (s : State) (n f) : (s.modBundle n f).clock = s.clock := rfl
@[simp] theorem modBundle_lowPower (s : State) (n f) : (s.modBundle n f).lowPower = s.lowPower := rfl
@[simp] theorem modBundle_fuse (s : State) (n f) : (s.modBundle n f).fuse = s.fuse := rfl
@[simp] theorem modBundle_cores (s : State) (n f) : (s.modBundle n f).cores = s.cores := rfl
@[simp] theorem modBundle_blocks (s : State) (n f) : (s.modBundle n f).blocks = s.blocks := rfl
@[simp] theorem modBundle_homes (s : State) (n f) : (s.modBundle n f).homes = s.homes := rfl
@[simp] theorem modBundle_mirage (s : State) (n f) : (s.modBundle n f).mirage = s.mirage := rfl
@[simp] theorem modBundle_front (s : State) (n f) : (s.modBundle n f).front = s.front := rfl
@[simp] theorem modBundle_regs (s : State) (n f) : (s.modBundle n f).regs = s.regs := rfl
@[simp] theorem modBundle_seif (s : State) (n f) : (s.modBundle n f).seif = s.seif := rfl
@[simp] theorem modBundle_rebuild (s : State) (n f) : (s.modBundle n f).rebuild = s.rebuild := rfl
@[simp] theorem modBundle_power (s : State) (n f) : (s.modBundle n f).power = s.power := rfl
@[simp] theorem modBundle_ageing (s : State) (n f) : (s.modBundle n f).ageing = s.ageing := rfl
@[simp] theorem modBundle_ports (s : State) (n f) : (s.modBundle n f).ports = s.ports := rfl
@[simp] theorem modBundle_barchan (s : State) (n f) : (s.modBundle n f).barchan = s.barchan := rfl
@[simp] theorem modBundle_boot (s : State) (n f) : (s.modBundle n f).boot = s.boot := rfl
@[simp] theorem modBundle_coll (s : State) (n f) : (s.modBundle n f).coll = s.coll := rfl
@[simp] theorem modHomes_agenda (s : State) (f) : (s.modHomes f).agenda = s.agenda := rfl
@[simp] theorem modHomes_cur (s : State) (f) : (s.modHomes f).cur = s.cur := rfl
@[simp] theorem modHomes_fresh (s : State) (f) : (s.modHomes f).fresh = s.fresh := rfl
@[simp] theorem modHomes_out (s : State) (f) : (s.modHomes f).out = s.out := rfl
@[simp] theorem modHomes_cycle (s : State) (f) : (s.modHomes f).cycle = s.cycle := rfl
@[simp] theorem modHomes_clock (s : State) (f) : (s.modHomes f).clock = s.clock := rfl
@[simp] theorem modHomes_lowPower (s : State) (f) : (s.modHomes f).lowPower = s.lowPower := rfl
@[simp] theorem modHomes_fuse (s : State) (f) : (s.modHomes f).fuse = s.fuse := rfl
@[simp] theorem modHomes_cores (s : State) (f) : (s.modHomes f).cores = s.cores := rfl
@[simp] theorem modHomes_blocks (s : State) (f) : (s.modHomes f).blocks = s.blocks := rfl
@[simp] theorem modHomes_bundles (s : State) (f) : (s.modHomes f).bundles = s.bundles := rfl
@[simp] theorem modHomes_homes (s : State) (f) : (s.modHomes f).homes = f s.homes := rfl
@[simp] theorem modHomes_mirage (s : State) (f) : (s.modHomes f).mirage = s.mirage := rfl
@[simp] theorem modHomes_front (s : State) (f) : (s.modHomes f).front = s.front := rfl
@[simp] theorem modHomes_regs (s : State) (f) : (s.modHomes f).regs = s.regs := rfl
@[simp] theorem modHomes_seif (s : State) (f) : (s.modHomes f).seif = s.seif := rfl
@[simp] theorem modHomes_rebuild (s : State) (f) : (s.modHomes f).rebuild = s.rebuild := rfl
@[simp] theorem modHomes_power (s : State) (f) : (s.modHomes f).power = s.power := rfl
@[simp] theorem modHomes_ageing (s : State) (f) : (s.modHomes f).ageing = s.ageing := rfl
@[simp] theorem modHomes_ports (s : State) (f) : (s.modHomes f).ports = s.ports := rfl
@[simp] theorem modHomes_barchan (s : State) (f) : (s.modHomes f).barchan = s.barchan := rfl
@[simp] theorem modHomes_boot (s : State) (f) : (s.modHomes f).boot = s.boot := rfl
@[simp] theorem modHomes_coll (s : State) (f) : (s.modHomes f).coll = s.coll := rfl
@[simp] theorem modRegs_agenda (s : State) (f) : (s.modRegs f).agenda = s.agenda := rfl
@[simp] theorem modRegs_cur (s : State) (f) : (s.modRegs f).cur = s.cur := rfl
@[simp] theorem modRegs_fresh (s : State) (f) : (s.modRegs f).fresh = s.fresh := rfl
@[simp] theorem modRegs_out (s : State) (f) : (s.modRegs f).out = s.out := rfl
@[simp] theorem modRegs_cycle (s : State) (f) : (s.modRegs f).cycle = s.cycle := rfl
@[simp] theorem modRegs_clock (s : State) (f) : (s.modRegs f).clock = s.clock := rfl
@[simp] theorem modRegs_lowPower (s : State) (f) : (s.modRegs f).lowPower = s.lowPower := rfl
@[simp] theorem modRegs_fuse (s : State) (f) : (s.modRegs f).fuse = s.fuse := rfl
@[simp] theorem modRegs_cores (s : State) (f) : (s.modRegs f).cores = s.cores := rfl
@[simp] theorem modRegs_blocks (s : State) (f) : (s.modRegs f).blocks = s.blocks := rfl
@[simp] theorem modRegs_bundles (s : State) (f) : (s.modRegs f).bundles = s.bundles := rfl
@[simp] theorem modRegs_homes (s : State) (f) : (s.modRegs f).homes = s.homes := rfl
@[simp] theorem modRegs_mirage (s : State) (f) : (s.modRegs f).mirage = s.mirage := rfl
@[simp] theorem modRegs_front (s : State) (f) : (s.modRegs f).front = s.front := rfl
@[simp] theorem modRegs_regs (s : State) (f) : (s.modRegs f).regs = f s.regs := rfl
@[simp] theorem modRegs_seif (s : State) (f) : (s.modRegs f).seif = s.seif := rfl
@[simp] theorem modRegs_rebuild (s : State) (f) : (s.modRegs f).rebuild = s.rebuild := rfl
@[simp] theorem modRegs_power (s : State) (f) : (s.modRegs f).power = s.power := rfl
@[simp] theorem modRegs_ageing (s : State) (f) : (s.modRegs f).ageing = s.ageing := rfl
@[simp] theorem modRegs_ports (s : State) (f) : (s.modRegs f).ports = s.ports := rfl
@[simp] theorem modRegs_barchan (s : State) (f) : (s.modRegs f).barchan = s.barchan := rfl
@[simp] theorem modRegs_boot (s : State) (f) : (s.modRegs f).boot = s.boot := rfl
@[simp] theorem modRegs_coll (s : State) (f) : (s.modRegs f).coll = s.coll := rfl
@[simp] theorem modFront_agenda (s : State) (f) : (s.modFront f).agenda = s.agenda := rfl
@[simp] theorem modFront_cur (s : State) (f) : (s.modFront f).cur = s.cur := rfl
@[simp] theorem modFront_fresh (s : State) (f) : (s.modFront f).fresh = s.fresh := rfl
@[simp] theorem modFront_out (s : State) (f) : (s.modFront f).out = s.out := rfl
@[simp] theorem modFront_cycle (s : State) (f) : (s.modFront f).cycle = s.cycle := rfl
@[simp] theorem modFront_clock (s : State) (f) : (s.modFront f).clock = s.clock := rfl
@[simp] theorem modFront_lowPower (s : State) (f) : (s.modFront f).lowPower = s.lowPower := rfl
@[simp] theorem modFront_fuse (s : State) (f) : (s.modFront f).fuse = s.fuse := rfl
@[simp] theorem modFront_cores (s : State) (f) : (s.modFront f).cores = s.cores := rfl
@[simp] theorem modFront_blocks (s : State) (f) : (s.modFront f).blocks = s.blocks := rfl
@[simp] theorem modFront_bundles (s : State) (f) : (s.modFront f).bundles = s.bundles := rfl
@[simp] theorem modFront_homes (s : State) (f) : (s.modFront f).homes = s.homes := rfl
@[simp] theorem modFront_mirage (s : State) (f) : (s.modFront f).mirage = s.mirage := rfl
@[simp] theorem modFront_front (s : State) (f) : (s.modFront f).front = f s.front := rfl
@[simp] theorem modFront_regs (s : State) (f) : (s.modFront f).regs = s.regs := rfl
@[simp] theorem modFront_seif (s : State) (f) : (s.modFront f).seif = s.seif := rfl
@[simp] theorem modFront_rebuild (s : State) (f) : (s.modFront f).rebuild = s.rebuild := rfl
@[simp] theorem modFront_power (s : State) (f) : (s.modFront f).power = s.power := rfl
@[simp] theorem modFront_ageing (s : State) (f) : (s.modFront f).ageing = s.ageing := rfl
@[simp] theorem modFront_ports (s : State) (f) : (s.modFront f).ports = s.ports := rfl
@[simp] theorem modFront_barchan (s : State) (f) : (s.modFront f).barchan = s.barchan := rfl
@[simp] theorem modFront_boot (s : State) (f) : (s.modFront f).boot = s.boot := rfl
@[simp] theorem modFront_coll (s : State) (f) : (s.modFront f).coll = s.coll := rfl
@[simp] theorem modMirage_agenda (s : State) (f) : (s.modMirage f).agenda = s.agenda := rfl
@[simp] theorem modMirage_cur (s : State) (f) : (s.modMirage f).cur = s.cur := rfl
@[simp] theorem modMirage_fresh (s : State) (f) : (s.modMirage f).fresh = s.fresh := rfl
@[simp] theorem modMirage_out (s : State) (f) : (s.modMirage f).out = s.out := rfl
@[simp] theorem modMirage_cycle (s : State) (f) : (s.modMirage f).cycle = s.cycle := rfl
@[simp] theorem modMirage_clock (s : State) (f) : (s.modMirage f).clock = s.clock := rfl
@[simp] theorem modMirage_lowPower (s : State) (f) : (s.modMirage f).lowPower = s.lowPower := rfl
@[simp] theorem modMirage_fuse (s : State) (f) : (s.modMirage f).fuse = s.fuse := rfl
@[simp] theorem modMirage_cores (s : State) (f) : (s.modMirage f).cores = s.cores := rfl
@[simp] theorem modMirage_blocks (s : State) (f) : (s.modMirage f).blocks = s.blocks := rfl
@[simp] theorem modMirage_bundles (s : State) (f) : (s.modMirage f).bundles = s.bundles := rfl
@[simp] theorem modMirage_homes (s : State) (f) : (s.modMirage f).homes = s.homes := rfl
@[simp] theorem modMirage_mirage (s : State) (f) : (s.modMirage f).mirage = f s.mirage := rfl
@[simp] theorem modMirage_front (s : State) (f) : (s.modMirage f).front = s.front := rfl
@[simp] theorem modMirage_regs (s : State) (f) : (s.modMirage f).regs = s.regs := rfl
@[simp] theorem modMirage_seif (s : State) (f) : (s.modMirage f).seif = s.seif := rfl
@[simp] theorem modMirage_rebuild (s : State) (f) : (s.modMirage f).rebuild = s.rebuild := rfl
@[simp] theorem modMirage_power (s : State) (f) : (s.modMirage f).power = s.power := rfl
@[simp] theorem modMirage_ageing (s : State) (f) : (s.modMirage f).ageing = s.ageing := rfl
@[simp] theorem modMirage_ports (s : State) (f) : (s.modMirage f).ports = s.ports := rfl
@[simp] theorem modMirage_barchan (s : State) (f) : (s.modMirage f).barchan = s.barchan := rfl
@[simp] theorem modMirage_boot (s : State) (f) : (s.modMirage f).boot = s.boot := rfl
@[simp] theorem modMirage_coll (s : State) (f) : (s.modMirage f).coll = s.coll := rfl
@[simp] theorem emit_agenda (s : State) (o) : (s.emit o).agenda = s.agenda := rfl
@[simp] theorem emit_cur (s : State) (o) : (s.emit o).cur = s.cur := rfl
@[simp] theorem emit_fresh (s : State) (o) : (s.emit o).fresh = s.fresh := rfl
@[simp] theorem emit_out (s : State) (o) : (s.emit o).out = o :: s.out := rfl
@[simp] theorem emit_cycle (s : State) (o) : (s.emit o).cycle = s.cycle := rfl
@[simp] theorem emit_clock (s : State) (o) : (s.emit o).clock = s.clock := rfl
@[simp] theorem emit_lowPower (s : State) (o) : (s.emit o).lowPower = s.lowPower := rfl
@[simp] theorem emit_fuse (s : State) (o) : (s.emit o).fuse = s.fuse := rfl
@[simp] theorem emit_cores (s : State) (o) : (s.emit o).cores = s.cores := rfl
@[simp] theorem emit_blocks (s : State) (o) : (s.emit o).blocks = s.blocks := rfl
@[simp] theorem emit_bundles (s : State) (o) : (s.emit o).bundles = s.bundles := rfl
@[simp] theorem emit_homes (s : State) (o) : (s.emit o).homes = s.homes := rfl
@[simp] theorem emit_mirage (s : State) (o) : (s.emit o).mirage = s.mirage := rfl
@[simp] theorem emit_front (s : State) (o) : (s.emit o).front = s.front := rfl
@[simp] theorem emit_regs (s : State) (o) : (s.emit o).regs = s.regs := rfl
@[simp] theorem emit_seif (s : State) (o) : (s.emit o).seif = s.seif := rfl
@[simp] theorem emit_rebuild (s : State) (o) : (s.emit o).rebuild = s.rebuild := rfl
@[simp] theorem emit_power (s : State) (o) : (s.emit o).power = s.power := rfl
@[simp] theorem emit_ageing (s : State) (o) : (s.emit o).ageing = s.ageing := rfl
@[simp] theorem emit_ports (s : State) (o) : (s.emit o).ports = s.ports := rfl
@[simp] theorem emit_barchan (s : State) (o) : (s.emit o).barchan = s.barchan := rfl
@[simp] theorem emit_boot (s : State) (o) : (s.emit o).boot = s.boot := rfl
@[simp] theorem emit_coll (s : State) (o) : (s.emit o).coll = s.coll := rfl

theorem blocks_modBlock (s : State) (b j : Nat) (f : Block → Block) :
    (s.modBlock b f).blocks[j]? = if b = j then (s.blocks[j]?).map f else s.blocks[j]? := upd_getElem? _ _ _ _

theorem thread?_modThread (s : State) (b t b' t' : Nat) (f : Thread → Thread) :
    (s.modThread b t f).thread? b' t' = if b = b' ∧ t = t' then (s.thread? b' t').map f else s.thread? b' t' := by
  unfold State.thread? State.modThread
  rw [blocks_modBlock]
  by_cases hb : b = b'
  · subst hb
    cases h : s.blocks[b]? with
    | none => simp
    | some k => simp [upd_getElem?]
  · simp [hb]

theorem thread?_modBlock (s : State) (b b' t : Nat) (f : Block → Block) (h : ∀ k, (f k).threads = k.threads) :
    (s.modBlock b f).thread? b' t = s.thread? b' t := by
  unfold State.thread?
  rw [blocks_modBlock]
  split
  · next e => subst e; cases hk : s.blocks[b]? <;> simp [h]
  · rfl

/-! ### The erasures -/

theorem still_fixed (s t : State) (h : t.still = s.still) : t.fixed = s.fixed := by
  have hb : ∀ u : State, u.fixed =
      { u.still with blocks := u.still.blocks.map fun k => { k with threads := k.threads.map fun th => { th with v := [], pred := 0, pend := 0 } } } := by
    intro u
    simp only [State.fixed, State.still, List.map_map]
    congr 1
    apply List.map_congr_left
    intro k _
    simp only [Function.comp, Block.still, List.map_map]
    congr 1
  rw [hb s, hb t, h]

theorem still_modBlock (s : State) (b : Nat) (f : Block → Block) (h : ∀ k, s.blocks[b]? = some k → (f k).still = k.still) :
    (s.modBlock b f).still = s.still := by
  simp only [State.still, State.modBlock]; rw [map_upd_same _ _ _ _ h]

theorem still_modThread (s : State) (b t : Nat) (f : Thread → Thread) (h : ∀ th, s.thread? b t = some th → (f th).still = th.still) :
    (s.modThread b t f).still = s.still := by
  apply still_modBlock
  intro k hk
  simp only [Block.still]
  rw [map_upd_same]
  intro th hth
  exact h th (by simp [State.thread?, hk, hth])

theorem fixed_modThread (s : State) (b t : Nat) (f : Thread → Thread) (h : ∀ th, s.thread? b t = some th → (f th).fixed = th.fixed) :
    (s.modThread b t f).fixed = s.fixed := by
  simp only [State.fixed, State.still, State.modThread, State.modBlock]
  congr 1
  apply map_upd_same
  intro k hk
  simp only [Block.still]
  congr 1
  apply map_upd_same
  intro th hth
  exact h th (by simp [State.thread?, hk, hth])

/-- Equal erasures: the thread is there in both, and equal when erased. -/
theorem still_thread (s t : State) (h : t.still = s.still) (b tid : Nat) :
    (t.thread? b tid).map Thread.still = (s.thread? b tid).map Thread.still := by
  have e : ∀ u : State, (u.thread? b tid).map Thread.still = (u.still.blocks[b]?).bind (·.threads[tid]?) := by
    intro u
    simp only [State.thread?, State.still, List.getElem?_map]
    cases u.blocks[b]? <;> simp [Block.still]
  rw [e, e, h]

end Sys2Proof.Machine
end

