-- ==== Sys2Proof/Laws/Lanes.lean ====
section
/-! SUPPORT. What halts, parking and the end of an instruction keep, and what a vector instruction does to its lanes. -/

namespace Sys2Proof.Machine

theorem foldl_still {α : Type} (f : State → α → State) (h : ∀ s x, (f s x).still = s.still) (l : List α) (s : State) :
    (l.foldl f s).still = s.still := by
  induction l generalizing s with
  | nil => rfl
  | cons x l ih => rw [List.foldl_cons, ih, h]

@[simp] theorem haltBlock_still (s : State) (b c d w f p a i) : (s.haltBlock b c d w f p a i).still = s.still := by
  apply still_modBlock
  intro k _
  split <;> rfl
@[simp] theorem haltBlock_thread? (s : State) (b c d w f p a i) (b' t' : Nat) :
    (s.haltBlock b c d w f p a i).thread? b' t' = s.thread? b' t' := by
  apply thread?_modBlock
  intro k; split <;> rfl
@[simp] theorem haltAt_still (s : State) (b t c p a) : (s.haltAt b t c p a).still = s.still := by
  rw [State.haltAt, still_modThread, haltBlock_still]; intros; rfl
@[simp] theorem haltLane_still (s : State) (bd : Bundle) (t c a) : (s.haltLane bd t c a).still = s.still := by
  rw [State.haltLane, still_modBlock, haltAt_still]; intros; rfl
@[simp] theorem badTarget_still (s : State) (bd : Bundle) (t a) : (s.badTarget bd t a).still = s.still := by
  unfold State.badTarget; split
  · split <;> simp
  · rfl
@[simp] theorem goto_still (t : Thread) (pc : DWord) : (t.goto pc).still = t.still := rfl
@[simp] theorem park_still (s : State) (b t pc p) : (s.park b t pc p).still = s.still := by
  apply still_modThread; intros; rfl
@[simp] theorem dropBundle_still (s : State) (bd : Bundle) (c) : (s.dropBundle bd c).still = s.still := by
  simp only [State.dropBundle, State.modCore, State.still]
  congr 1
  apply map_upd_same; intros; rfl
@[simp] theorem modBundle_still (s : State) (n f) : (s.modBundle n f).still = s.still := rfl

/-- A lane that leaves its clause changes nothing but itself. -/
theorem leaveClause_mod (P : Thread → Thread → Prop) (s : State) (bd : Bundle) (k : Block) (t : Nat) (g : Option Goto) (s' : State)
    (henter : ∀ th pc a y i, P th (th.enter pc a y i))
    (hwait : ∀ th pc a, P th { th with pc := pc, status := .ready false, arrival := a })
    (h : s.leaveClause bd k t g = .inl s') : s' = s ∨ ∃ f, s' = s.modThread bd.blk t f ∧ ∀ th, P th (f th) := by
  have key : ∀ a (x : State), (if s.targetOk k true a = true then .inl x else .inr a) = (.inl s' : State ⊕ DWord) → s' = x := by
    intro a x e; split at e <;> cases e; rfl
  unfold State.leaveClause at h
  split at h
  · split at h
    · split at h
      · exact .inr ⟨_, key _ _ h, fun th => henter ..⟩
      · cases h; exact .inr ⟨_, rfl, fun th => hwait ..⟩
    · split at h
      · cases h; exact .inr ⟨_, rfl, fun th => henter ..⟩
      · exact .inr ⟨_, key _ _ h, fun th => henter ..⟩
      · exact .inr ⟨_, key _ _ h, fun th => henter ..⟩
  · cases h; exact .inl rfl
theorem leaveClause_still (s : State) (bd : Bundle) (k : Block) (t : Nat) (g : Option Goto) (s' : State)
    (h : s.leaveClause bd k t g = .inl s') : s'.still = s.still := by
  obtain rfl | ⟨f, rfl, hf⟩ := leaveClause_mod (fun a b => b.still = a.still) s bd k t g s' (fun _ _ _ _ _ => rfl) (fun _ _ _ => rfl) h
  · rfl
  · exact still_modThread _ _ _ _ fun th _ => hf th

theorem leaveLanes_still (bd : Bundle) (k : Block) (gs : Nat → Option Goto) (l : List Nat) (s : State) :
    (s.leaveLanes bd k gs l).1.still = s.still := by
  induction l generalizing s with
  | nil => rfl
  | cons t ts ih =>
    unfold State.leaveLanes
    split
    · next s' h => rw [ih, leaveClause_still _ _ _ _ _ _ h]
    · dsimp only; rw [ih, still_modThread]; intros; rfl

/-- Lanes that go on change nothing but where threads stand. -/
@[simp] theorem goOn_still (s : State) (bd : Bundle) (k : Block) (gs : Nat → Option Goto) (stay : List Nat) :
    (s.goOn bd k gs stay).still = s.still := by
  have goto : ∀ (l : List Nat) (s : State), (l.foldl (fun s t => s.modThread bd.blk t (·.goto bd.next)) s).still = s.still :=
    fun l s => foldl_still _ (by intros; apply still_modThread; intros; rfl) l s
  unfold State.goOn
  split
  · rw [dropBundle_still]
  · split
    · rw [modBundle_still, goto]
    · have := leaveLanes_still bd k gs stay (s.dropBundle bd k.core)
      split <;> next e => rw [e] at this; simpa using this

/-- Skid of a halted block's lanes, as the end of an instruction counts it (08 R231). -/
def State.skidded (s : State) (bd : Bundle) (k : Block) : State :=
  if k.halt.isSome then bd.lanes.foldl (fun s t => s.modThread bd.blk t Thread.skidOne) s else s
theorem skidded_still (s : State) (bd : Bundle) (k : Block) : (s.skidded bd k).still = s.still := by
  unfold State.skidded; split
  · exact foldl_still _ (by intros; apply still_modThread; intros; rfl) _ _
  · rfl
theorem modThread_id (s : State) (b t : Nat) (f : Thread → Thread) (h : ∀ th, s.thread? b t = some th → f th = th) : s.modThread b t f = s := by
  have e : upd s.blocks b (fun k => { k with threads := upd k.threads t f }) = s.blocks := by
    apply List.ext_getElem?; intro j
    rw [upd_getElem?]; split
    · next hj =>
      subst hj
      cases hk : s.blocks[b]? with
      | none => rfl
      | some k =>
        have : upd k.threads t f = k.threads := by
          apply List.ext_getElem?; intro i
          rw [upd_getElem?]; split
          · next hi =>
            subst hi
            cases ht : k.threads[t]? with
            | none => rfl
            | some th => rw [Option.map_some, h th (by simp [State.thread?, hk, ht])]
          · rfl
        simp [this]
    · rfl
  unfold State.modThread State.modBlock
  rw [e]
theorem foldl_id {α β : Type} (f : β → α → β) (x : β) (l : List α) (h : ∀ y ∈ l, f x y = x) : l.foldl f x = x := by
  induction l with
  | nil => rfl
  | cons y l ih => rw [List.foldl_cons, h y (by simp), ih fun z hz => h z (by simp [hz])]

theorem skidded_status (s : State) (bd : Bundle) (k : Block) (b t : Nat) :
    ((s.skidded bd k).thread? b t).map (·.status) = (s.thread? b t).map (·.status) := by
  have fold : ∀ (l : List Nat) (s : State), ((l.foldl (fun s t => s.modThread bd.blk t Thread.skidOne) s).thread? b t).map (·.status) =
      (s.thread? b t).map (·.status) := by
    intro l
    induction l with
    | nil => intro s; rfl
    | cons u l ih =>
      intro s
      rw [List.foldl_cons, ih, thread?_modThread]
      split
      · cases s.thread? b t <;> rfl
      · rfl
  unfold State.skidded; split
  · exact fold _ _
  · rfl

theorem lanesIn_together {s : State} {bd : Bundle} (h : Together s bd) : s.lanesIn bd = bd.lanes :=
  List.filter_eq_self.2 fun t ht => by simp [h t ht]

/-- While all lanes of a bundle are in it, the end of an instruction is that they go on. -/
theorem endInstr_eq (s : State) (bd : Bundle) (k : Block) (gs : Nat → Option Goto) (hk : s.blocks[bd.blk]? = some k) (h : Together s bd) :
    s.endInstr bd gs = (s.skidded bd k).goOn bd k gs bd.lanes := by
  have h1 : Together (s.skidded bd k) bd := fun t ht => by rw [skidded_status]; exact h t ht
  have e1 : (if k.halt.isSome && true then (s.lanesIn bd).foldl (fun s t => s.modThread bd.blk t Thread.skidOne) s else s) = s.skidded bd k := by
    rw [lanesIn_together h, Bool.and_true]; rfl
  have e2 : (s.skidded bd k).rejoin bd = s.skidded bd k := by
    apply foldl_id
    intro t ht
    apply modThread_id
    intro th hth
    have := h1 t ht
    rw [hth] at this
    have hs : th.status = .issued := by simpa using this
    simp [hs]
  have e3 : (s.skidded bd k).octetPark bd = none := by
    unfold State.octetPark
    rw [List.filterMap_eq_nil_iff.2]
    · rfl
    · intro t ht
      have := h1 t ht
      cases hth : (s.skidded bd k).thread? bd.blk t with
      | none => rfl
      | some th => simp [hth] at this; simp [this]
  unfold State.endInstr State.endOf
  simp only [hk]
  rw [e1, e2, e3, lanesIn_together h, lanesIn_together h1]
  simp

/-- The end of an instruction changes nothing but where threads stand, while all lanes of the bundle are in it. -/
theorem endInstr_still (s : State) (bd : Bundle) (gs : Nat → Option Goto) (h : Together s bd) : (s.endInstr bd gs).still = s.still := by
  cases hk : s.blocks[bd.blk]? with
  | none => unfold State.endInstr State.endOf; simp [hk]
  | some k => rw [endInstr_eq s bd k gs hk h, goOn_still, skidded_still]
theorem endPlain_still (s : State) (bd : Bundle) (h : Together s bd) : (s.endPlain bd).still = s.still := endInstr_still _ _ _ h

/-! ### The lanes of a bundle -/

theorem order_mod (bd : Bundle) : ∀ t ∈ bd.order, t ∈ bd.lanes := by
  intro t h
  simp only [Bundle.order, List.mem_filterMap] at h
  obtain ⟨i, _, hi⟩ := h
  exact List.mem_of_find?_eq_some hi

theorem order_nodup (bd : Bundle) : bd.order.Nodup := by
  unfold Bundle.order
  have key : ∀ l : List Nat, l.Nodup → (l.filterMap fun i => bd.lanes.find? fun t => t % 8 == i).Nodup := by
    intro l
    induction l with
    | nil => simp
    | cons i l ih =>
      intro h
      rw [List.nodup_cons] at h
      rw [List.filterMap_cons]
      cases hf : bd.lanes.find? fun t => t % 8 == i with
      | none => exact ih h.2
      | some t =>
        refine List.nodup_cons.2 ⟨fun hm => ?_, ih h.2⟩
        obtain ⟨j, hj, hjt⟩ := List.mem_filterMap.1 hm
        have e1 : t % 8 = i := by have := List.find?_some hf; simpa using this
        have e2 : t % 8 = j := by have := List.find?_some hjt; simpa using this
        rw [e1] at e2
        exact h.1 (e2 ▸ hj)
  exact key _ List.nodup_range

theorem active_nodup (s : State) (bd : Bundle) (g : Guard) : (s.active bd g).Nodup :=
  by unfold State.active; split
     · exact List.nodup_nil
     · exact (order_nodup bd).sublist List.filter_sublist

theorem mem_active {s : State} {bd : Bundle} {g : Guard} {t : Nat} (h : t ∈ s.active bd g) : s.struck bd = false ∧
    t ∈ bd.order.filter fun t => match s.thread? bd.blk t with
      | some th => th.status == .issued && th.acts g
      | none => false := by
  unfold State.active at h
  split at h
  · cases h
  · next hs => exact ⟨by simpa using hs, h⟩

theorem active_thread (s : State) (bd : Bundle) (g : Guard) (t : Nat) (h : t ∈ s.active bd g) :
    ∃ th, s.thread? bd.blk t = some th ∧ th.status = .issued ∧ th.acts g = true := by
  have h := List.mem_filter.1 (mem_active h).2
  cases hth : s.thread? bd.blk t with
  | none => simp [hth] at h
  | some th => refine ⟨th, rfl, ?_⟩; simpa [hth] using h.2

/-! ### Writing a destination (04 R105) -/

theorem setReg_still (t : Thread) (n w) : (t.setReg n w).fixed = t.fixed := rfl
theorem setRegW_fields (n k v : Nat) (t : Thread) : ∃ l, t.setRegW n k v = { t with v := l } ∧ l.length = t.v.length := by
  induction k generalizing n v t with
  | zero => exact ⟨t.v, rfl, rfl⟩
  | succ k ih =>
    obtain ⟨l, hl, hlen⟩ := ih (n + 1) (v / 2 ^ 32) (t.setReg n (BitVec.ofNat 32 v))
    exact ⟨l, by rw [Thread.setRegW, hl]; rfl, by rw [hlen]; simp [Thread.setReg]⟩
theorem setRegW_reg (n k v : Nat) (t : Thread) (hb : n + k ≤ t.v.length) (j : Nat) :
    (t.setRegW n k v).reg j = if n ≤ j ∧ j < n + k then BitVec.ofNat 32 (v / 2 ^ (32 * (j - n))) else t.reg j := by
  induction k generalizing n v t with
  | zero => simp [Thread.setRegW] <;> omega
  | succ k ih =>
    rw [Thread.setRegW, ih]
    · by_cases h1 : j = n
      · subst h1
        have : j < t.v.length := by omega
        rw [if_neg (by omega), if_pos (by omega)]
        simp [Thread.setReg, Thread.reg, this]
      · by_cases h2 : n + 1 ≤ j ∧ j < n + 1 + k
        · rw [if_pos h2, if_pos (by omega), Nat.div_div_eq_div_mul, ← Nat.pow_add]
          congr 3; omega
        · rw [if_neg h2, if_neg (by omega)]
          simp [Thread.setReg, Thread.reg, List.getD, Ne.symm h1]
    · simp [Thread.setReg]; omega

theorem getLsbD_one8 (j : Nat) : (1 : BitVec 8).getLsbD j = decide (j = 0) := by
  by_cases h : j < 8
  · revert h; revert j; decide
  · have e : ((1 : BitVec 8).getLsbD j) = false := BitVec.getLsbD_of_ge _ _ (by omega)
    rw [e]; simp; omega

theorem wrsr_regs (t : Thread) (n v : Nat) : (t.wrsr n v).v = t.v ∧ (t.wrsr n v).pred = t.pred ∧ (t.wrsr n v).status = t.status ∧
    (t.wrsr n v).pend = t.pend := by
  unfold Thread.wrsr
  repeat' split
  all_goals exact ⟨rfl, rfl, rfl, rfl⟩

theorem put_landed (th : Thread) (d : DstOp) (o : LaneOut) (hb : d.bound ≤ th.regs) :
    Landed th { th.put d o with pend := th.pend ||| o.flags } d o := by
  refine ⟨rfl, ?_⟩
  match d with
  | .none => exact ⟨rfl, rfl⟩
  | .reg (.q _) _ => exact ⟨rfl, rfl⟩
  | .reg .vz _ => exact ⟨rfl, rfl⟩
  | .sys n => exact ⟨(wrsr_regs th n o.val).1, (wrsr_regs th n o.val).2.1⟩
  | .reg (.v n) w =>
    obtain ⟨l, hl, hlen⟩ := setRegW_fields n.val w o.val th
    have hb' : n.val + w ≤ th.v.length := hb
    have hr := setRegW_reg n.val w o.val th hb'
    refine ⟨?_, ?_, ?_, ?_⟩
    · simp [Thread.put, hl]
    · simp [Thread.put, hl, Thread.regs, hlen]
    · intro i hi
      have := hr (n.val + i)
      rw [if_pos (by omega)] at this
      simpa [Thread.put, Thread.reg] using this
    · intro j hj
      have := hr j
      rw [if_neg hj] at this
      simpa [Thread.put, Thread.reg] using this
  | .pred p | .preds =>
    refine ⟨rfl, fun j => ?_⟩
    simp only [Thread.put, Thread.p, BitVec.getLsbD_or, BitVec.getLsbD_and, BitVec.getLsbD_not, getLsbD_one8]
    by_cases hj : j = 0
    · simp [hj]
    · by_cases h8 : j < 8
      · cases hm : o.mask.getLsbD j <;> simp [hj, h8]
      · have e : ∀ x : BitVec 8, x.getLsbD j = false := fun x => BitVec.getLsbD_of_ge _ _ (by omega)
        simp [hj, e]

theorem landed_congr {th x y : Thread} {d : DstOp} {o : LaneOut} (h : Landed th x d o) (hv : y.v = x.v) (hp : y.pred = x.pred)
    (hq : y.pend = x.pend) : Landed th y d o := by
  have hr : ∀ j, y.reg j = x.reg j := fun j => by simp only [Thread.reg, hv]
  have hl : y.regs = x.regs := by simp only [Thread.regs, hv]
  have hpp : ∀ j, y.p j = x.p j := fun j => by simp only [Thread.p, hp]
  obtain ⟨h0, h⟩ := h
  refine ⟨hq.trans h0, ?_⟩
  match d with
  | .none | .reg (.q _) _ | .reg .vz _ | .sys _ => exact ⟨hv.trans h.1, hp.trans h.2⟩
  | .reg (.v n) w =>
    obtain ⟨a, b, c, e⟩ := h
    exact ⟨hp.trans a, hl.trans b, fun i hi => (hr _).trans (c i hi), fun j hj => (hr _).trans (e j hj)⟩
  | .pred _ | .preds => exact ⟨hv.trans h.1, fun j => (hpp j).trans (h.2 j)⟩

theorem put_fixed (th : Thread) (d : DstOp) (o : LaneOut) (p : BitVec 5) (hd : ∀ n, d ≠ .sys n) : ({ th.put d o with pend := p } : Thread).fixed = th.fixed := by
  match d with
  | .none | .reg (.q _) _ | .reg .vz _ | .pred _ | .preds => rfl
  | .sys n => exact absurd rfl (hd n)
  | .reg (.v n) w =>
    obtain ⟨l, hl, _⟩ := setRegW_fields n.val w o.val th
    simp [Thread.put, hl, Thread.fixed, Thread.still]

theorem put_status (th : Thread) (d : DstOp) (o : LaneOut) : (th.put d o).status = th.status := by
  match d with
  | .none | .reg (.q _) _ | .reg .vz _ | .pred _ | .preds => rfl
  | .sys n => exact (wrsr_regs th n o.val).2.2.1
  | .reg (.v n) w => obtain ⟨l, hl, _⟩ := setRegW_fields n.val w o.val th; simp [Thread.put, hl]

/-! ### A vector instruction (02 R69) -/

/-- The lanes of a list act one by one, each as `g` says, when each only changes its own thread and does not leave the bundle. -/
theorem eachLane_map (bd : Bundle) (f : State → Nat → State) (g : Nat → Thread → Thread) (P : Nat → Thread → Prop)
    (hf : ∀ s t th, s.thread? bd.blk t = some th → th.status = .issued → P t th → f s t = s.modThread bd.blk t (g t))
    (l : List Nat) (hl : l.Nodup) (s : State) (hs : ∀ t ∈ l, ∃ th, s.thread? bd.blk t = some th ∧ th.status = .issued ∧ P t th) :
    s.eachLane bd f l = l.foldl (fun s t => s.modThread bd.blk t (g t)) s := by
  induction l generalizing s with
  | nil => rfl
  | cons t l ih =>
    rw [List.nodup_cons] at hl
    obtain ⟨th, h1, h2, h3⟩ := hs t (by simp)
    rw [List.foldl_cons]
    unfold State.eachLane
    simp only [h1, h2, beq_self_eq_true, if_true]
    rw [hf s t th h1 h2 h3]
    apply ih hl.2
    intro u hu
    obtain ⟨uh, e1, e2, e3⟩ := hs u (by simp [hu])
    exact ⟨uh, by rw [thread?_modThread, if_neg (by rintro ⟨_, rfl⟩; exact hl.1 hu)]; exact e1, e2, e3⟩

/-- Threads of a block updated one by one. -/
theorem foldl_modThread_thread? (b : Nat) (g : Nat → Thread → Thread) (l : List Nat) (hl : l.Nodup) (s : State) (b' t' : Nat) :
    (l.foldl (fun s t => s.modThread b t (g t)) s).thread? b' t' =
      if b = b' ∧ t' ∈ l then (s.thread? b' t').map (g t') else s.thread? b' t' := by
  induction l generalizing s with
  | nil => simp
  | cons t l ih =>
    rw [List.nodup_cons] at hl
    rw [List.foldl_cons, ih hl.2, thread?_modThread]
    by_cases hb : b = b'
    · by_cases ht : t = t'
      · subst ht; simp [hb, hl.1]
      · have : t' ≠ t := fun e => ht e.symm
        simp [hb, ht, this]
    · simp [hb]
theorem foldl_modThread_fixed (b : Nat) (g : Nat → Thread → Thread) (hg : ∀ t th, (g t th).fixed = th.fixed) (l : List Nat) (s : State) :
    (l.foldl (fun s t => s.modThread b t (g t)) s).fixed = s.fixed := by
  induction l generalizing s with
  | nil => rfl
  | cons t l ih => rw [List.foldl_cons, ih, fixed_modThread]; intros; apply hg

theorem bounds_dst (s : State) (bd : Bundle) (o : VOp) (h : s.outOfBounds bd o = []) (t : Nat) (ht : t ∈ s.active bd o.guard)
    (th : Thread) (hth : s.thread? bd.blk t = some th) : o.dst.bound ≤ th.regs := by
  have hm : t ∈ bd.order := (List.mem_filter.1 (mem_active ht).2).1
  obtain ⟨th', e, _, ha⟩ := active_thread s bd o.guard t ht
  rw [hth] at e; cases e
  have := (List.filter_eq_nil_iff.1 h) t hm
  simp [hth, ha] at this
  omega

/-- A vector instruction that runs normally writes what its function makes of the lanes' operands. -/
theorem vec_wrote (s : State) (bd : Bundle) (k : Block) (o : VOp) (F : List LaneIn → List LaneOut)
    (hd : ∀ n, o.dst ≠ .sys n) (h : Ready s bd k o (outOf bd k o F)) : Wrote s (s.vec o F) bd o (outOf bd k o F) := by
  obtain ⟨h1, h2, hin, h3, h4, h5⟩ := h
  have e : s.vec o F = (((s.active bd o.guard).foldl (fun s t => s.modThread bd.blk t
      fun th => { th.put o.dst (outOf bd k o F (t % 8)) with pend := th.pend ||| (outOf bd k o F (t % 8)).flags }) s).endPlain bd) := by
    simp only [State.vec, State.onBundle, h1, h3, State.vecPlain, h2, h4, List.foldl_nil, Bool.not_false, if_true]
    congr 1
    apply eachLane_map bd _ _ (fun t th => (outOf bd k o F (t % 8)).fault = none ∧ (o.traps = true → trapCause (outOf bd k o F (t % 8)).flags th.flags = 0))
    · intro s t th hth _ hP
      have hP1 : (((F (laneViews (ownOps bd o k) o))[t % 8]?.getD (LaneOut.word 0)).fault) = none := hP.1
      have hP2 : o.traps = true → trapCause (((F (laneViews (ownOps bd o k) o))[t % 8]?.getD (LaneOut.word 0)).flags) th.flags = 0 := hP.2
      simp only [State.applyLane, hth, outOf, List.getD_eq_getElem?_getD, hP1]
      rw [if_neg]
      cases ho : o.traps
      · simp
      · simp [hP2 ho]
    · exact active_nodup ..
    · intro t ht
      obtain ⟨th, e1, e2, _⟩ := active_thread s bd o.guard t ht
      exact ⟨th, e1, e2, h5 t ht th e1⟩
  rw [e]
  have hin' : Together ((s.active bd o.guard).foldl (fun s t => s.modThread bd.blk t
      fun th => { th.put o.dst (outOf bd k o F (t % 8)) with pend := th.pend ||| (outOf bd k o F (t % 8)).flags }) s) bd := by
    intro t ht
    have := hin t ht
    rw [foldl_modThread_thread? _ _ _ (active_nodup ..)]
    split
    · rw [Option.map_map, ← this]
      congr 1
      funext th
      exact put_status ..
    · exact this
  constructor
  · rw [still_fixed _ _ (endPlain_still _ _ hin')]
    exact foldl_modThread_fixed _ _ (fun t th => put_fixed _ _ _ _ hd) _ _
  · intro b tid th hth
    have hs := still_thread _ _ (endPlain_still _ _ hin') b tid
    rw [foldl_modThread_thread? _ _ _ (active_nodup ..), hth] at hs
    by_cases hc : bd.blk = b ∧ tid ∈ s.active bd o.guard
    · rw [if_pos hc] at hs
      obtain ⟨th', e1, e2⟩ := Option.map_eq_some_iff.1 hs
      refine ⟨th', e1, ?_⟩
      rw [if_pos ⟨hc.1.symm, hc.2⟩]
      obtain ⟨hcb, hct⟩ := hc
      subst hcb
      have hl := put_landed th o.dst (outOf bd k o F (tid % 8)) (bounds_dst s bd o h4 tid hct th hth)
      have ev : th'.v = (th.put o.dst (outOf bd k o F (tid % 8))).v := (congrArg Thread.v e2 : th'.still.v = _)
      have ep : th'.pred = (th.put o.dst (outOf bd k o F (tid % 8))).pred := (congrArg Thread.pred e2 : th'.still.pred = _)
      have eq : th'.pend = th.pend ||| (outOf bd k o F (tid % 8)).flags := (congrArg Thread.pend e2 : th'.still.pend = _)
      exact landed_congr hl ev ep eq
    · rw [if_neg hc] at hs
      obtain ⟨th', e1, e2⟩ := Option.map_eq_some_iff.1 hs
      refine ⟨th', e1, ?_⟩
      rw [if_neg (fun x => hc ⟨x.1.symm, x.2⟩)]
      exact ⟨(congrArg Thread.v e2 : th'.still.v = _), (congrArg Thread.pred e2 : th'.still.pred = _),
        (congrArg Thread.pend e2 : th'.still.pend = _)⟩

/-- An instruction that is a vector instruction completes as one. -/
theorem computes_of_vec (i : Instr) (o : VOp) (F G : List LaneIn → List LaneOut) (h : ∀ s, exec i s = .next (s.vec o F))
    (hd : ∀ n, o.dst ≠ .sys n) (hFG : ∀ bd k, F (laneViews (ownOps bd o k) o) = G (laneViews (ownOps bd o k) o)) : Computes i o G := by
  intro s bd k hr
  have e : outOf bd k o F = outOf bd k o G := by funext l; simp only [outOf, hFG]
  refine ⟨_, h s, ?_⟩
  rw [← e] at hr ⊢
  exact vec_wrote s bd k o F hd hr

/-! ### Operands are as wide as their registers (00 R13) -/

theorem ofBytes_lt (l : List Byte) : ofBytes l < 256 ^ l.length := by
  induction l with
  | nil => simp [ofBytes]
  | cons b l ih =>
    have := b.isLt
    rw [ofBytes, List.length_cons, Nat.pow_succ]
    omega
theorem toBytes_length (v n : Nat) : (toBytes v n).length = n := by
  induction n generalizing v with
  | zero => rfl
  | succ n ih => simp [toBytes, ih]
theorem regW_lt (t : Thread) (n words : Nat) : t.regW n words < 2 ^ (32 * words) := by
  have h := ofBytes_lt ((List.range words).flatMap fun i => toBytes (t.reg (n + i)).toNat 4)
  rw [List.length_flatMap] at h
  have e : ((List.range words).map fun i => (toBytes (t.reg (n + i)).toNat 4).length).sum = 4 * words := by
    simp [toBytes_length, List.map_const', Nat.mul_comm]
  rw [e] at h
  calc t.regW n words < 256 ^ (4 * words) := h
    _ = 2 ^ (32 * words) := by rw [show (256 : Nat) = 2 ^ 8 from rfl, ← Nat.pow_mul]; congr 1; omega
theorem srcRead_lt (x : Src) (words : Nat) (hw : 1 ≤ words) (k : Block) (t : Thread) : srcRead x words k t < 2 ^ (32 * words) := by
  match x with
  | .v n p => exact regW_lt ..
  | .q n => exact Nat.two_pow_pos _
  | .k h =>
    simp only [srcRead]
    split
    · next e => subst e; exact (k.khalf h.val).isLt
    · next e => exact Nat.lt_of_lt_of_le (k.kreg (h.val / 2)).isLt (Nat.pow_le_pow_right (by decide) (by omega))

/-- Every source of a lane's view fits its width. -/
def Fits (o : VOp) (x : LaneIn) : Prop := ∀ n y, o.srcs[n]? = some y → x.src n < 2 ^ (32 * y.2)

theorem views_fit (bd : Bundle) (k : Block) (o : VOp) (hw : ∀ y ∈ o.srcs, 1 ≤ y.2) (x : LaneIn)
    (hx : x ∈ laneViews (ownOps bd o k) o) : Fits o x := by
  intro n y hn
  have hy := hw y (List.mem_of_getElem? hn)
  have pos : 0 < 2 ^ (32 * y.2) := Nat.two_pow_pos _
  simp only [laneViews, List.mem_map] at hx
  obtain ⟨i, _, rfl⟩ := hx
  split
  · simp [LaneIn.none, LaneIn.src, pos]
  · simp only [LaneIn.src]
    have hlt : n < o.srcs.length := (List.getElem?_eq_some_iff.1 hn).1
    rw [List.getD_eq_getElem?_getD, List.getElem?_map, List.getElem?_range hlt]
    simp only [Option.map_some, Option.getD_some]
    split
    · next t vs hj =>
      generalize (((o.srcs[n]?).map fun x => patLane (srcPat x.1) i).getD i) = j at hj
      have hj := Option.join_eq_some_iff.1 hj
      simp only [ownOps, List.getElem?_map, Option.map_eq_some_iff] at hj
      obtain ⟨j', _, hb⟩ := hj
      obtain ⟨tid, _, hm⟩ := Option.bind_eq_some_iff.1 hb
      obtain ⟨th, _, he⟩ := Option.map_eq_some_iff.1 hm
      cases he
      rw [List.getD_eq_getElem?_getD, List.getElem?_map, hn]
      exact srcRead_lt _ _ hy _ _
    · exact pos

/-- A pointwise instruction completes as its function says, wherever that agrees with the meaning on operands that fit. -/
theorem computes_of_map (i : Instr) (o : VOp) (f g : LaneIn → LaneOut) (h : ∀ s, exec i s = .next (s.vecMap o f))
    (hd : ∀ n, o.dst ≠ .sys n) (hw : ∀ y ∈ o.srcs, 1 ≤ y.2) (hfg : ∀ x, Fits o x → f x = g x) : Computes i o (·.map g) := by
  apply computes_of_vec i o (·.map f)
  · exact h
  · exact hd
  · intro bd k
    exact List.map_congr_left fun x hx => hfg x (views_fit bd k o hw x hx)

end Sys2Proof.Machine
end

