-- ==== Sys2Proof/Laws/Flow.lean ====
section
/-! SUPPORT. Where lanes go at the end of an instruction: code reads nothing of the threads, lanes go to the next word, or leave
their clause. -/

namespace Sys2Proof.Machine

/-! ### Fetching and the clause map read no block or bundle, and nothing of a core but its TLB -/

/-- The same package with other blocks, bundles and cores. -/
def State.other (s : State) (bl : List Block) (bu : List Bundle) (co : List Core) : State :=
  { s with blocks := bl, bundles := bu, cores := co }

variable (s : State) (bl : List Block) (bu : List Bundle) (co : List Core)

theorem pteAt_other (ea : Nat) : (s.other bl bu co).pteAt ea = s.pteAt ea := rfl
theorem walkLevels_other (ctx va : Nat) (l : List (Nat × Nat × Bool × Bool × Nat)) (base : Nat) :
    walkLevels (s.other bl bu co) ctx va base l = walkLevels s ctx va base l := by
  induction l generalizing base with
  | nil => rfl
  | cons x l ih => obtain ⟨a, b, c, d, e⟩ := x; simp only [walkLevels, ih, pteAt_other]
theorem walk_other (ctx va : Nat) : (s.other bl bu co).walk ctx va = s.walk ctx va := by
  unfold State.walk State.walkFrom; rw [walkLevels_other]; rfl
theorem xlate_other (ctx va : Nat) (a : Acc) : (s.other bl bu co).xlate ctx va a = s.xlate ctx va a := by
  simp only [State.xlate, walk_other]; rfl

/-- Two lists of cores with the same TLBs. -/
abbrev SameTlbs (co co' : List Core) : Prop := co'.map (·.tlb) = co.map (·.tlb)
theorem SameTlbs.get {co co' : List Core} (h : SameTlbs co co') (c : Nat) : co'[c]?.map (·.tlb) = co[c]?.map (·.tlb) := by
  rw [← List.getElem?_map, ← List.getElem?_map, h]

variable {co} (ht : SameTlbs s.cores co)
include ht

theorem xlateTlb_other (c ctx va : Nat) (a : Acc) : (s.other bl bu co).xlateTlb c ctx va a = s.xlateTlb c ctx va a := by
  have e : (s.other bl bu co).tlbEntry c ctx va = s.tlbEntry c ctx va := by
    simp only [State.tlbEntry, State.other, ht.get c]
  simp only [State.xlateTlb, e]; rfl
theorem xlateAt_other (c : Option Nat) (ctx va : Nat) (a : Acc) : (s.other bl bu co).xlateAt c ctx va a = s.xlateAt c ctx va a := by
  cases c with
  | none => exact xlate_other ..
  | some c => simp only [State.xlateAt, xlateTlb_other s bl bu ht, xlate_other]
theorem peek_other (c : Option Nat) (ctx va : Nat) (a : Acc) : (s.other bl bu co).peek c ctx va a = s.peek c ctx va a := by
  simp only [State.peek, xlateAt_other s bl bu ht]; rfl
theorem fetchWord_other (k : Block) (thr : Bool) (pc : DWord) : (s.other bl bu co).fetchWord k thr pc = s.fetchWord k thr pc := by
  simp only [State.fetchWord, peek_other s bl bu ht]; rfl
theorem mapBit_other (k : Block) (thr : Bool) (off : Nat) : (s.other bl bu co).mapBit k thr off = s.mapBit k thr off := by
  simp only [State.mapBit, peek_other s bl bu ht]; rfl
theorem targetOk_other (k : Block) (thr : Bool) (a : DWord) : (s.other bl bu co).targetOk k thr a = s.targetOk k thr a := by
  simp only [State.targetOk, mapBit_other s bl bu ht]; rfl

omit ht
variable {s bl bu}

/-- Two states that differ in blocks, bundles and cores only, and not in the cores' TLBs. -/
def Differ (s t : State) : Prop := t = s.other t.blocks t.bundles t.cores ∧ SameTlbs s.cores t.cores
theorem Differ.refl (s : State) : Differ s s := ⟨rfl, rfl⟩
theorem Differ.trans {s t u : State} (h : Differ s t) (h' : Differ t u) : Differ s u := by
  refine ⟨?_, h'.2.trans h.2⟩
  rw [h'.1]; simp only [State.other]; rw [h.1]; rfl
theorem Differ.modThread (s : State) (b t : Nat) (f : Thread → Thread) : Differ s (s.modThread b t f) := ⟨rfl, rfl⟩
theorem Differ.modBlock (s : State) (b : Nat) (f : Block → Block) : Differ s (s.modBlock b f) := ⟨rfl, rfl⟩
theorem Differ.dropBundle (s : State) (bd : Bundle) (c : Nat) : Differ s (s.dropBundle bd c) :=
  ⟨rfl, map_upd_same _ _ _ _ fun _ _ => rfl⟩
theorem Differ.modBundle (s : State) (n : Nat) (f : Bundle → Bundle) : Differ s (s.modBundle n f) := ⟨rfl, rfl⟩
theorem Differ.targetOk {s t : State} (h : Differ s t) (k : Block) (thr : Bool) (a : DWord) : t.targetOk k thr a = s.targetOk k thr a := by
  rw [h.1]; exact targetOk_other _ _ _ h.2 ..
theorem Differ.fetchWord {s t : State} (h : Differ s t) (k : Block) (thr : Bool) (a : DWord) : t.fetchWord k thr a = s.fetchWord k thr a := by
  rw [h.1]; exact fetchWord_other _ _ _ h.2 ..
theorem Differ.cycle {s t : State} (h : Differ s t) : t.cycle = s.cycle := by rw [h.1]; rfl
theorem Differ.foldl {α : Type} (f : State → α → State) (hf : ∀ s x, Differ s (f s x)) (l : List α) (s : State) : Differ s (l.foldl f s) := by
  induction l generalizing s with
  | nil => exact Differ.refl _
  | cons x l ih => exact (hf s x).trans (ih _)

/-! ### The end of an instruction -/

theorem foldl_modThread_same (b : Nat) (g : Thread → Thread) (l : List Nat) (hl : l.Nodup) (s : State) (b' t' : Nat) :
    (l.foldl (fun s t => s.modThread b t g) s).thread? b' t' =
      if b = b' ∧ t' ∈ l then (s.thread? b' t').map g else s.thread? b' t' :=
  foldl_modThread_thread? b (fun _ => g) l hl s b' t'

theorem dropBundle_thread? (s : State) (bd : Bundle) (c b t : Nat) : (s.dropBundle bd c).thread? b t = s.thread? b t := rfl

theorem together_whole {s : State} {bd : Bundle} {k : Block} (h : Whole s bd k) : Together s bd := by
  intro t ht
  have := h.2.2.2 t ht
  cases hth : s.thread? bd.blk t with
  | none => simp [hth] at this
  | some th => simp [hth] at this; simp [this.1]

theorem leaveClause_hdr (s : State) (bd : Bundle) (k : Block) (t : Nat) (g : Option Goto) (th : Thread) (d : DWord)
    (h1 : s.thread? bd.blk t = some th) (h2 : th.held = false)
    (hd : g = some (.hdr d) ∨ (g = none ∧ d = bd.after)) (hok : s.targetOk k true d = true) :
    s.leaveClause bd k t g = .inl (s.modThread bd.blk t (·.enter (d + 8) s.cycle bd.yield false)) := by
  rcases hd with rfl | ⟨rfl, rfl⟩ <;> simp [State.leaveClause, h1, h2, hok]

/-- The lanes that leave stand at their headers. -/
theorem leaveLanes_arrive (bd : Bundle) (k : Block) (gs : Nat → Option Goto) (dest : Nat → DWord)
    (l : List Nat) (hl : l.Nodup) (s : State)
    (hg : ∀ t ∈ l, gs t = some (.hdr (dest t)) ∨ (gs t = none ∧ dest t = bd.after))
    (hth : ∀ t ∈ l, ∃ th, s.thread? bd.blk t = some th ∧ th.held = false)
    (hok : ∀ t ∈ l, s.targetOk k true (dest t) = true) :
    (s.leaveLanes bd k gs l).2 = none ∧
    ∀ t, (s.leaveLanes bd k gs l).1.thread? bd.blk t = if t ∈ l then (s.thread? bd.blk t).map (·.enter (dest t + 8) s.cycle bd.yield false)
      else s.thread? bd.blk t := by
  induction l generalizing s with
  | nil => exact ⟨rfl, fun t => rfl⟩
  | cons t l ih =>
    rw [List.nodup_cons] at hl
    obtain ⟨th, h1, h2⟩ := hth t (by simp)
    have e := leaveClause_hdr s bd k t (gs t) th (dest t) h1 h2 (hg t (by simp)) (hok t (by simp))
    unfold State.leaveLanes
    simp only [e]
    obtain ⟨i1, i2⟩ := ih hl.2 (s.modThread bd.blk t (·.enter (dest t + 8) s.cycle bd.yield false))
      (fun u hu => hg u (by simp [hu]))
      (fun u hu => by
        obtain ⟨uh, a, b⟩ := hth u (by simp [hu])
        exact ⟨uh, by rw [thread?_modThread, if_neg (by rintro ⟨_, rfl⟩; exact hl.1 hu)]; exact a, b⟩)
      (fun u hu => by rw [(Differ.modThread s bd.blk t _).targetOk]; exact hok u (by simp [hu]))
    refine ⟨i1, fun u => ?_⟩
    rw [i2 u, thread?_modThread]
    by_cases hu : u ∈ l
    · have : t ≠ u := by rintro rfl; exact hl.1 hu
      simp [hu, this]
    · by_cases ht : t = u
      · subst ht; simp [hu]
      · have : u ≠ t := fun e => ht e.symm
        simp [hu, ht, this]

/-- An instruction that ends a clause sends every lane to its header. -/
theorem endInstr_arrived {s : State} {bd : Bundle} {k : Block} (h : Whole s bd k) (hlast : ¬ bd.idx < bd.last)
    (gs : Nat → Option Goto) (dest : Nat → DWord)
    (hg : ∀ t ∈ bd.lanes, gs t = some (.hdr (dest t)) ∨ (gs t = none ∧ dest t = bd.after))
    (hok : ∀ t ∈ bd.lanes, s.targetOk k true (dest t) = true) : Arrived (s.endInstr bd gs) bd dest := by
  intro tid htid
  have ht := together_whole h
  obtain ⟨hcur, hblk, hnd, hall⟩ := h
  have hne : bd.lanes.isEmpty = false := by cases hb : bd.lanes <;> simp_all
  have hd1 : Differ s (s.skidded bd k) := by
    unfold State.skidded; split
    · exact Differ.foldl _ (fun s t => Differ.modThread ..) _ _
    · exact Differ.refl _
  have hs1 : ∀ t ∈ bd.lanes, ∃ th, (s.skidded bd k).thread? bd.blk t = some th ∧ th.held = false := by
    intro t ht
    have := hall t ht
    cases hth : s.thread? bd.blk t with
    | none => simp [hth] at this
    | some th =>
      simp [hth] at this
      unfold State.skidded
      split
      · rw [foldl_modThread_same _ _ _ hnd]; simp [ht, hth, Thread.skidOne, this]
      · exact ⟨th, hth, this.2⟩
  obtain ⟨a1, a2⟩ := leaveLanes_arrive bd k gs dest bd.lanes hnd ((s.skidded bd k).dropBundle bd k.core) hg hs1
    (fun t ht => by rw [(hd1.trans (Differ.dropBundle ..)).targetOk]; exact hok t ht)
  have e : s.endInstr bd gs = (((s.skidded bd k).dropBundle bd k.core).leaveLanes bd k gs bd.lanes).1 := by
    rw [endInstr_eq s bd k gs hblk ht]
    unfold State.goOn
    simp only [hne, hlast, Bool.false_eq_true, if_false]
    split
    · next hx => rw [hx]
    · next hx => rw [hx] at a1; simp at a1
  rw [e, a2 tid, if_pos htid, dropBundle_thread?]
  obtain ⟨th, e1, _⟩ := hs1 tid htid
  rw [e1]
  exact ⟨_, rfl, rfl, rfl⟩

/-! ### What the end of an instruction leaves of a thread -/

/-- A thread of one state has become, in another, one that a relation allows. -/
def ThreadsRel (R : Thread → Thread → Prop) (s t : State) : Prop :=
  ∀ b i th, s.thread? b i = some th → ∃ th', t.thread? b i = some th' ∧ R th th'

theorem ThreadsRel.trans {R : Thread → Thread → Prop} (ht : ∀ x y z, R x y → R y z → R x z) {s t u : State}
    (h : ThreadsRel R s t) (h' : ThreadsRel R t u) : ThreadsRel R s u := by
  intro b i th e
  obtain ⟨th', e1, r1⟩ := h b i th e
  obtain ⟨th'', e2, r2⟩ := h' b i th' e1
  exact ⟨th'', e2, ht _ _ _ r1 r2⟩
theorem ThreadsRel.refl {R : Thread → Thread → Prop} (hr : ∀ x, R x x) (s : State) : ThreadsRel R s s := fun _ _ th e => ⟨th, e, hr th⟩
theorem ThreadsRel.modThread {R : Thread → Thread → Prop} (hr : ∀ x, R x x) (s : State) (b t : Nat) (f : Thread → Thread)
    (h : ∀ th, R th (f th)) : ThreadsRel R s (s.modThread b t f) := by
  intro b' i th e
  rw [thread?_modThread]
  split
  · exact ⟨f th, by rw [e]; rfl, h th⟩
  · exact ⟨th, e, hr th⟩
theorem ThreadsRel.foldl {R : Thread → Thread → Prop} (hr : ∀ x, R x x) (ht : ∀ x y z, R x y → R y z → R x z) {α : Type}
    (f : State → α → State) (hf : ∀ s x, ThreadsRel R s (f s x)) (l : List α) (s : State) : ThreadsRel R s (l.foldl f s) := by
  induction l generalizing s with
  | nil => exact ThreadsRel.refl hr s
  | cons x l ih => exact (hf s x).trans ht (ih _)
theorem ThreadsRel.haltLane {R : Thread → Thread → Prop} (hr : ∀ x, R x x) (hs : ∀ x, R x { x with status := .ready false })
    (s : State) (bd : Bundle) (t c : Nat) (a : DWord) : ThreadsRel R s (s.haltLane bd t c a) := by
  intro b i th e
  obtain ⟨th', e1, r1⟩ := ThreadsRel.modThread hr (s.haltBlock bd.blk c false 0 (some t) bd.pc a 0) bd.blk t _ hs b i th (by simpa using e)
  exact ⟨th', by unfold State.haltLane; rw [thread?_modBlock]; exact e1; intro; rfl, r1⟩
theorem ThreadsRel.badTarget {R : Thread → Thread → Prop} (hr : ∀ x, R x x) (hs : ∀ x, R x { x with status := .ready false })
    (s : State) (bd : Bundle) (t : Nat) (a : DWord) : ThreadsRel R s (s.badTarget bd t a) := by
  unfold State.badTarget; split
  · split
    · intro b i th e
      exact ThreadsRel.modThread hr (s.haltBlock ..) bd.blk t _ hs b i th (by simpa using e)
    · exact ThreadsRel.haltLane hr hs _ _ _ _ _
  · exact ThreadsRel.refl hr s

/-- Lanes that go on move threads only by going to a PC, entering, or standing ready. -/
theorem goOn_rel (R : Thread → Thread → Prop) (hr : ∀ x, R x x) (ht : ∀ x y z, R x y → R y z → R x z) (hgoto : ∀ x pc, R x (x.goto pc))
    (hready : ∀ x, R x { x with status := .ready false })
    (henter : ∀ x pc a y i, R x (x.enter pc a y i))
    (hwait : ∀ x pc a, R x { x with pc := pc, status := .ready false, arrival := a })
    (s : State) (bd : Bundle) (k : Block) (gs : Nat → Option Goto) (stay : List Nat) : ThreadsRel R s (s.goOn bd k gs stay) := by
  have leave : ∀ (l : List Nat) (s : State), ThreadsRel R s (s.leaveLanes bd k gs l).1 := by
    intro l
    induction l with
    | nil => exact fun s => ThreadsRel.refl hr s
    | cons t l ih =>
      intro s
      unfold State.leaveLanes
      split
      · next s' hx =>
        refine ThreadsRel.trans ht ?_ (ih s')
        obtain rfl | ⟨f, rfl, hf⟩ := leaveClause_mod R s bd k t (gs t) s' henter hwait hx
        · exact ThreadsRel.refl hr _
        · exact ThreadsRel.modThread hr _ _ _ _ hf
      · exact (ThreadsRel.modThread hr _ _ _ _ hready).trans ht (ih _)
  unfold State.goOn
  split
  · exact ThreadsRel.refl hr s
  · split
    · exact ThreadsRel.foldl hr ht (fun (s : State) t => s.modThread bd.blk t (·.goto bd.next)) (fun s t => ThreadsRel.modThread hr _ _ _ _ fun th => hgoto ..) _ _
    · have hl := leave stay (s.dropBundle bd k.core)
      split
      · next hx => rw [hx] at hl; exact hl
      · next hx => rw [hx] at hl; exact hl.trans ht (ThreadsRel.badTarget hr hready _ _ _ _)

/-- A bundle of a clause that does not meet ends an instruction by letting the lanes that are still in it go on. -/
theorem endInstr_flat (s : State) (bd : Bundle) (k : Block) (gs : Nat → Option Goto) (hk : s.blocks[bd.blk]? = some k) (hm : bd.meet = false) :
    s.endInstr bd gs = (if k.halt.isSome then (s.lanesIn bd).foldl (fun s t => s.modThread bd.blk t Thread.skidOne) s else s).goOn bd k gs (s.lanesIn bd) := by
  unfold State.endInstr State.endOf
  simp only [hk, hm, Bool.and_true, Bool.not_false, if_true]

theorem leaveLanes_out (bd : Bundle) (k : Block) (gs : Nat → Option Goto) (b i : Nat) (l : List Nat) (s : State)
    (h : b ≠ bd.blk ∨ i ∉ l) : (s.leaveLanes bd k gs l).1.thread? b i = s.thread? b i := by
  induction l generalizing s with
  | nil => rfl
  | cons t l ih =>
    have h' : b ≠ bd.blk ∨ i ∉ l := h.imp_right fun x => fun y => x (by simp [y])
    have hm : ∀ f, (s.modThread bd.blk t f).thread? b i = s.thread? b i := by
      intro f
      rw [thread?_modThread, if_neg]
      rintro ⟨rfl, rfl⟩
      rcases h with h | h
      · exact h rfl
      · exact h (by simp)
    unfold State.leaveLanes
    split
    · next s' hx =>
      rw [ih _ h']
      unfold State.leaveClause at hx
      dsimp only at hx
      repeat' split at hx
      all_goals first
        | (cases hx; first | rfl | exact hm _)
        | cases hx
    · dsimp only; rw [ih _ h', hm]

theorem leaveLanes_fault_mem (bd : Bundle) (k : Block) (gs : Nat → Option Goto) (l : List Nat) (s s' : State) (t : Nat) (a : DWord)
    (h : s.leaveLanes bd k gs l = (s', some (t, a))) : t ∈ l := by
  induction l generalizing s s' t a with
  | nil => simp [State.leaveLanes] at h
  | cons u l ih =>
    unfold State.leaveLanes at h
    split at h
    · exact List.mem_cons_of_mem _ (ih _ _ _ _ h)
    · simp only [Prod.mk.injEq, Option.some.injEq] at h
      simp [h.2.1]

/-- Lanes that go on touch no thread but their own. -/
theorem goOn_out (s : State) (bd : Bundle) (k : Block) (gs : Nat → Option Goto) (stay : List Nat) (b i : Nat)
    (h : b ≠ bd.blk ∨ i ∉ stay) : (s.goOn bd k gs stay).thread? b i = s.thread? b i := by
  have fold : ∀ (l : List Nat) (s : State), (b ≠ bd.blk ∨ i ∉ l) →
      (l.foldl (fun s t => s.modThread bd.blk t (·.goto bd.next)) s).thread? b i = s.thread? b i := by
    intro l
    induction l with
    | nil => intro s _; rfl
    | cons t l ih =>
      intro s h
      rw [List.foldl_cons, ih _ (h.imp_right fun x => fun y => x (by simp [y])), thread?_modThread, if_neg]
      rintro ⟨rfl, rfl⟩
      rcases h with h | h
      · exact h rfl
      · exact h (by simp)
  unfold State.goOn
  split
  · rfl
  · split
    · exact fold stay s h
    · have hl := leaveLanes_out bd k gs b i stay (s.dropBundle bd k.core) h
      split
      · next hx => rw [hx] at hl; exact hl
      · next s' t a hx =>
        have ht := leaveLanes_fault_mem _ _ _ _ _ _ _ _ hx
        rw [hx] at hl
        have hn : ¬(bd.blk = b ∧ t = i) := by
          rintro ⟨rfl, rfl⟩
          rcases h with h | h
          · exact h rfl
          · exact h ht
        unfold State.badTarget
        split
        · split
          · simp only [State.haltAt, thread?_modThread, hn, if_false, haltBlock_thread?]; exact hl
          · simp only [State.haltLane, State.haltAt]
            rw [thread?_modBlock]
            · simp only [thread?_modThread, hn, if_false, haltBlock_thread?]; exact hl
            · intro; rfl
        · exact hl

end Sys2Proof.Machine
end

