-- ==== Sys2Proof/Laws/Memory.lean ====
section
/-! SUPPORT. Byte memories: what a read gives after a write, and that every memory operation keeps the canonical form. -/

namespace Sys2Proof.Machine

/-! ### Reading after writing -/

theorem get_filter_ne (m : Mem) (a x : Nat) : Memory.get (m.filter fun c => c.1 != a) x = if x = a then 0 else Memory.get m x := by
  induction m with
  | nil => simp [Memory.get]
  | cons c t ih =>
    obtain ⟨k, b⟩ := c
    by_cases hk : k = a
    · subst hk
      simp only [List.filter_cons, bne_self_eq_false, Bool.false_eq_true, if_false, ih, Memory.get]
      by_cases hx : x = k
      · simp [hx]
      · simp [hx, Ne.symm hx]
    · have : (k != a) = true := by simp [hk]
      simp only [List.filter_cons, this, if_true, Memory.get, ih]
      by_cases hx : k = x
      · subst hx; simp [hk]
      · simp [hx]

theorem get_insert (m : Mem) (a x : Nat) (b : Byte) (h : ∀ c ∈ m, c.1 ≠ a) :
    Memory.get (Memory.insert m a b) x = if x = a then b else Memory.get m x := by
  induction m with
  | nil =>
    unfold Memory.insert
    split
    · next hb => subst hb; simp [Memory.get]
    · by_cases hx : a = x
      · subst hx; simp [Memory.get]
      · simp [Memory.get, hx, Ne.symm hx]
  | cons c t ih =>
    obtain ⟨k, c⟩ := c
    have hk : k ≠ a := h (k, c) (by simp)
    have ih := ih fun c hc => h c (by simp [hc])
    have h0 : ∀ (l : Mem), (∀ c ∈ l, c.1 ≠ a) → Memory.get l a = 0 := by
      intro l hl
      induction l with
      | nil => rfl
      | cons c l ihl =>
        simp only [Memory.get, if_neg (hl c (by simp))]
        exact ihl fun c hc => hl c (by simp [hc])
    unfold Memory.insert
    split
    · next hb =>
      subst hb
      by_cases hx : x = a
      · subst hx; rw [h0 _ h]; simp
      · simp [hx]
    · split
      · by_cases hx : a = x
        · subst hx; simp [Memory.get]
        · simp [Memory.get, hx, Ne.symm hx]
      · simp only [Memory.get, ih]
        by_cases hx : k = x
        · subst hx; simp [hk]
        · simp [hx]

/-- A byte read after a byte was written. -/
theorem get_set (m : Mem) (a x : Nat) (b : Byte) : Memory.get (Memory.set m a b) x = if x = a then b else Memory.get m x := by
  unfold Memory.set
  rw [get_insert _ _ _ _ (by simp), get_filter_ne]
  by_cases hx : x = a <;> simp [hx]

/-- A byte read after bytes were written. -/
theorem get_put (m : Mem) (a x : Nat) (bs : List Byte) :
    Memory.get (Memory.put m a bs) x = if a ≤ x ∧ x < a + bs.length then bs.getD (x - a) 0 else Memory.get m x := by
  induction bs generalizing m a with
  | nil => simp [Memory.put, show ¬(a ≤ x ∧ x < a) by omega]
  | cons b t ih =>
    simp only [Memory.put, ih, get_set, List.length_cons]
    by_cases h1 : x = a
    · subst h1; simp [show ¬(x + 1 ≤ x ∧ x < x + 1 + t.length) by omega]
    · by_cases h2 : a + 1 ≤ x ∧ x < a + 1 + t.length
      · rw [if_pos h2, if_pos (by omega), show x - a = (x - (a + 1)) + 1 by omega]; simp
      · rw [if_neg h2, if_neg h1, if_neg (by omega)]

theorem bytes_congr (m m' : Mem) (a n : Nat) (h : ∀ x, a ≤ x → x < a + n → Memory.get m x = Memory.get m' x) :
    Memory.bytes m a n = Memory.bytes m' a n := by
  induction n generalizing a with
  | zero => rfl
  | succ n ih =>
    simp only [Memory.bytes]
    rw [h a (by omega) (by omega), ih (a + 1) fun x h1 h2 => h x (by omega) (by omega)]

theorem bytes_length (m : Mem) (a n : Nat) : (Memory.bytes m a n).length = n := by
  induction n generalizing a with
  | zero => rfl
  | succ n ih => simp [Memory.bytes, ih]

theorem bytes_getD (m : Mem) (a n i : Nat) (h : i < n) : (Memory.bytes m a n).getD i 0 = Memory.get m (a + i) := by
  induction n generalizing a i with
  | zero => omega
  | succ n ih =>
    cases i with
    | zero => simp [Memory.bytes]
    | succ i =>
      simp only [Memory.bytes, List.getD_cons_succ]
      rw [ih (a + 1) i (by omega)]; congr 1; omega

/-- The bytes read where bytes were just written. -/
theorem bytes_put (m : Mem) (a : Nat) (bs : List Byte) : Memory.bytes (Memory.put m a bs) a bs.length = bs := by
  apply List.ext_getElem (by simp [bytes_length])
  intro i h1 h2
  have h := bytes_getD (Memory.put m a bs) a bs.length i (by simpa [bytes_length] using h1)
  rw [get_put, if_pos (by omega), show a + i - a = i by omega] at h
  simpa [List.getD_eq_getElem?_getD, h1, h2] using h

/-! ### The canonical form -/

/-- The canonical form, in the terms of lists. -/
theorem wf_iff (m : Mem) : Memory.wf m = true ↔ m.Pairwise (fun c d => c.1 < d.1) ∧ ∀ c ∈ m, c.2 ≠ 0 := by
  induction m with
  | nil => simp [Memory.wf]
  | cons c t ih =>
    cases t with
    | nil => simp [Memory.wf]
    | cons d t =>
      obtain ⟨k, b⟩ := c
      obtain ⟨k', b'⟩ := d
      simp only [Memory.wf, Bool.and_eq_true, bne_iff_ne, decide_eq_true_eq, ih]
      constructor
      · rintro ⟨⟨hb, hk⟩, hp, hz⟩
        refine ⟨List.pairwise_cons.2 ⟨?_, hp⟩, by rintro c hc; rcases List.mem_cons.1 hc with rfl | hc; exact hb; exact hz c hc⟩
        intro c hc
        rcases List.mem_cons.1 hc with rfl | hc
        · exact hk
        · exact Nat.lt_trans hk ((List.pairwise_cons.1 hp).1 c hc)
      · rintro ⟨hp, hz⟩
        exact ⟨⟨hz (k, b) (by simp), (List.pairwise_cons.1 hp).1 (k', b') (by simp)⟩, (List.pairwise_cons.1 hp).2, fun c hc => hz c (by simp [hc])⟩

theorem wf_filter (m : Mem) (p : Host.Cell → Bool) (h : Memory.wf m = true) : Memory.wf (m.filter p) = true := by
  rw [wf_iff] at *
  exact ⟨h.1.filter _, fun c hc => h.2 c (List.mem_filter.1 hc).1⟩

theorem mem_insert {m : Mem} {a : Nat} {b : Byte} {c : Host.Cell} (h : c ∈ Memory.insert m a b) : c ∈ m ∨ (c = (a, b) ∧ b ≠ 0) := by
  induction m with
  | nil => unfold Memory.insert at h; split at h <;> simp_all
  | cons d t ih =>
    obtain ⟨k, d⟩ := d
    unfold Memory.insert at h
    split at h
    · exact .inl h
    · split at h
      · rcases List.mem_cons.1 h with rfl | h
        · exact .inr ⟨rfl, by assumption⟩
        · exact .inl h
      · rcases List.mem_cons.1 h with rfl | h
        · simp
        · rcases ih h with h | h
          · simp [h]
          · exact .inr h

theorem wf_insert (m : Mem) (a : Nat) (b : Byte) (hn : ∀ c ∈ m, c.1 ≠ a) (h : Memory.wf m = true) : Memory.wf (Memory.insert m a b) = true := by
  rw [wf_iff] at *
  refine ⟨?_, fun c hc => by rcases mem_insert hc with h1 | ⟨rfl, h1⟩; exact h.2 c h1; exact h1⟩
  induction m with
  | nil => unfold Memory.insert; split <;> simp
  | cons d t ih =>
    obtain ⟨k, d⟩ := d
    have hp := List.pairwise_cons.1 h.1
    unfold Memory.insert
    split
    · exact h.1
    · split
      · next hk =>
        refine List.pairwise_cons.2 ⟨fun c hc => ?_, h.1⟩
        rcases List.mem_cons.1 hc with rfl | hc
        · exact hk
        · exact Nat.lt_trans hk (hp.1 c hc)
      · next hk =>
        have := hn (k, d) (by simp)
        refine List.pairwise_cons.2 ⟨fun c hc => ?_, ih (fun c hc => hn c (by simp [hc])) ⟨hp.2, fun c hc => h.2 c (by simp [hc])⟩⟩
        rcases mem_insert hc with h1 | ⟨rfl, -⟩
        · exact hp.1 c h1
        · show k < a
          simp only at this; omega

theorem wf_set (m : Mem) (a : Nat) (b : Byte) (h : Memory.wf m = true) : Memory.wf (Memory.set m a b) = true :=
  wf_insert _ _ _ (by simp) (wf_filter _ _ h)
theorem wf_put (m : Mem) (a : Nat) (bs : List Byte) (h : Memory.wf m = true) : Memory.wf (Memory.put m a bs) = true := by
  induction bs generalizing m a with
  | nil => exact h
  | cons b t ih => exact ih _ _ (wf_set _ _ _ h)

/-- Memory after reset is in its form. -/
theorem reset_mem_wf : Memory.wf State.reset.homes.mem = true := rfl

end Sys2Proof.Machine
end

