-- ==== Sys2Proof/Laws/PerInstr.lean ====
section
/-! SUPPORT. One lemma per constructor: an instruction word has an encoding, an event has none (spec/02 R61, R85). -/

namespace Sys2Proof.Laws.Fields
open Sys2Proof

/-- The instruction has an encoding exactly when it is an instruction word. -/
def Statement (i : Instr) : Prop := (encode i).isSome = i.isWord

theorem nop (x0) : Statement (.nop x0) := rfl
theorem iadd (x0 x1 x2 x3) : Statement (.iadd x0 x1 x2 x3) := rfl
theorem isub (x0 x1 x2 x3) : Statement (.isub x0 x1 x2 x3) := rfl
theorem iaddi (x0 x1 x2 x3) : Statement (.iaddi x0 x1 x2 x3) := rfl
theorem imul (x0 x1 x2 x3) : Statement (.imul x0 x1 x2 x3) := rfl
theorem imulhi (x0 x1 x2 x3) : Statement (.imulhi x0 x1 x2 x3) := rfl
theorem imulhu (x0 x1 x2 x3) : Statement (.imulhu x0 x1 x2 x3) := rfl
theorem imad (x0 x1 x2 x3 x4) : Statement (.imad x0 x1 x2 x3 x4) := rfl
theorem idiv (x0 x1 x2 x3) : Statement (.idiv x0 x1 x2 x3) := rfl
theorem idivu (x0 x1 x2 x3) : Statement (.idivu x0 x1 x2 x3) := rfl
theorem irem (x0 x1 x2 x3) : Statement (.irem x0 x1 x2 x3) := rfl
theorem iremu (x0 x1 x2 x3) : Statement (.iremu x0 x1 x2 x3) := rfl
theorem imin (x0 x1 x2 x3) : Statement (.imin x0 x1 x2 x3) := rfl
theorem imax (x0 x1 x2 x3) : Statement (.imax x0 x1 x2 x3) := rfl
theorem iminu (x0 x1 x2 x3) : Statement (.iminu x0 x1 x2 x3) := rfl
theorem imaxu (x0 x1 x2 x3) : Statement (.imaxu x0 x1 x2 x3) := rfl
theorem iabs (x0 x1 x2) : Statement (.iabs x0 x1 x2) := rfl
theorem and (x0 x1 x2 x3) : Statement (.and x0 x1 x2 x3) := rfl
theorem or (x0 x1 x2 x3) : Statement (.or x0 x1 x2 x3) := rfl
theorem xor (x0 x1 x2 x3) : Statement (.xor x0 x1 x2 x3) := rfl
theorem andn (x0 x1 x2 x3) : Statement (.andn x0 x1 x2 x3) := rfl
theorem andi (x0 x1 x2 x3) : Statement (.andi x0 x1 x2 x3) := rfl
theorem ori (x0 x1 x2 x3) : Statement (.ori x0 x1 x2 x3) := rfl
theorem xori (x0 x1 x2 x3) : Statement (.xori x0 x1 x2 x3) := rfl
theorem shl (x0 x1 x2 x3) : Statement (.shl x0 x1 x2 x3) := rfl
theorem shr (x0 x1 x2 x3) : Statement (.shr x0 x1 x2 x3) := rfl
theorem sar (x0 x1 x2 x3) : Statement (.sar x0 x1 x2 x3) := rfl
theorem rotl (x0 x1 x2 x3) : Statement (.rotl x0 x1 x2 x3) := rfl
theorem shli (x0 x1 x2 x3) : Statement (.shli x0 x1 x2 x3) := rfl
theorem shri (x0 x1 x2 x3) : Statement (.shri x0 x1 x2 x3) := rfl
theorem sari (x0 x1 x2 x3) : Statement (.sari x0 x1 x2 x3) := rfl
theorem bfe (x0 x1 x2 x3) : Statement (.bfe x0 x1 x2 x3) := rfl
theorem bfeu (x0 x1 x2 x3) : Statement (.bfeu x0 x1 x2 x3) := rfl
theorem bfi (x0 x1 x2 x3 x4) : Statement (.bfi x0 x1 x2 x3 x4) := rfl
theorem popc (x0 x1 x2) : Statement (.popc x0 x1 x2) := rfl
theorem clz (x0 x1 x2) : Statement (.clz x0 x1 x2) := rfl
theorem ctz (x0 x1 x2) : Statement (.ctz x0 x1 x2) := rfl
theorem brev (x0 x1 x2) : Statement (.brev x0 x1 x2) := rfl
theorem add64 (x0 x1 x2 x3) : Statement (.add64 x0 x1 x2 x3) := rfl
theorem sub64 (x0 x1 x2 x3) : Statement (.sub64 x0 x1 x2 x3) := rfl
theorem shl64 (x0 x1 x2 x3) : Statement (.shl64 x0 x1 x2 x3) := rfl
theorem shr64 (x0 x1 x2 x3 x4) : Statement (.shr64 x0 x1 x2 x3 x4) := rfl
theorem lea (x0 x1 x2 x3 x4 x5) : Statement (.lea x0 x1 x2 x3 x4 x5) := rfl
theorem mov (x0 x1 x2 x3) : Statement (.mov x0 x1 x2 x3) := rfl
theorem movi (x0 x1 x2) : Statement (.movi x0 x1 x2) := rfl
theorem movhi (x0 x1 x2 x3) : Statement (.movhi x0 x1 x2 x3) := rfl
theorem sel (x0 x1 x2 x3 x4 x5) : Statement (.sel x0 x1 x2 x3 x4 x5) := rfl
theorem isetp (x0 x1 x2 x3 x4) : Statement (.isetp x0 x1 x2 x3 x4) := rfl
theorem psetp (x0 x1 x2 x3 x4) : Statement (.psetp x0 x1 x2 x3 x4) := rfl
theorem p2v (x0 x1) : Statement (.p2v x0 x1) := rfl
theorem v2p (x0 x1 x2) : Statement (.v2p x0 x1 x2) := rfl
theorem shuf (x0 x1 x2 x3 x4) : Statement (.shuf x0 x1 x2 x3 x4) := rfl
theorem vote (x0 x1 x2) : Statement (.vote x0 x1 x2) := by cases x1 <;> rfl
theorem redoct (x0 x1 x2 x3 x4) : Statement (.redoct x0 x1 x2 x3 x4) := rfl
theorem matchL (x0 x1 x2 x3) : Statement (.matchL x0 x1 x2 x3) := rfl
theorem idot4 (x0 x1 x2 x3 x4) : Statement (.idot4 x0 x1 x2 x3 x4) := rfl
theorem fadd (x0 x1 x2 x3 x4) : Statement (.fadd x0 x1 x2 x3 x4) := rfl
theorem fsub (x0 x1 x2 x3 x4) : Statement (.fsub x0 x1 x2 x3 x4) := rfl
theorem fmul (x0 x1 x2 x3 x4) : Statement (.fmul x0 x1 x2 x3 x4) := rfl
theorem ffma (x0 x1 x2 x3 x4) : Statement (.ffma x0 x1 x2 x3 x4) := rfl
theorem fmin (x0 x1 x2 x3) : Statement (.fmin x0 x1 x2 x3) := rfl
theorem fmax (x0 x1 x2 x3) : Statement (.fmax x0 x1 x2 x3) := rfl
theorem fsetp (x0 x1 x2 x3 x4) : Statement (.fsetp x0 x1 x2 x3 x4) := rfl
theorem frcp (x0 x1 x2) : Statement (.frcp x0 x1 x2) := rfl
theorem frsq (x0 x1 x2) : Statement (.frsq x0 x1 x2) := rfl
theorem fsqrt (x0 x1 x2 x3) : Statement (.fsqrt x0 x1 x2 x3) := rfl
theorem fdiv (x0 x1 x2 x3 x4) : Statement (.fdiv x0 x1 x2 x3 x4) := rfl
theorem fexp2 (x0 x1 x2) : Statement (.fexp2 x0 x1 x2) := rfl
theorem flog2 (x0 x1 x2) : Statement (.flog2 x0 x1 x2) := rfl
theorem fsin (x0 x1 x2) : Statement (.fsin x0 x1 x2) := rfl
theorem fcos (x0 x1 x2) : Statement (.fcos x0 x1 x2) := rfl
theorem ftanh (x0 x1 x2) : Statement (.ftanh x0 x1 x2) := rfl
theorem frnd (x0 x1 x2 x3) : Statement (.frnd x0 x1 x2 x3) := rfl
theorem fclass (x0 x1 x2) : Statement (.fclass x0 x1 x2) := rfl
theorem fscale (x0 x1 x2 x3 x4) : Statement (.fscale x0 x1 x2 x3 x4) := rfl
theorem hadd2 (x0 x1 x2 x3 x4) : Statement (.hadd2 x0 x1 x2 x3 x4) := rfl
theorem hsub2 (x0 x1 x2 x3 x4) : Statement (.hsub2 x0 x1 x2 x3 x4) := rfl
theorem hmul2 (x0 x1 x2 x3 x4) : Statement (.hmul2 x0 x1 x2 x3 x4) := rfl
theorem hfma2 (x0 x1 x2 x3 x4) : Statement (.hfma2 x0 x1 x2 x3 x4) := rfl
theorem hmin2 (x0 x1 x2 x3 x4) : Statement (.hmin2 x0 x1 x2 x3 x4) := rfl
theorem hmax2 (x0 x1 x2 x3 x4) : Statement (.hmax2 x0 x1 x2 x3 x4) := rfl
theorem cvt (x0 x1 x2 x3 x4 x5 x6) : Statement (.cvt x0 x1 x2 x3 x4 x5 x6) := rfl
theorem pack8 (x0 x1 x2 x3 x4 x5 x6) : Statement (.pack8 x0 x1 x2 x3 x4 x5 x6) := rfl
theorem unpack8 (x0 x1 x2 x3 x4) : Statement (.unpack8 x0 x1 x2 x3 x4) := by cases x3 <;> rfl
theorem bscale (x0 x1 x2 x3) : Statement (.bscale x0 x1 x2 x3) := rfl
theorem ld (x0 x1 x2) : Statement (.ld x0 x1 x2) := rfl
theorem st (x0 x1 x2) : Statement (.st x0 x1 x2) := rfl
theorem ldro (x0 x1 x2) : Statement (.ldro x0 x1 x2) := rfl
theorem lds (x0 x1 x2) : Statement (.lds x0 x1 x2) := rfl
theorem sts (x0 x1 x2) : Statement (.sts x0 x1 x2) := rfl
theorem atomAdd (x0 x1 x2) : Statement (.atomAdd x0 x1 x2) := rfl
theorem atomMin (x0 x1 x2) : Statement (.atomMin x0 x1 x2) := rfl
theorem atomMax (x0 x1 x2) : Statement (.atomMax x0 x1 x2) := rfl
theorem atomMinu (x0 x1 x2) : Statement (.atomMinu x0 x1 x2) := rfl
theorem atomMaxu (x0 x1 x2) : Statement (.atomMaxu x0 x1 x2) := rfl
theorem atomAnd (x0 x1 x2) : Statement (.atomAnd x0 x1 x2) := rfl
theorem atomOr (x0 x1 x2) : Statement (.atomOr x0 x1 x2) := rfl
theorem atomXor (x0 x1 x2) : Statement (.atomXor x0 x1 x2) := rfl
theorem atomExch (x0 x1 x2) : Statement (.atomExch x0 x1 x2) := rfl
theorem atomCas (x0 x1 x2) : Statement (.atomCas x0 x1 x2) := rfl
theorem atomFadd (x0 x1 x2) : Statement (.atomFadd x0 x1 x2) := rfl
theorem atomFmin (x0 x1 x2) : Statement (.atomFmin x0 x1 x2) := rfl
theorem atomFmax (x0 x1 x2) : Statement (.atomFmax x0 x1 x2) := rfl
theorem fence (x0 x1 x2) : Statement (.fence x0 x1 x2) := rfl
theorem pref (x0 x1 x2 x3 x4 x5) : Statement (.pref x0 x1 x2 x3 x4 x5) := rfl
theorem cctlRoinv (x0) : Statement (.cctlRoinv x0) := rfl
theorem cctlL1inv (x0) : Statement (.cctlL1inv x0) := rfl
theorem cctlL1line (x0 x1 x2 x3) : Statement (.cctlL1line x0 x1 x2 x3) := rfl
theorem cctlL2wb (x0 x1 x2 x3) : Statement (.cctlL2wb x0 x1 x2 x3) := rfl
theorem cctlL2inv (x0 x1 x2 x3) : Statement (.cctlL2inv x0 x1 x2 x3) := rfl
theorem pwb (x0 x1 x2 x3 x4) : Statement (.pwb x0 x1 x2 x3 x4) := rfl
theorem pbar (x0 x1) : Statement (.pbar x0 x1) := rfl
theorem qlen (x0 x1 x2 x3) : Statement (.qlen x0 x1 x2 x3) := rfl
theorem qtryPop (x0 x1 x2 x3) : Statement (.qtryPop x0 x1 x2 x3) := rfl
theorem qtryPush (x0 x1 x2 x3) : Statement (.qtryPush x0 x1 x2 x3) := rfl
theorem qclose (x0 x1) : Statement (.qclose x0 x1) := rfl
theorem qeos (x0 x1 x2) : Statement (.qeos x0 x1 x2) := rfl
theorem bra (x0 x1) : Statement (.bra x0 x1) := rfl
theorem brx (x0 x1) : Statement (.brx x0 x1) := rfl
theorem call (x0 x1 x2) : Statement (.call x0 x1 x2) := rfl
theorem ret (x0 x1) : Statement (.ret x0 x1) := rfl
theorem exit (x0) : Statement (.exit x0) := rfl
theorem region (x0) : Statement (.region x0) := rfl
theorem yield (x0) : Statement (.yield x0) := rfl
theorem trap (x0 x1) : Statement (.trap x0 x1) := rfl
theorem bkpt (x0 x1) : Statement (.bkpt x0 x1) := rfl
theorem utret (x0 x1) : Statement (.utret x0 x1) := by cases x1 <;> rfl
theorem rdsr (x0 x1 x2) : Statement (.rdsr x0 x1 x2) := rfl
theorem wrsr (x0 x1 x2) : Statement (.wrsr x0 x1 x2) := rfl
theorem grow (x0 x1) : Statement (.grow x0 x1) := rfl
theorem shrink (x0 x1) : Statement (.shrink x0 x1) := rfl
theorem sleep (x0 x1) : Statement (.sleep x0 x1) := rfl
theorem kadd (x0 x1 x2 x3 x4) : Statement (.kadd x0 x1 x2 x3 x4) := rfl
theorem ksub (x0 x1 x2 x3 x4) : Statement (.ksub x0 x1 x2 x3 x4) := rfl
theorem kmul (x0 x1 x2 x3 x4) : Statement (.kmul x0 x1 x2 x3 x4) := rfl
theorem kand (x0 x1 x2 x3 x4) : Statement (.kand x0 x1 x2 x3 x4) := rfl
theorem kor (x0 x1 x2 x3 x4) : Statement (.kor x0 x1 x2 x3 x4) := rfl
theorem kxor (x0 x1 x2 x3 x4) : Statement (.kxor x0 x1 x2 x3 x4) := rfl
theorem kshl (x0 x1 x2 x3 x4) : Statement (.kshl x0 x1 x2 x3 x4) := rfl
theorem kshr (x0 x1 x2 x3 x4) : Statement (.kshr x0 x1 x2 x3 x4) := rfl
theorem kmin (x0 x1 x2 x3 x4) : Statement (.kmin x0 x1 x2 x3 x4) := rfl
theorem kmax (x0 x1 x2 x3 x4) : Statement (.kmax x0 x1 x2 x3 x4) := rfl
theorem kset (x0 x1 x2 x3 x4) : Statement (.kset x0 x1 x2 x3 x4) := rfl
theorem kmovi (x0 x1 x2) : Statement (.kmovi x0 x1 x2) := rfl
theorem kmovhi (x0 x1 x2 x3) : Statement (.kmovhi x0 x1 x2 x3) := rfl
theorem kld (x0 x1 x2 x3 x4 x5) : Statement (.kld x0 x1 x2 x3 x4 x5) := rfl
theorem kst (x0 x1 x2 x3 x4 x5) : Statement (.kst x0 x1 x2 x3 x4 x5) := rfl
theorem kbra (x0 x1) : Statement (.kbra x0 x1) := rfl
theorem kloop (x0 x1) : Statement (.kloop x0 x1) := rfl
theorem kend : Statement .kend := rfl
theorem krdsr (x0 x1 x2) : Statement (.krdsr x0 x1 x2) := rfl
theorem talloc (x0 x1 x2 x3) : Statement (.talloc x0 x1 x2 x3) := rfl
theorem tfree (x0 x1) : Statement (.tfree x0 x1) := rfl
theorem tload (x0 x1 x2 x3 x4 x5 x6 x7) : Statement (.tload x0 x1 x2 x3 x4 x5 x6 x7) := rfl
theorem tstore (x0 x1 x2 x3 x4 x5 x6) : Statement (.tstore x0 x1 x2 x3 x4 x5 x6) := rfl
theorem tset (x0 x1) : Statement (.tset x0 x1) := rfl
theorem mma (x0 x1 x2 x3 x4 x5) : Statement (.mma x0 x1 x2 x3 x4 x5) := rfl
theorem aalloc (x0 x1) : Statement (.aalloc x0 x1) := rfl
theorem afree (x0 x1) : Statement (.afree x0 x1) := rfl
theorem aclr (x0 x1) : Statement (.aclr x0 x1) := rfl
theorem astore (x0 x1 x2 x3 x4) : Statement (.astore x0 x1 x2 x3 x4) := by cases x2 <;> rfl
theorem aload (x0 x1 x2 x3 x4 x5) : Statement (.aload x0 x1 x2 x3 x4 x5) := rfl
theorem cpy (x0 x1 x2 x3 x4 x5) : Statement (.cpy x0 x1 x2 x3 x4 x5) := rfl
theorem cpya (x0 x1 x2 x3 x4 x5) : Statement (.cpya x0 x1 x2 x3 x4 x5) := rfl
theorem cpyg (x0 x1 x2 x3 x4) : Statement (.cpyg x0 x1 x2 x3 x4) := rfl
theorem cpys (x0 x1 x2 x3 x4) : Statement (.cpys x0 x1 x2 x3 x4) := rfl
theorem cpyq (x0 x1 x2 x3) : Statement (.cpyq x0 x1 x2 x3) := rfl
theorem cpyec (x0 x1 x2 x3 x4) : Statement (.cpyec x0 x1 x2 x3 x4) := rfl
theorem cpycan (x0 x1 x2 x3) : Statement (.cpycan x0 x1 x2 x3) := rfl
theorem qcfg (x0 x1 x2 x3 x4 x5) : Statement (.qcfg x0 x1 x2 x3 x4 x5) := rfl
theorem qrel (x0 x1) : Statement (.qrel x0 x1) := rfl
theorem strm (x0 x1 x2 x3) : Statement (.strm x0 x1 x2 x3) := rfl
theorem strmstop (x0 x1) : Statement (.strmstop x0 x1) := rfl
theorem launch (x0 x1 x2) : Statement (.launch x0 x1 x2) := rfl
theorem coll (x0 x1 x2) : Statement (.coll x0 x1 x2) := rfl
theorem step (x0 x1 x2) : Statement (.step x0 x1 x2) := rfl
theorem barArrive (x0 x1 x2) : Statement (.barArrive x0 x1 x2) := rfl
theorem barWait (x0 x1 x2) : Statement (.barWait x0 x1 x2) := by cases x2 <;> rfl
theorem barSync (x0 x1) : Statement (.barSync x0 x1) := rfl
theorem barExpect (x0 x1 x2 x3 x4) : Statement (.barExpect x0 x1 x2 x3 x4) := rfl
theorem cbar (x0) : Statement (.cbar x0) := rfl
theorem wait (x0 x1 x2 x3 x4) : Statement (.wait x0 x1 x2 x3 x4) := rfl
theorem signal (x0 x1 x2) : Statement (.signal x0 x1 x2) := by cases x1 <;> rfl
theorem continuationEntry (x0 x1) : Statement (.continuationEntry x0 x1) := rfl
theorem bundleFormation (x0 x1) : Statement (.bundleFormation x0 x1) := rfl
theorem workingSetCopy (x0) : Statement (.workingSetCopy x0) := rfl
theorem regDeadlock (x0) : Statement (.regDeadlock x0) := rfl
theorem threadEnd (x0 x1) : Statement (.threadEnd x0 x1) := rfl
theorem returnLanding (x0) : Statement (.returnLanding x0) := rfl
theorem storeAck (x0) : Statement (.storeAck x0) := rfl
theorem homeAccess (x0) : Statement (.homeAccess x0) := rfl
theorem tlbWalk (x0) : Statement (.tlbWalk x0) := rfl
theorem sleepWake (x0 x1) : Statement (.sleepWake x0 x1) := rfl
theorem syscallRecordWrite (x0 x1) : Statement (.syscallRecordWrite x0 x1) := rfl
theorem srwake (x0) : Statement (.srwake x0) := rfl
theorem debugHalt (x0) : Statement (.debugHalt x0) := rfl
theorem debugResume (x0) : Statement (.debugResume x0) := rfl
theorem blockAccounted (x0) : Statement (.blockAccounted x0) := rfl
theorem queueDeadlock (x0) : Statement (.queueDeadlock x0) := rfl
theorem streamElement (x0 x1) : Statement (.streamElement x0 x1) := rfl
theorem streamFinish (x0 x1) : Statement (.streamFinish x0 x1) := rfl
theorem copyUnit (x0 x1) : Statement (.copyUnit x0 x1) := rfl
theorem copyCompletion (x0 x1) : Statement (.copyCompletion x0 x1) := rfl
theorem tloadCompletion (x0 x1) : Statement (.tloadCompletion x0 x1) := rfl
theorem tstoreCompletion (x0 x1) : Statement (.tstoreCompletion x0 x1) := rfl
theorem aloadCompletion (x0 x1) : Statement (.aloadCompletion x0 x1) := rfl
theorem astoreCompletion (x0 x1) : Statement (.astoreCompletion x0 x1) := rfl
theorem startGrantRequest (x0) : Statement (.startGrantRequest x0) := rfl
theorem barchanStep (x0) : Statement (.barchanStep x0) := rfl
theorem mmaRetire (x0) : Statement (.mmaRetire x0) := rfl
theorem bankSwitch (x0) : Statement (.bankSwitch x0) := rfl
theorem collCompletion (x0 x1) : Statement (.collCompletion x0 x1) := rfl
theorem stepAdvance (x0) : Statement (.stepAdvance x0) := rfl
theorem seifSweep : Statement .seifSweep := rfl
theorem seifCaptureComplete : Statement .seifCaptureComplete := rfl
theorem seifArm (x0) : Statement (.seifArm x0) := rfl
theorem seifDisarm (x0) : Statement (.seifDisarm x0) := rfl
theorem caravanEntry (x0) : Statement (.caravanEntry x0) := rfl
theorem caravanDrain (x0 x1) : Statement (.caravanDrain x0 x1) := rfl
theorem powerLoss : Statement .powerLoss := rfl
theorem eccError (x0 x1 x2) : Statement (.eccError x0 x1 x2) := rfl
theorem backgroundMaintenance : Statement .backgroundMaintenance := rfl
theorem faqRecordWrite : Statement .faqRecordWrite := rfl
theorem faqbase (x0) : Statement (.faqbase x0) := rfl
theorem tlbShootdown (x0 x1 x2) : Statement (.tlbShootdown x0 x1 x2) := rfl
theorem shootdownAck (x0 x1) : Statement (.shootdownAck x0 x1) := rfl
theorem migcmd (x0) : Statement (.migcmd x0) := rfl
theorem migrationLineCopy (x0 x1) : Statement (.migrationLineCopy x0 x1) := rfl
theorem migrationSwitchover (x0) : Statement (.migrationSwitchover x0) := rfl
theorem migrationComplete (x0) : Statement (.migrationComplete x0) := rfl
theorem resident (x0) : Statement (.resident x0) := rfl
theorem bpcmdAdd (x0) : Statement (.bpcmdAdd x0) := rfl
theorem bpcmdRemove (x0) : Statement (.bpcmdRemove x0) := rfl
theorem bpcmdClear : Statement .bpcmdClear := rfl
theorem wake (x0 x1) : Statement (.wake x0 x1) := rfl
theorem packetFetch (x0) : Statement (.packetFetch x0) := rfl
theorem seqRetry (x0) : Statement (.seqRetry x0) := rfl
theorem pad (x0) : Statement (.pad x0) := rfl
theorem launchPacket (x0) : Statement (.launchPacket x0) := rfl
theorem waitPacket (x0) : Statement (.waitPacket x0) := rfl
theorem waitPoll (x0) : Statement (.waitPoll x0) := rfl
theorem writePacket (x0) : Statement (.writePacket x0) := rfl
theorem fencePacket (x0) : Statement (.fencePacket x0) := rfl
theorem preemptPacket (x0) : Statement (.preemptPacket x0) := rfl
theorem specialiserBuild (x0) : Statement (.specialiserBuild x0) := rfl
theorem ticketPull (x0 x1) : Statement (.ticketPull x0 x1) := rfl
theorem blockRetire (x0) : Statement (.blockRetire x0) := rfl
theorem launchCompletion (x0) : Statement (.launchCompletion x0) := rfl
theorem autoPreempt (x0) : Statement (.autoPreempt x0) := rfl
theorem preemptSave (x0) : Statement (.preemptSave x0) := rfl
theorem blockResume (x0 x1) : Statement (.blockResume x0 x1) := rfl
theorem schedulerMessage (x0 x1) : Statement (.schedulerMessage x0 x1) := rfl
theorem mergeWindowClose (x0) : Statement (.mergeWindowClose x0) := rfl
theorem queueEnable (x0 x1) : Statement (.queueEnable x0 x1) := rfl
theorem queueReset (x0) : Statement (.queueReset x0) := rfl
theorem queueResetComplete (x0) : Statement (.queueResetComplete x0) := rfl
theorem packageEnable (x0) : Statement (.packageEnable x0) := rfl
theorem mirinv (x0) : Statement (.mirinv x0) := rfl
theorem routeWrite (x0 x1) : Statement (.routeWrite x0 x1) := rfl
theorem rampWrite (x0 x1) : Statement (.rampWrite x0 x1) := rfl
theorem counterClear (x0) : Statement (.counterClear x0) := rfl
theorem registerWrite (x0 x1 x2) : Statement (.registerWrite x0 x1 x2) := rfl
theorem hostAccess (x0) : Statement (.hostAccess x0) := rfl
theorem msixUnmask (x0 x1) : Statement (.msixUnmask x0 x1) := rfl
theorem flrVirtualFunction (x0) : Statement (.flrVirtualFunction x0) := rfl
theorem flrPhysicalFunction : Statement .flrPhysicalFunction := rfl
theorem conventionalReset (x0) : Statement (.conventionalReset x0) := rfl
theorem getVersion : Statement .getVersion := rfl
theorem getCapabilities : Statement .getCapabilities := rfl
theorem negotiateAlgorithms (x0) : Statement (.negotiateAlgorithms x0) := rfl
theorem getDigests : Statement .getDigests := rfl
theorem getCertificate (x0 x1) : Statement (.getCertificate x0 x1) := rfl
theorem challenge (x0) : Statement (.challenge x0) := rfl
theorem getMeasurements (x0 x1) : Statement (.getMeasurements x0 x1) := rfl
theorem flitReceive (x0 x1) : Statement (.flitReceive x0 x1) := rfl
theorem ackTimeout (x0) : Statement (.ackTimeout x0) := rfl
theorem linkUp (x0) : Statement (.linkUp x0) := rfl
theorem powerControllerLoop (x0) : Statement (.powerControllerLoop x0) := rfl
theorem watchdog : Statement .watchdog := rfl
theorem currentLimit (x0) : Statement (.currentLimit x0) := rfl
theorem thermalThrottle (x0) : Statement (.thermalThrottle x0) := rfl
theorem thermalShutdown : Statement .thermalShutdown := rfl
theorem firmwareUpdate : Statement .firmwareUpdate := rfl
theorem firmwareRestart : Statement .firmwareRestart := rfl
theorem pwrstatClear (x0) : Statement (.pwrstatClear x0) := rfl
theorem clusterSleep (x0) : Statement (.clusterSleep x0) := rfl
theorem clusterWake (x0) : Statement (.clusterWake x0) := rfl
theorem clusterPoolChange (x0) : Statement (.clusterPoolChange x0) := rfl
theorem dcfg (x0) : Statement (.dcfg x0) := rfl
theorem rebuildStart (x0) : Statement (.rebuildStart x0) := rfl
theorem rebuildUnit : Statement .rebuildUnit := rfl
theorem rebuildComplete : Statement .rebuildComplete := rfl
theorem rebuildStop : Statement .rebuildStop := rfl
theorem dieCools (x0) : Statement (.dieCools x0) := rfl
theorem saveDiscard (x0) : Statement (.saveDiscard x0) := rfl
theorem clusterPartitionMove (x0) : Statement (.clusterPartitionMove x0) := rfl

end Sys2Proof.Laws.Fields
end

