-- ==== Sys2Proof/Laws/Walk.lean ====
section
/-! SUPPORT. A page walk depends on the page of its address only, and what follows for the ranges that engines access. -/

namespace Sys2Proof.Machine

/-- The levels of a walk see only the 64 KiB page of the address (15 R423). -/
theorem walkLevels_same_page (s : State) (ctx va vb : Nat) (h : va / 2 ^ 16 = vb / 2 ^ 16) :
    ∀ (ls : List (Nat × Nat × Bool × Bool × Nat)) (base : Nat), (∀ l ∈ ls, 16 ≤ l.1) → walkLevels s ctx va base ls = walkLevels s ctx vb base ls := by
  intro ls
  induction ls with
  | nil => intro base _; rfl
  | cons l rest ih =>
    intro base hl
    obtain ⟨lo, len, leafOk, ptrOk, nextLg⟩ := l
    have hlo : 16 ≤ lo := hl _ (List.mem_cons_self ..)
    have hd : va / 2 ^ lo = vb / 2 ^ lo := by
      rw [← Nat.add_sub_of_le hlo, Nat.pow_add, ← Nat.div_div_eq_div_mul, ← Nat.div_div_eq_div_mul, h]
    have hf : nfld va lo len = nfld vb lo len := by simp only [nfld, hd]
    simp only [walkLevels, hf, hd, ih _ fun l hm => hl l (List.mem_cons_of_mem _ hm)]

/-- The same of a whole walk (15 R422, R423). -/
theorem walk_same_page (s : State) (ctx va vb : Nat) (h : va / 2 ^ 16 = vb / 2 ^ 16) : s.walk ctx va = s.walk ctx vb := by
  have hc : canonical va = canonical vb := by
    have : va / 2 ^ 56 = vb / 2 ^ 56 := by omega
    simp only [canonical, this]
  have hp : va % 2 ^ 57 / 2 ^ 16 = vb % 2 ^ 57 / 2 ^ 16 := by omega
  simp only [State.walk, State.walkFrom, hc, walkLevels_same_page s ctx _ _ hp levels _ (by decide)]

/-- A core, if one is named, holds nothing in its TLB but perhaps one entry, and its cluster's walker has room. -/
def Cold (s : State) (core : Option Nat) (e : TlbEntry) : Prop :=
  ∀ c, core = some c → (∀ x ∈ (s.cores[c]?.map (·.tlb)).getD [], x = e) ∧ s.walksOf c < 8

/-- A range within one 64 KiB page that a leaf maps is plain memory where its bytes are local, unpoisoned and not migrating. -/
theorem plain_of_page {s : State} {core : Option Nat} {ctx va n : Nat} {acc : Acc} {pa a : Nat} {code : Bool} (e : TlbEntry)
    (hc : Cold s core e) (hw : s.walk ctx va = .leaf e) (hn : va % 2 ^ 16 + n ≤ 2 ^ 16)
    (h : ∀ i, i < n → s.inWindow (va + i) = false ∧ e.answer (va + i) acc = .ok (pa + i) code ∧
      s.phys (pa + i) = .hbm (a + i) ∧ s.Unmoved (a + i) ∧ s.poisoned (a + i) = false) : Plain s core ctx va n acc pa a code := by
  intro i hi
  obtain ⟨h1, h2, h3⟩ := h i hi
  have hx : s.xlate ctx (va + i) acc = .ok (pa + i) code := by
    simp only [State.xlate, h1, walk_same_page s ctx (va + i) va (by omega), hw, h2]
    rfl
  cases core with
  | none => exact ⟨rfl, hx, h3⟩
  | some c =>
    obtain ⟨hc1, hc2⟩ := hc c rfl
    have hcan : canonical (va + i) = true := by
      have := walk_same_page s ctx (va + i) va (by omega)
      rw [hw] at this
      cases hcn : canonical (va + i) with
      | true => rfl
      | false => simp [State.walk, State.walkFrom, hcn] at this
    refine ⟨?_, ?_, h3⟩
    · have : ¬ 8 ≤ s.walksOf c := by omega
      simp [State.walkFull, this]
    · cases ht : s.tlbEntry c ctx (va + i) with
      | none => simp only [State.xlateAt, State.xlateTlb, hcan, h1, ht, hx]; rfl
      | some x =>
        rw [hc1 x (List.mem_of_find?_eq_some ht)] at ht
        simp only [State.xlateAt, State.xlateTlb, hcan, h1, ht, h2]
        rfl

/-- Low addresses of a package that migrates nothing and has no poison are plain memory. -/
theorem plain_low {s : State} {a n : Nat} (hp : s.pkg = 0) (hm : s.regs.migs = []) (hq : s.homes.poison = []) (h : a + n ≤ 0x06000000000) : PlainPa s a n a := by
  intro i hi
  refine ⟨?_, ⟨by simp [State.migOf, hm], by simp [State.movedFrom, hm]⟩, by simp [State.poisoned, hq]⟩
  have h1 : (a + i) / 2 ^ 42 % 1024 = 0 := by omega
  have h2 : (a + i) % 2 ^ 42 = a + i := by omega
  simp only [State.phys, h1, hp, h2, if_true, localPhys]
  rw [if_pos (by omega)]

end Sys2Proof.Machine
end

