-- ==== Sys2Proof/Tests/Slice0.lean ====
section
/-! SUPPORT. Tests of the model on the spec's own worked words and figures, ill-formed terms that the checks refuse, and for every
statement with hypotheses a concrete state and operands that meet them. -/

namespace Sys2Proof.Tests
set_option maxRecDepth 20000
open Sys2Proof Sys2Proof.Machine

/-! ### Small states -/

/-- The package after reset, with a route only to itself. -/
def rs : State := { State.reset with regs := { State.reset.regs with routes := [(0, 0x02000000)] } }
/-- A block of one octet that stands at an instruction word, its bundle about to execute it. -/
def st (w : Nat) : State := { (rs.withFetchWord 64 w) with cur := .bundle 0 }
def bd : Bundle := ⟨0, 0, List.range 8, 0x10100, 1, 1, false, false, true, false, 0, 0, 0, none⟩
def bk : Block := placeBlock 0 true 0
/-- The same with one lane in the bundle, whose thread is changed by `f`; the others have exited. -/
def bd1 : Bundle := { bd with lanes := [0] }
def bk1 (f : Thread → Thread) : Block :=
  { bk with threads := (bk.threads.zipIdx).map fun x => if x.2 = 0 then f x.1 else { x.1 with status := .exited, v := [] } }
def th0 : Thread := (bk.threads[0]?).getD (Thread.start 0 0 0)
def st1 (w : Nat) (f : Thread → Thread) : State := { st w with bundles := [bd1], blocks := [bk1 f] }
/-- The page at 0x20000 of context 15 is mapped to the frame of the same address, for reads and writes, and core 0 holds its entry. -/
def dat (s : State) : State :=
  { s with
    homes := { s.homes with mem := Memory.put s.homes.mem 0x402010 (toBytes 0x2000B 8) }
    cores := upd s.cores 0 fun c => { c with tlb := [⟨15, 0x20000, 16, 0x20000, true, false⟩] } }
/-- A block whose sequencer stands at an instruction word of the uniform stream, changed by `f`. -/
def sq (w : Nat) (f : Block → Block) : State :=
  { (rs.withFetchWord 64 w) with cur := .sequencer 0, blocks := [f (placeBlock 0 false 0)] }
def sk (f : Block → Block) : Block := f (placeBlock 0 false 0)

/-! ### Witnesses: vector instructions -/

theorem wit_integer_results :
    (∃ o f, arithLane (.iadd 0 (.v 63) (.v 4 .ident) (.v 5 .ident)) = some (o, f) ∧ Ready (st 0x5001003001) bd bk o (outOf bd bk o (·.map f))) ∧
    (∃ o f, logicLane (.shli 0 (.v 0) (.v 1 .rot1) 31) = some (o, f) ∧ Ready (st 0) bd bk o (outOf bd bk o (·.map f))) ∧
    (∃ o f, bitLane (.bfe 0 (.v 0) (.v 1 .ident) (.v 2 .ident)) = some (o, f) ∧ Ready (st 0) bd bk o (outOf bd bk o (·.map f))) ∧
    (∃ o f, pairLane (.lea 0 (.v 62) (.k 254) (.v 2 .ident) 7 true) = some (o, f) ∧ Ready (st 0) bd bk o (outOf bd bk o (·.map f))) ∧
    (∃ o f, moveLane (.mov 0 (.v 60) (.v 0 .mir) .w128) = some (o, f) ∧ Ready (st 0) bd bk o (outOf bd bk o (·.map f))) ∧
    ∃ o f, predLane (.isetp 0 7 (.v 0 .ident) (.v 63 .ident) .geu) = some (o, f) ∧ Ready (st 0) bd bk o (outOf bd bk o (·.map f)) :=
  ⟨⟨_, _, rfl, by decide⟩, ⟨_, _, rfl, by decide⟩, ⟨_, _, rfl, by decide⟩, ⟨_, _, rfl, by decide⟩, ⟨_, _, rfl, by decide⟩, ⟨_, _, rfl, by decide⟩⟩

theorem wit_floating_point :
    (∃ o f, floatLane (.fadd 0 (.v 63) ⟨.v 0 .ident, true, true⟩ ⟨.v 1 .ident, false, false⟩ .rtz) = some (o, f) ∧
      Ready (st 0) bd bk o (outOf bd bk o (·.map f))) ∧
    ∃ o f, packedLane (.hmul2 0 (.v 63) ⟨.v 0 .ident, true, true⟩ ⟨.v 1 .ident, false, false⟩ true) = some (o, f) ∧
      Ready (st 0) bd bk o (outOf bd bk o (·.map f)) := ⟨⟨_, _, rfl, by decide⟩, ⟨_, _, rfl, by decide⟩⟩

theorem wit_conversions : ∃ o f, convertLane (.cvt 0 (.v 62) (.v 0 .ident) none .fp32 .int64 .rne) = some (o, f) ∧
    Ready (st 0) bd bk o (outOf bd bk o (·.map f)) := ⟨_, _, rfl, by decide⟩

theorem wit_cross_lane : ∃ o F, crossLane (.shuf 0 (.v 63) (.v 0 .ident) (.v 1 .ident) .rot) = some (o, F) ∧
    Ready (st 0) bd bk o (outOf bd bk o F) := ⟨_, _, rfl, by decide⟩

/-! ### Witnesses: control, traps and registers -/

theorem wit_branches : Whole (st 0x30000000B0) bd bk ∧ ¬ bd.idx < bd.last ∧
    (∀ tid ∈ bd.lanes, (st 0).targetOk bk true (if tid ∈ (st 0).active bd 0 then bd.hdr + 8 * (2 : BitVec 28).signExtend 64 else bd.hdr + 16) = true) ∧
    (st 0).outOfBounds bd ⟨0, [(.k 2, 2)], [], .none, false, false⟩ = [] ∧ (st 0).outOfBounds bd ⟨0, [], [], .reg (.v 62) 2, false, false⟩ = [] ∧
    (∀ tid ∈ bd.lanes, (st 0).targetOk bk true (if tid ∈ (st 0).active bd 1 then 0 else bd.hdr + 16) = true) := by decide

theorem wit_thread_control : (Runs (st 0) bd bk ∧ GoesOn (st 0) bd bk ∧ (st 0).debugOn bk = false ∧
    (let s := (st 0).modQueue 0 fun c => { c with act := { c.act with ctrl := 4 } }
     s.debugOn bk = true ∧ s.active bd 0 = 0 :: List.range' 1 7 ∧ ((s.endPlain bd).blocks[bd.blk]?).map (·.halt) = some none)) ∧
    ∃ k1, Runs ((st 0).commitLanes bd 0) bd k1 ∧ GoesOn ((st 0).commitLanes bd 0) bd k1 := ⟨by decide, _, ⟨by decide, rfl, by decide⟩, by decide⟩

theorem wit_region_commit : (st1 0 id).thread? 0 0 = some th0 ∧ ((st1 0 id).commitRegion 0 0 bd.pc).2 = true ∧
    (let t := fun (th : Thread) => { th with stores := [⟨0x2FFFC, .s32, .gen, false, 7, 0⟩], cntSt := 1, pend := 31 }
     (dat (st1 0 t)).thread? 0 0 = some (t th0) ∧ ((dat (st1 0 t)).commitRegion 0 0 bd.pc).2 = true) := by decide

theorem wit_system_registers : sysreg 0x040 = some ⟨true, false, false⟩ ∧ Runs (st 0) bd bk ∧
    (VOp.usesQ ⟨0, [], [], .reg (.v 62) 2, false, false⟩ = false ∧ (st 0).outOfBounds bd ⟨0, [], [], .reg (.v 62) 2, false, false⟩ = []) ∧
    (let s1 := (st 0).commitLanes bd 0
     ∃ k1, Runs s1 bd k1 ∧ (Src.v 62 .ident).notQ = true ∧ s1.outOfBounds bd ⟨0, [(.v 63 .ident, 1)], [], .none, false, false⟩ = [] ∧
      s1.outOfBounds bd ⟨0, [(.v 62 .ident, 2)], [], .none, false, false⟩ = []) :=
  ⟨by decide, by decide, by decide, _, ⟨by decide, rfl, by decide⟩, by decide⟩

/-- FRCP of 0 raises DZ, which the thread has enabled; its handler is the clause of the placed instruction. -/
def trapping (th : Thread) : Thread := { th with flags := 0x200, utvec := 0x10100 }
theorem wit_user_trap_entry : ∃ o f, floatLane (.frcp 0 (.v 2) ⟨.v 0 .ident, false, false⟩) = some (o, f) ∧ o.traps = true ∧
    (let s := st1 0 trapping
     let k := bk1 trapping
     Runs s bd1 k ∧ o.usesQ = false ∧ s.outOfBounds bd1 o = [] ∧ bd1.meet = false ∧ s.active bd1 o.guard = [0] ∧
     s.thread? 0 0 = some (trapping th0) ∧ (outOf bd1 k o (·.map f) 0).fault = none ∧ trapCause (outOf bd1 k o (·.map f) 0).flags (trapping th0).flags ≠ 0 ∧
     (trapping th0).utvec ≠ 0 ∧
     ((s.modThread 0 0 fun t => { t with pend := t.pend ||| (outOf bd1 k o (·.map f) 0).flags }).commitRegion 0 0 bd1.pc).2 = true ∧
     ((s.modThread 0 0 fun t => { t with pend := t.pend ||| (outOf bd1 k o (·.map f) 0).flags }).commitRegion 0 0 bd1.pc).1.targetOk k true (trapping th0).utvec = true) :=
  ⟨_, _, rfl, by decide⟩

/-- A thread in a trap whose instruction was the last of its clause, with UDST and UCAUSE. -/
def trapped (udst cause : Word) (th : Thread) : Thread := { th with intrap := true, uepc := 0x10108, udst := udst, ucause := cause, opening := false }
def TrapAt (udst cause : Word) (P : Thread → Prop) : Prop :=
  let s := st1 0xB9 (trapped udst cause)
  ∃ s1 k k1 was th, Whole s bd1 k ∧ Whole s1 bd1 k1 ∧ ¬ bd1.idx < bd1.last ∧ s.active bd1 0 = [0] ∧ s.thread? 0 0 = some was ∧ s.commitRegion 0 0 bd1.pc = (s1, true) ∧
    s1.thread? 0 0 = some th ∧ was.intrap = true ∧ s.clauseOf k true was.uepc = some (0x10100, 1) ∧ s1.clauseOf k1 true was.uepc = some (0x10100, 1) ∧
    was.uepc = 0x10100 + BitVec.ofNat 64 (8 * 1) ∧ s1.targetOk k1 true (0x10100 + BitVec.ofNat 64 (8 * (1 + 1))) = true ∧
    s.outOfBounds bd1 ⟨0, [(.v 0 .ident, 1)], [], .none, false, false⟩ = [] ∧ s.outOfBounds bd1 ⟨0, [(.v 0 .ident, 2)], [], .none, false, false⟩ = [] ∧ P th
theorem wit_user_trap_return :
    (TrapAt 63 0x70140 fun th => th.ucause.getLsbD 12 = false ∧ th.udst.toNat < th.regs) ∧ (TrapAt 7 0x71040 fun th => th.ucause.getLsbD 12 = true) ∧
    TrapAt 62 0x70140 fun th => th.ucause.getLsbD 12 = false ∧ th.udst.getLsbD 0 = false ∧ th.udst.toNat + 1 < th.regs :=
  ⟨⟨_, _, _, _, _, ⟨by decide, rfl, by decide⟩, ⟨by decide, rfl, by decide⟩, by decide, by decide, rfl, rfl, rfl, by decide⟩,
   ⟨_, _, _, _, _, ⟨by decide, rfl, by decide⟩, ⟨by decide, rfl, by decide⟩, by decide, by decide, rfl, rfl, rfl, by decide⟩,
   _, _, _, _, _, ⟨by decide, rfl, by decide⟩, ⟨by decide, rfl, by decide⟩, by decide, by decide, rfl, rfl, rfl, by decide⟩

/-! ### Witnesses: registers and memory -/

/-- Core 0 of `s` changed; the launch of `s` changed. -/
def onCore (s : State) (f : Core → Core) : State := { s with cores := upd s.cores 0 f }
def onLaunch (s : State) (f : Launch → Launch) : State := { s with front := { s.front with launches := upd s.front.launches 0 f } }
/-- What RegisterPool asks of one lane, with `P` for a clause's own hypotheses. -/
def PoolAt (s : State) (P : State → Block → Thread → Core → Prop) : Prop :=
  let s1 := s.commitLanes bd1 0
  ∃ k th c, s.curBundle = some bd1 ∧ Runs s1 bd1 k ∧ s1.active bd1 0 = [0] ∧ s1.thread? 0 0 = some th ∧ s1.cores[k.core]? = some c ∧ P s1 k th c
def poolSt : State := st1 0 fun th => { th with opening := false }
def poolBk : Block := bk1 fun th => { th with opening := false }
def poolBig : State := onLaunch poolSt fun l => { l with lrec := { l.lrec with maxregs := 1536 } }
abbrev maxr (s : State) (k : Block) : Nat := ((s.launch? k).map (·.lrec.maxregs)).getD 1536
def part (bytes : Nat) (dst : Option Nat) : Part := ⟨0, 0, none, 0, 0, 0x10108, 0x20000, 128 - bytes, bytes, dst, 7, 9, 0, 0, 0⟩
/-- Returns of thread 0 in flight with every value of the grant tag but one. -/
def tagsOut (s : State) : State :=
  { s with homes := { s.homes with rets := (List.range 15).map fun i => ⟨i, 0, 0, true, false, 0x400, false, { part 4 (some 64) with grant := some (BitVec.ofNat 4 (i + 1)) }, .rlx, .die, 0, none⟩ } }
theorem wit_register_pool :
    (PoolAt poolSt fun s1 k th _ => 64 ≤ th.regs ∧ th.regs < 128 ∧ maxr s1 k < 128 ∧ k.halt = none ∧ GoesOn s1 bd1 k) ∧
    (PoolAt poolBig fun s1 k th c => th.regs < 1536 ∧ 1536 ≤ maxr s1 k ∧ c.growq = [] ∧ c.vacating = false ∧ (1536 - th.regs) / 64 ≤ c.free) ∧
    (PoolAt { onCore poolBig (fun c => { c with free := 0, growq := [⟨0, 0, 0, 128, [1]⟩] }) with cycle := 1 } fun s1 k th c => th.regs < 128 ∧ 128 ≤ maxr s1 k ∧
      c.free < (128 - th.regs) / 64 ∧ k.reserve < (128 - th.regs) / 64 ∧ (∀ x ∈ c.growq, x.cycle < s1.cycle) ∧ GoesOn s1 bd1 k) ∧
    ([⟨0, 0, 0, 128, [0]⟩, ⟨1, 0, 0, 128, [0]⟩] : List GrowReq).Pairwise (fun x y => y.before x = false) ∧
    (PoolAt poolSt fun s1 _ th c => 0 < th.regs ∧ (s1.nextGrant 0 0 th 0).isSome = true ∧ (∀ x ∈ c.growq, ¬(x.blk = bd1.blk ∧ 0 ∈ x.tids)) ∧ c.growq = [] ∧ s1.heldChunks 0 0 0 = []) ∧
    (PoolAt (tagsOut poolSt) fun s1 _ th _ => 0 < th.regs ∧ s1.nextGrant 0 0 th 0 = none) ∧
    (∃ o f, arithLane (.iadd 0 .vz (.v 64 .ident) (.v 0 .ident)) = some (o, f) ∧ Runs poolSt bd1 poolBk ∧ o.usesQ = false ∧ poolBk.halt = none ∧ GoesOn poolSt bd1 poolBk ∧
      poolSt.outOfBounds bd1 o = [0] ∧ o.traps = false) :=
  ⟨⟨_, _, _, by decide, ⟨by decide, rfl, by decide⟩, by decide, rfl, rfl, by decide⟩, ⟨_, _, _, by decide, ⟨by decide, rfl, by decide⟩, by decide, rfl, rfl, by decide⟩,
    ⟨_, _, _, by decide, ⟨by decide, rfl, by decide⟩, by decide, rfl, rfl, by decide⟩, by decide,
    ⟨_, _, _, by decide, ⟨by decide, rfl, by decide⟩, by decide, rfl, rfl, by decide⟩, ⟨_, _, _, by decide, ⟨by decide, rfl, by decide⟩, by decide, rfl, rfl, by decide⟩,
    _, _, rfl, by decide⟩

/-- One lane with an address in V0:V1, and what `f` adds; the page at 0x20000 is mapped. -/
def atAddr (a : Nat) (f : Thread → Thread) : State := dat (st1 0 fun th => f { th with opening := false, v := th.v.set 0 (BitVec.ofNat 32 a) })
/-- What the memory statements ask of one lane, with `P` for a clause's own hypotheses. -/
def MemAt (s : State) (o : MemOp) (P : State → Block → Thread → Prop) : Prop := ∃ s1 k th, LoneMem s s1 bd1 k 0 th o ∧ P s1 k th
def mf (size : Size) (path : Path) (order : Order) : MemF := ⟨0, 0, path, size, 0, .die, order⟩
/-- A line of the page at 0x20000 in the L1 of core 0. -/
def cached (s : State) : State := onCore s fun c => { c with l1 := [⟨0x20000 / 128, 0, List.replicate 128 0xA5, false, 0, false⟩] }
theorem wit_loads_and_stores :
    (∃ o f dst own, loadForm (.ld 0 (.v 2) (mf .s128 .gen .acq)) = some (o, f, dst, own) ∧
      MemAt (atAddr 0x2FFF0 id) o fun s1 k th => s1.memTgt 0 k o (o.ea k th) = .mem 0x2FFF0 false ∧
        ((s1.reached k (o.ea k th) (.mem 0x2FFF0 false)).forward 0 k th (.mem 0x2FFF0 false) (o.ea k th) o.bytes).1.toNat ≠ 2 ^ o.bytes - 1 ∧ (if own then none else s1.l1For k 0 0 f (s1.memTgt 0 k o (o.ea k th))) = none) ∧
    (∃ o f dst own, loadForm (.ld 0 .vz (mf .s8 .gen .rlx)) = some (o, f, dst, own) ∧
      MemAt (cached (atAddr 0x2007F id)) o fun s1 k th => s1.memTgt 0 k o (o.ea k th) = .mem 0x2007F false ∧
        ((s1.reached k (o.ea k th) (.mem 0x2007F false)).forward 0 k th (.mem 0x2007F false) (o.ea k th) o.bytes).1.toNat ≠ 2 ^ o.bytes - 1 ∧
        ((if own then none else s1.l1For k 0 0 f (s1.memTgt 0 k o (o.ea k th))).map (·.line)) = some 0x400) ∧
    (∃ o f dst own, loadForm (.ld 0 (.v 63) (mf .s32 .gen .rlx)) = some (o, f, dst, own) ∧
      MemAt (atAddr 0x20000 fun th => { th with stores := [⟨0x20000, .s64, .gen, false, 7, 0⟩], cntSt := 1 }) o fun s1 k th =>
        s1.memTgt 0 k o (o.ea k th) = .mem 0x20000 false ∧ ((s1.reached k (o.ea k th) (.mem 0x20000 false)).forward 0 k th (.mem 0x20000 false) (o.ea k th) o.bytes).1.toNat = 2 ^ o.bytes - 1) ∧
    (∃ o f n size sts, storeForm (.st 0 (.v 63) (mf .s8 .gen .rlx)) = some (o, f, n, size, sts) ∧
      (MemAt (atAddr 0x2FFFF id) o fun s1 k th => s1.memTgt 0 k o (o.ea k th) = .mem 0x2FFFF false ∧ f.order = .rlx ∧ th.stores.length < 32 ∧ s1.bufUsed k.core < 2048) ∧
      (MemAt (atAddr 0x2FFFF fun th => { th with stores := List.replicate 32 ⟨0x20000, .s8, .gen, false, 7, 0⟩, cntSt := 32 }) o fun s1 k th =>
        s1.memTgt 0 k o (o.ea k th) = .mem 0x2FFFF false ∧ f.order = .rlx ∧ th.stores.length = 32 ∧ k.halt = none ∧ GoesOn (s1.reached k (o.ea k th) (.mem 0x2FFFF false)) bd1 k)) ∧
    (∃ o f n size sts, storeForm (.st 0 (.v 60) (mf .s128 .gen .sc)) = some (o, f, n, size, sts) ∧
      MemAt (atAddr 0x20000 id) o fun s1 k th => s1.memTgt 0 k o (o.ea k th) = .mem 0x20000 false ∧ f.order ≠ .rlx) :=
  ⟨⟨_, _, _, _, rfl, _, _, _, ⟨by decide, rfl, ⟨by decide, rfl, by decide⟩, by decide, by decide, rfl, by decide⟩, by decide⟩,
   ⟨_, _, _, _, rfl, _, _, _, ⟨by decide, rfl, ⟨by decide, rfl, by decide⟩, by decide, by decide, rfl, by decide⟩, by decide⟩,
   ⟨_, _, _, _, rfl, _, _, _, ⟨by decide, rfl, ⟨by decide, rfl, by decide⟩, by decide, by decide, rfl, by decide⟩, by decide⟩,
   ⟨_, _, _, _, _, rfl, ⟨_, _, _, ⟨by decide, rfl, ⟨by decide, rfl, by decide⟩, by decide, by decide, rfl, by decide⟩, by decide⟩,
     _, _, _, ⟨by decide, rfl, ⟨by decide, rfl, by decide⟩, by decide, by decide, rfl, by decide⟩, by decide⟩,
   ⟨_, _, _, _, _, rfl, _, _, _, ⟨by decide, rfl, ⟨by decide, rfl, by decide⟩, by decide, by decide, rfl, by decide⟩, by decide⟩⟩

def af (order : Order) (opnd : Src) : AtomF := ⟨0, .s64, 0, .die, order, opnd⟩
theorem wit_atomic_issue :
    (∃ op g d m, atomForm (.atomCas 0 (.v 62) (af .sc (.v 60 .ident))) = some (op, g, d, m) ∧ m.opnd.notQ = true ∧
      MemAt (atAddr 0x2FFF8 id) (atomMem op g d m) fun s1 k th => ∃ c, s1.cores[k.core]? = some c ∧
        s1.memTgt 0 k (atomMem op g d m) (BitVec.ofNat 64 (th.regW m.addr.val 2)).toNat = .mem 0x2FFF8 false ∧ op = 0x8E ∧ m.opnd = .v 60 .ident) ∧
    (∃ op g d m, atomForm (.atomAdd 0 .vz (af .rlx (.k 3))) = some (op, g, d, m) ∧ m.opnd.notQ = true ∧
      MemAt (atAddr 0x20000 id) (atomMem op g d m) fun s1 k th => ∃ c, s1.cores[k.core]? = some c ∧
        s1.memTgt 0 k (atomMem op g d m) (BitVec.ofNat 64 (th.regW m.addr.val 2)).toNat = .mem 0x20000 false) :=
  ⟨⟨_, _, _, _, rfl, by decide, _, _, _, ⟨by decide, rfl, ⟨by decide, rfl, by decide⟩, by decide, by decide, rfl, by decide⟩, _, rfl, by decide⟩,
   ⟨_, _, _, _, rfl, by decide, _, _, _, ⟨by decide, rfl, ⟨by decide, rfl, by decide⟩, by decide, by decide, rfl, by decide⟩, _, rfl, by decide⟩⟩

theorem wit_access_faults :
    (∃ o f dst own, loadForm (.ld 0 (.v 2) (mf .s16 .gen .rlx)) = some (o, f, dst, own) ∧
      (MemAt (atAddr 0x20001 id) o fun s1 k th => k.halt = none ∧ GoesOn s1 bd1 k ∧ o.ea k th % o.bytes ≠ 0) ∧
      MemAt (atAddr 0x30000 id) o fun s1 k th => s1.memTgt 0 k o (o.ea k th) = .miss ∧ s1.walksOf k.core < 8) ∧
    ∃ o f dst own, loadForm (.lds 0 (.v 2) (mf .s16 .spad .rlx)) = some (o, f, dst, own) ∧
      MemAt (atAddr 0x400000 id) o fun s1 k th => k.halt = none ∧ GoesOn s1 bd1 k ∧ o.bytes ≠ 0 ∧ o.ea k th % o.bytes = 0 ∧ o.space = .cluster ∧ 2 ^ 22 ≤ o.ea k th :=
  ⟨⟨_, _, _, _, rfl, ⟨_, _, _, ⟨by decide, rfl, ⟨by decide, rfl, by decide⟩, by decide, by decide, rfl, by decide⟩, by decide⟩,
     _, _, _, ⟨by decide, rfl, ⟨by decide, rfl, by decide⟩, by decide, by decide, rfl, by decide⟩, by decide⟩,
   ⟨_, _, _, _, rfl, _, _, _, ⟨by decide, rfl, ⟨by decide, rfl, by decide⟩, by decide, by decide, rfl, by decide⟩, by decide⟩⟩

/-- What FENCE and the cache operations ask of one lane. -/
def FenceAt (s : State) (P : State → Block → Thread → Prop) : Prop :=
  ∃ s1 k th c, s1 = s.commitLanes bd1 0 ∧ s.curBundle = some bd1 ∧ Runs s1 bd1 k ∧ s.active bd1 0 = [0] ∧ s1.active bd1 0 = [0] ∧
    s1.thread? 0 0 = some th ∧ s1.cores[k.core]? = some c ∧ th.blocked = 0 ∧ P s1 k th
/-- A persist write of thread 0 of block 0 in flight to a line of another package. -/
def persisting (s : State) : State :=
  { s with homes := { s.homes with reqs := [⟨0, 0, 0, 0, .store, 2 ^ 35, none, .pers, 0, .rel, .system, false, 0, true, [⟨0, 0, none, 0, 0, 0, 0, 0, 4, none, 7, 0, 0, 0, 0⟩]⟩] } }
theorem wit_fences_prefetches_and_caches :
    (FenceAt (atAddr 0x2FFFF id) fun s1 k th => s1.loadsPending 0 0 = false ∧ s1.writesPending 0 0 = false ∧ s1.persistOut 0 0 true = false ∧
      0 + 2 ≤ th.regs ∧ th.cntSt ≠ 63 ∧ s1.memTgt 0 k { lineOp 0 0 0 .s8 true with space := .virt .ro .read } 0x2FFFF = .mem 0x2FFFF false ∧
      s1.memTgt 0 k (lineOp 0 0 0 .s8 true) 0x2FFFF = .mem 0x2FFFF false ∧ (BitVec.ofInt 64 ((th.regW 0 2 : Int) + 0)).toNat = 0x2FFFF) ∧
    (FenceAt (atAddr 0x20000 fun th => { th with cntLd := 1 }) fun s1 _ _ => s1.loadsPending 0 0 = true) ∧
    (FenceAt (persisting (atAddr 0x20000 id)) fun s1 _ _ => s1.persistOut 0 0 true = true ∧ s1.persistOut 0 0 false = false) ∧
    (let s := atAddr 0x2FFC0 id
     let ea := fun (th : Thread) => (BitVec.ofInt 64 ((th.regW 0 2 : Int) + (3 : BitVec 14).toInt * 16)).toNat
     ∃ k th, Runs s bd1 k ∧ s.active bd1 0 = [0] ∧ s.thread? 0 0 = some th ∧ th.blocked = 0 ∧ 0 + 2 ≤ th.regs ∧ s.walkFull (some k.core) (s.ctxOf k) (ea th) = false ∧
      s.tgtOf false (s.xlateAt (some k.core) (s.ctxOf k) (ea th) .read) = .mem 0x2FFF0 false ∧ th.regs < (64 : Fin 1536).val + 2) :=
  ⟨⟨_, _, _, _, rfl, by decide, ⟨by decide, rfl, by decide⟩, by decide, by decide, rfl, rfl, by decide⟩,
   ⟨_, _, _, _, rfl, by decide, ⟨by decide, rfl, by decide⟩, by decide, by decide, rfl, rfl, by decide⟩,
   ⟨_, _, _, _, rfl, by decide, ⟨by decide, rfl, by decide⟩, by decide, by decide, rfl, rfl, by decide⟩, _, _, ⟨by decide, rfl, by decide⟩, by decide, rfl, by decide⟩

/-! ### Witnesses: queues and barriers -/

/-- Block 0 of `s` changed. -/
def onBlock (s : State) (f : Block → Block) : State := { s with blocks := upd s.blocks 0 f }
def setQ (n : Nat) (c : Carve) (k : Block) : Block := { k with queues := upd k.queues n fun _ => c }
/-- A 32-bit queue of two slots in LANE mode with so many entries, closed or open. -/
def carve (count : Nat) (closed : Bool) : Carve := ⟨true, 0, 2, 1, count, false, 0, closed, 0, 0, 0⟩
def quiet (th : Thread) : Thread := { th with opening := false }
/-- What QueueOperands asks of one lane before its clauses. -/
def QueueAt (i : Instr) (s : State) (P : VOp → State → Block → Thread → Prop) : Prop :=
  ∃ o f k s1 k1 th, pointwise i = some (o, f) ∧ Runs s bd1 k ∧ o.meet = false ∧ k.rowMode o = false ∧ s.outOfBounds bd1 o = [] ∧ s.active bd1 o.guard = [0] ∧
    s.commitRegion 0 0 bd1.pc = (s1, true) ∧ Runs s1 bd1 k1 ∧ s1.thread? 0 0 = some th ∧
    (let out := f (popView k1 o th)
     out.fault = none ∧ (o.traps = true → trapCause out.flags th.flags = 0)) ∧ P o s1 k1 th
/-- The same of RDSR and WRSR. -/
def SysQueueAt (o : VOp) (s : State) (P : State → Block → Prop) : Prop :=
  ∃ k s1 k1 th, Runs s bd1 k ∧ s.active bd1 0 = [0] ∧ s.commitRegion 0 0 bd1.pc = (s1, true) ∧ Runs s1 bd1 k1 ∧ s1.thread? 0 0 = some th ∧ k.rowMode o = false ∧
    k1.rowMode o = false ∧ k1.queueFault o false = none ∧ k1.queueWait o 1 = none ∧ P s1 k1
def popping : Instr := .iadd 0 (.v 63) (.q 15) (.q 15)
def pushing : Instr := .iadd 0 (.q 15) (.v 63 .ident) (.v 0 .ident)
def queued (c : Carve) : State := onBlock (st1 0 quiet) (setQ 15 c)
theorem wit_queue_operands :
    (QueueAt popping (queued (carve 2 false)) fun o _ k1 _ => o.usesQ = true ∧ o.pushOf = none ∧ k1.queueFault o false = none ∧ k1.queueWait o 1 = none) ∧
    (QueueAt popping (queued (carve 1 false)) fun o _ k1 _ => o.usesQ = true ∧ o.pushOf = none ∧ k1.queueFault o false = none ∧ k1.queueWait o 1 = some 15) ∧
    (QueueAt popping (st1 0 quiet) fun o s1 k1 _ => o.usesQ = true ∧ o.pushOf = none ∧ k1.queueFault o false = some 0x15 ∧ k1.halt = none ∧ GoesOn s1 bd1 k1) ∧
    (QueueAt pushing (queued (carve 1 false)) fun o s1 k1 _ => o.popsOf = [] ∧ o.pushOf = some (15, 1) ∧ s1.writesPending 0 0 = false ∧
      k1.queueFault o false = none ∧ k1.queueWait o 1 = none) ∧
    (QueueAt pushing (queued (carve 2 false)) fun o s1 k1 _ => o.popsOf = [] ∧ o.pushOf = some (15, 1) ∧ s1.writesPending 0 0 = false ∧
      k1.queueFault o false = none ∧ k1.queueWait o 1 = some 15) ∧
    (sysreg 0x030 = some ⟨false, true, true⟩ ∧ SysQueueAt ⟨0, [], [], .reg (.q 15) 1, false, false⟩ (queued (carve 1 false)) fun s1 _ => s1.writesPending 0 0 = false) ∧
    (SysQueueAt ⟨0, [(.q 15, 1)], [], .sys 0x030, false, false⟩ (queued (carve 1 false)) fun _ _ => True) ∧
    ((carve 1 false).count < (carve 1 false).cap ∧ 0 < (carve 2 true).count ∧ (carve 0 true).count = 0 ∧ (setQ 15 (carve 1 false) bk).queues[15]? = some (carve 1 false)) :=
  ⟨⟨_, _, _, _, _, _, rfl, ⟨by decide, rfl, by decide⟩, by decide, by decide, by decide, by decide, rfl, ⟨by decide, rfl, by decide⟩, rfl, by decide, by decide⟩,
   ⟨_, _, _, _, _, _, rfl, ⟨by decide, rfl, by decide⟩, by decide, by decide, by decide, by decide, rfl, ⟨by decide, rfl, by decide⟩, rfl, by decide, by decide⟩,
   ⟨_, _, _, _, _, _, rfl, ⟨by decide, rfl, by decide⟩, by decide, by decide, by decide, by decide, rfl, ⟨by decide, rfl, by decide⟩, rfl, by decide, by decide⟩,
   ⟨_, _, _, _, _, _, rfl, ⟨by decide, rfl, by decide⟩, by decide, by decide, by decide, by decide, rfl, ⟨by decide, rfl, by decide⟩, rfl, by decide, by decide⟩,
   ⟨_, _, _, _, _, _, rfl, ⟨by decide, rfl, by decide⟩, by decide, by decide, by decide, by decide, rfl, ⟨by decide, rfl, by decide⟩, rfl, by decide, by decide⟩,
   ⟨by decide, _, _, _, _, ⟨by decide, rfl, by decide⟩, by decide, rfl, ⟨by decide, rfl, by decide⟩, rfl, by decide⟩,
   ⟨_, _, _, _, ⟨by decide, rfl, by decide⟩, by decide, rfl, ⟨by decide, rfl, by decide⟩, rfl, by decide, by decide, by decide, by decide, trivial⟩, by decide⟩

/-- One lane of a block about to run a singleton, committed. -/
def SingleAt (s : State) (P : State → Block → Thread → Prop) : Prop :=
  ∃ s1 k th, s1 = s.commitLanes bd1 0 ∧ s.curBundle = some bd1 ∧ Runs s1 bd1 k ∧ s1.active bd1 0 = [0] ∧ s1.thread? 0 0 = some th ∧ P s1 k th
theorem wit_queue_instructions :
    (SingleAt (queued (carve 2 false)) fun s1 k _ => k.queues[15]? = some (carve 2 false) ∧ (carve 2 false).carved = true ∧
      (queued (carve 2 false)).outOfBounds bd1 (.w1 0 (.v 63) []) = [] ∧ (carve 2 false).row = false ∧ (carve 2 false).width = 0 ∧
      (queued (carve 2 false)).outOfBounds bd1 ⟨0, [(.k 254, 1)], [], .none, false, false⟩ = [] ∧ s1.writesPending 0 0 = false ∧ (carve 2 false).cap ≤ (carve 2 false).count) ∧
    (SingleAt (queued (carve 0 false)) fun s1 k _ => k.queues[15]? = some (carve 0 false) ∧ s1.writesPending 0 0 = false ∧ (carve 0 false).count < (carve 0 false).cap) ∧
    (SingleAt (st1 0 quiet) fun s1 k _ => ∃ c, k.queues[15]? = some c ∧ c.carved = false ∧ k.halt = none ∧ GoesOn s1 bd1 k) :=
  ⟨⟨_, _, _, rfl, by decide, ⟨by decide, rfl, by decide⟩, by decide, rfl, by decide⟩, ⟨_, _, _, rfl, by decide, ⟨by decide, rfl, by decide⟩, by decide, rfl, by decide⟩,
   ⟨_, _, _, rfl, by decide, ⟨by decide, rfl, by decide⟩, by decide, rfl, _, rfl, by decide⟩⟩

def setB (x : Barrier) (k : Block) : Block := { k with bars := upd k.bars 15 fun _ => x }
/-- What the barrier of one lane asks: `x` is barrier 15, expecting `n`. -/
def barrierSt (x : Barrier) (f : Thread → Thread) : State := onBlock (st1 0 fun th => f (quiet th)) (setB x)
theorem wit_barrier_operations :
    (((setB ⟨some 1, 1, false, 0⟩ bk).arrivalsIn 15 && (0 : DWord) == 0) = true ∧ ((setB ⟨some 1, 1, false, 8⟩ bk).arrivalsIn 15 && (8 : DWord) == 0) = false) ∧
    (let x : Barrier := ⟨some 2, 0, true, 0⟩
     SingleAt (barrierSt x id) fun s1 k th => k.bars[15]? = some x ∧ s1.writesPending 0 0 = false ∧ ¬ (x.expected = none ∧ th.arrb.getLsbD 15 = true) ∧
      (barrierSt x id).outOfBounds bd1 (.w1 0 (.v 63) []) = [] ∧ GoesOn s1 bd1 k ∧
      (((s1.modThread 0 0 fun t => { t with arrb := t.arrb ||| 0x8000 }).modBlock 0 fun k =>
        { k with bars := k.bars.set 15 { x with arrived := 1 } }).testBarrier 0 15).barPhase 0 15 = x.phase) ∧
    (let x : Barrier := ⟨some 1, 0, true, 0⟩
     SingleAt (barrierSt x id) fun s1 k _ => k.bars[15]? = some x ∧ s1.writesPending 0 0 = false ∧
      (((s1.modThread 0 0 fun t => { t with arrb := t.arrb ||| 0x8000 }).modBlock 0 fun k =>
        { k with bars := k.bars.set 15 { x with arrived := 1 } }).testBarrier 0 15).barPhase 0 15 ≠ x.phase) ∧
    (SingleAt (barrierSt ⟨none, 1, false, 0⟩ fun th => { th with arrb := 0x8000 }) fun s1 k th => k.bars[15]? = some ⟨none, 1, false, 0⟩ ∧
      s1.writesPending 0 0 = false ∧ th.arrb.getLsbD 15 = true ∧ k.halt = none ∧ GoesOn s1 bd1 k ∧ (4097 : BitVec 21).toNat ≤ 4097 ∧ 4097 < (4098 : BitVec 21).toNat) :=
  ⟨by decide, ⟨_, _, _, rfl, by decide, ⟨by decide, rfl, by decide⟩, by decide, rfl, by decide⟩, ⟨_, _, _, rfl, by decide, ⟨by decide, rfl, by decide⟩, by decide, rfl, by decide⟩,
   ⟨_, _, _, rfl, by decide, ⟨by decide, rfl, by decide⟩, by decide, rfl, by decide⟩⟩

/-- A sequencer about to run an instruction. -/
def SeqState (s : State) (P : Block → Prop) : Prop := ∃ k, SeqRuns s 0 k 0 ∧ P k
theorem wit_waits_and_cluster_barriers :
    (SingleAt (st1 0 fun th => quiet { th with cntLd := 1 }) fun s1 k th => th.cntLd ≤ 1 ∧ ¬ (th.cntLd ≤ 0) ∧ s1.writesPending 0 0 = false ∧
      GoesOn s1 bd1 k ∧
      (let c := s1.cbarOf k.launch k.unit
       (((s1.setCbar { c with tarr := (0, 0) :: c.tarr }).testTbar k.launch k.unit).cbarOf k.launch k.unit).tphase ≠ c.tphase)) ∧
    (SingleAt { st 0 with bundles := [bd1], blocks := [{ bk with threads := bk.threads.map quiet }] } fun s1 k _ => s1.writesPending 0 0 = false ∧
      (let c := s1.cbarOf k.launch k.unit
       (((s1.setCbar { c with tarr := (0, 0) :: c.tarr }).testTbar k.launch k.unit).cbarOf k.launch k.unit).tphase = c.tphase) ∧
      GoesOn s1 bd1 k) ∧
    SeqState (sq 0xF5 fun k => { setB ⟨some 2, 0, true, 0⟩ k with cntCp := 2 }) fun k => k.bars[15]? = some ⟨some 2, 0, true, 0⟩ ∧ k.cntCp ≤ 2 ∧ ¬ (k.cntCp ≤ 1) ∧ k.cntTl ≤ 0 ∧
      (some 2 : Option Nat) ≠ none :=
  ⟨⟨_, _, _, rfl, by decide, ⟨by decide, rfl, by decide⟩, by decide, rfl, by decide⟩, ⟨_, _, _, rfl, by decide, ⟨by decide, rfl, by decide⟩, by decide, rfl, by decide⟩, ⟨_, ⟨by decide, rfl, .inl rfl⟩, by decide⟩⟩

/-! ### Witnesses: the uniform stream -/

theorem wit_uniform_arithmetic : ∃ g kd f k, seqLane (.kset 7 127 0 1 .geu) = some (g, kd, f) ∧ (sq 0xCA id).cur = .sequencer 0 ∧ (sq 0xCA id).resident? 0 = some k ∧
    SeqRuns (sq 0xCA id) 0 k 0 := ⟨_, _, _, _, rfl, by decide, rfl, by decide, rfl, .inl rfl⟩

def looped (n : Nat) (c : DWord) (k : Block) : Block := { k with seq := { k.seq with loops := List.replicate n (0x10110, c) }, k := upd k.k 1 fun _ => 5 }
theorem wit_uniform_control :
    (SeqState (sq 0xCF (looped 3 1)) fun k => (sq 0xCF (looped 3 1)).targetOk k false (k.seq.hdr + 8 * (2 : BitVec 32).signExtend 64) = true ∧
      (sq 0xCF (looped 3 1)).targetOk k false (k.seq.hdr + 8 * (1 : BitVec 32).signExtend 64) = false ∧ k.halt = none ∧ ¬((2 : Guard).val = 0 ∨ k.kreg 2 ≠ 0) ∧
      k.kreg 0 = 0 ∧ k.kreg 1 ≠ 0 ∧ k.seq.loops.length < 4 ∧ (sq 0xCF (looped 3 1)).targetOk k false k.seq.after = true ∧
      k.seq.loops = List.replicate 2 (0x10110, 1) ++ [(0x10110, 1)]) ∧
    (SeqState (sq 0xCF (looped 4 2)) fun k => 4 ≤ k.seq.loops.length ∧ k.halt = none ∧ k.seq.loops = List.replicate 3 (0x10110, 2) ++ [(0x10110, 2)] ∧ (2 : DWord) ≠ 1 ∧
      (sq 0xCF (looped 4 2)).targetOk k false 0x10110 = true) ∧
    SeqState (sq 0xD1 id) fun k => k.seq.loops = [] := ⟨⟨_, ⟨by decide, rfl, .inl rfl⟩, by decide⟩, ⟨_, ⟨by decide, rfl, .inl rfl⟩, by decide⟩, ⟨_, ⟨by decide, rfl, .inl rfl⟩, by decide⟩⟩

/-- K1 holds an address in the mapped page. -/
def addressed (a : DWord) (k : Block) : Block := { k with k := upd k.k 1 fun _ => a }
theorem wit_uniform_memory :
    (let s := dat (sq 0xD0 (addressed 0x2FFF8))
     SeqState s fun k => (k.kreg 1 + (0 : BitVec 32).signExtend 64).toNat % 8 = 0 ∧ Plain s (some k.core) (s.ctxOf k) 0x2FFF8 8 .read 0x2FFF8 0x2FFF8 false ∧
      Plain s (some k.core) (s.ctxOf k) 0x2FFF8 8 .write 0x2FFF8 0x2FFF8 false ∧ Plain s (some k.core) (s.ctxOf k) 0x2FFF8 4 .atomic 0x2FFF8 0x2FFF8 false ∧
      (k.kreg 1 + (1 : BitVec 32).signExtend 64).toNat % 8 ≠ 0 ∧ k.halt = none) ∧
    ∃ e : Eng, e.via.persist = none ∧ e.via.ctx = 15 ∧ e.core = some 0 ∧ [(7 : Byte)].length = 1 ∧ Plain (dat (sq 0 id)) e.core 15 0x2FFFF 1 .write 0x2FFFF 0x2FFFF false :=
  ⟨⟨_, ⟨by decide, rfl, .inl rfl⟩, by decide⟩, ⟨(st 0).seqEng 0, by decide⟩⟩

theorem wit_thread_signal :
    (MemAt (atAddr 0x2FFFC id) (sigMem 0 (.v 0) .set) fun s1 k th => s1.memTgt 0 k (sigMem 0 (.v 0) .set) ((sigMem 0 (.v 0) .set).ea k th) = .mem 0x2FFFC false) ∧
    MemAt (onBlock (atAddr 0 id) fun k => { k with k := upd k.k 126 fun _ => 0x20000 }) (sigMem 0 (.k 126) .maxu) fun s1 k th =>
      s1.memTgt 0 k (sigMem 0 (.k 126) .maxu) ((sigMem 0 (.k 126) .maxu).ea k th) = .mem 0x20000 false :=
  ⟨⟨_, _, _, ⟨by decide, rfl, ⟨by decide, rfl, by decide⟩, by decide, by decide, rfl, by decide⟩, by decide⟩, ⟨_, _, _, ⟨by decide, rfl, ⟨by decide, rfl, by decide⟩, by decide, by decide, rfl, by decide⟩, by decide⟩⟩

/-! ### Witnesses: tiles, transfers and matrix units -/

/-- A block of one tile's window, whose tile 63 is `x`, with a K register for each field. -/
def tiled (x : Tile) (k : Block) : Block := { k with spadBytes := 16384, tiles := upd k.tiles 63 fun _ => x, k := upd (upd k.k 1 fun _ => 8192) 2 fun _ => 64 }
def mappedAcc (k : Block) : Block := { k with accs := upd k.accs 15 fun _ => some (3, 2) }
def busyXfer (kind : XferKind) (row : Nat) (dtile : Bool) (k : Block) : Block :=
  { k with cntTl := 1, xfers := [⟨5, kind, [(0, 63, 0)], 15, dtile, false, 0x20000, 0x100, row, some 15, .fp32, 0, 2, none⟩] }
/-- Accumulator tile 3 of core 0's bank 0 changed. -/
def accTile (x : AccTile) (s : State) : State := onCore s fun c => { c with banks := upd c.banks 0 fun b => { b with tiles := upd b.tiles 3 fun _ => x } }
theorem wit_tiles_and_accumulators :
    (SeqState (sq 0 (tiled Tile.none)) fun k => 63 < k.tiles.length ∧ ((k.tile 63).state = .unbound ∧ countp k.tiles Tile.bound < k.spadBytes / 16384) ∧
      (k.kreg 1).toNat % 128 = 0 ∧ (k.kreg 1).toNat + 8192 ≤ k.spadBytes ∧ (k.kreg 2).toNat % 128 ≠ 0 ∧ k.halt = none) ∧
    (SeqState (sq 0 (tiled ⟨.ready, 0, .int8, 0⟩)) fun k => ¬ ((k.tile 63).state = .unbound ∧ countp k.tiles Tile.bound < k.spadBytes / 16384) ∧
      (k.tile 63).state = .ready ∧ (k.tile 63).holds = 0) ∧
    (SeqState (sq 0 (tiled ⟨.draining, 0, .int8, 1⟩)) fun k => (k.tile 63).state ≠ .unbound ∧ ¬(((k.tile 63).state = .empty ∨ (k.tile 63).state = .ready) ∧ (k.tile 63).holds = 0)) ∧
    (let s := onLaunch (sq 0 id) fun l => { l with lrec := { l.lrec with maxacc := 1 } }
     SeqState s fun k => 15 < k.accs.length ∧ k.acc 15 = none ∧ countp k.accs (·.isSome) < s.maxacc k ∧ ∃ c bk i y, s.cores[k.core]? = some c ∧ c.banks[k.bank]? = some bk ∧
      c.active = k.bank ∧ c.switching = none ∧ bk.tiles.findIdx? (·.owner.isNone) = some i ∧ bk.tiles[i]? = some y) ∧
    (let s := accTile ⟨some (0, 15), 2, []⟩ (sq 0 mappedAcc)
     SeqState s fun k => k.acc 15 = some (3, 2) ∧ s.accBusy 0 15 = false ∧ (∃ c bk y, s.cores[k.core]? = some c ∧ c.banks[k.bank]? = some bk ∧ bk.tiles[3]? = some y) ∧
      k.halt = none ∧ k.acc 15 ≠ none ∧ k.acc 14 = none ∧ s.maxacc k ≤ countp k.accs (·.isSome)) ∧
    (let s := { sq 0 (fun k => busyXfer .aload 0 false (mappedAcc k)) with homes := { (sq 0 id).homes with nextId := 6 } }
     SeqState s fun k => k.acc 15 ≠ none ∧ s.accBusy 0 15 = true) :=
  ⟨⟨_, ⟨by decide, rfl, .inl rfl⟩, by decide⟩, ⟨_, ⟨by decide, rfl, .inl rfl⟩, by decide⟩, ⟨_, ⟨by decide, rfl, .inl rfl⟩, by decide⟩,
   ⟨_, ⟨by decide, rfl, .inl rfl⟩, by decide, by decide, by decide, _, _, _, _, rfl, rfl, by decide, by decide, rfl, rfl⟩,
   ⟨_, ⟨by decide, rfl, .inl rfl⟩, by decide, by decide, ⟨_, _, _, rfl, rfl, rfl⟩, by decide⟩, ⟨_, ⟨by decide, rfl, .inl rfl⟩, by decide⟩⟩

/-- Memory holds the page tables of context 15 only: they map the lowest GiB to the frames of the same addresses, for reads and writes. -/
def bare (s : State) : State := { s with homes := { s.homes with mem := [(0x200000, 0x01), (0x200002, 0x40), (0x400000, 0x0B)] } }
/-- Core 0 of a state whose TLB is empty and whose cluster walks nothing. -/
theorem cold (s : State) (e : TlbEntry) (ht : (s.cores[0]?.map (·.tlb)).getD [] = []) (hw : s.walksOf 0 = 0) : Cold s (some 0) e := fun _ h => by
  cases h
  exact ⟨by simp [ht], by omega⟩
/-- What the rows of a transfer ask: the block lives, the transfer is there and runs. -/
def XferAt (s : State) (P : Block → Xfer → Prop) : Prop :=
  ∃ k x, s.resident? 0 = some k ∧ k.xfers.find? (fun y => y.id == 5) = some x ∧ x.faultVa = none ∧ P k x
/-- A block with a bound tile, a mapped accumulator and a transfer under way. -/
def moving (kind : XferKind) (row : Nat) (dtile : Bool) (st : TileState) : State :=
  bare (accTile ⟨some (0, 15), 2, List.replicate 4096 0⟩ (sq 0 fun k => busyXfer kind row dtile (mappedAcc (tiled ⟨st, 0, .fp32, 0⟩ k))))
theorem wit_transfers_start :
    (let s := sq 0 fun k => mappedAcc (tiled ⟨.empty, 0, .int32, 0⟩ k)
     SeqState s fun k => k.cntTl ≠ 63 ∧ (∀ o ∈ s.mcastBlocks 0 k 0, ((s.blocks[o]?).map fun q => q.tile 63).map Tile.takable = some true) ∧ (k.acc 15).isSome = true ∧
      s.bankActive k = true ∧ (k.kreg 1).toNat % 4 = 0 ∧ (k.tile 63).takable = true ∧ (k.tile 63).ty = .int32) ∧
    (let s := sq 0 fun k => mappedAcc (tiled ⟨.ready, 0, .int8, 0⟩ k)
     SeqState s fun k => (k.tile 63).state = .ready ∧ s.harvested k ⟨63, 0, true⟩ = false ∧ (k.acc 15).isSome = true ∧ s.mmaBlock 0 ⟨63, 0, true⟩ = some 0 ∧
      s.blocks[0]? = some k ∧ mmaTypes .int8 (k.tile 63) (k.tile 63) = true ∧ s.bankActive k = true ∧ (s.cores[k.core]?).isSome = true) :=
  ⟨⟨_, ⟨by decide, rfl, .inl rfl⟩, by decide⟩, ⟨_, ⟨by decide, rfl, .inl rfl⟩, by decide, by decide, by decide, by decide, rfl, by decide⟩⟩
theorem wit_transfer_rows :
    (XferAt (moving .tload 63 false .filling) fun k x => x.kind = .tload ∧ x.row < 64 ∧ x.spad = false ∧ x.ty ≠ .b8 ∧ x.targets = [(0, 63, k.gen)] ∧
      Plain (moving .tload 63 false .filling) (some k.core) 15 (x.addr + BitVec.ofNat 64 x.row * x.pitch).toNat 128 .read 0x23F00 0x23F00 false) ∧
    (XferAt (moving .tload 64 false .filling) fun k x => x.kind = .tload ∧ 64 ≤ x.row ∧ x.targets = [(0, 63, k.gen)] ∧ 63 < k.tiles.length) ∧
    (XferAt (moving .tstore 0 false .draining) fun k x => x.kind = .tstore ∧ x.row < 64 ∧ x.spad = false ∧ x.targets = [(0, 63, k.gen)] ∧ k.spadPoison = [] ∧
      (k.tile 63).offset + 128 * x.row + 128 ≤ k.spadBytes ∧ Plain (moving .tstore 0 false .draining) (some k.core) 15 0x20000 128 .write 0x20000 0x20000 false) ∧
    (XferAt (moving .tstore 64 false .draining) fun k x => x.kind = .tstore ∧ 64 ≤ x.row ∧ x.targets = [(0, 63, k.gen)] ∧ 63 < k.tiles.length) ∧
    (XferAt (moving .aload 0 false .ready) fun k x => (moving .aload 0 false .ready).accBefore 0 x.handle 5 = false ∧ x.kind = .aload ∧ x.row < 64 ∧ x.spad = false ∧
      (k.acc x.handle).map (·.2) = some x.tag ∧ ((moving .aload 0 false .ready).accWords k x.handle).length = 4096 ∧ Plain (moving .aload 0 false .ready) (some k.core) 15 0x20000 256 .read 0x20000 0x20000 false) ∧
    (XferAt (moving .aload 64 false .ready) fun _ x => x.kind = .aload ∧ 64 ≤ x.row) ∧
    (XferAt (onBlock (moving .aload 0 false .ready) fun k => { k with accs := upd k.accs 15 fun _ => some (3, 3) }) fun k x => x.kind = .aload ∧
      (k.acc x.handle).map (·.2) ≠ some x.tag ∧ ((moving .aload 0 false .ready).cores[k.core]?).isSome = true) ∧
    (XferAt (moving .astore 0 false .ready) fun k x => x.kind = .astore ∧ x.row < 64 ∧ x.dtile = false ∧ x.spad = false ∧ x.ty = .fp32 ∧
      Plain (moving .astore 0 false .ready) (some k.core) 15 0x20000 256 .write 0x20000 0x20000 false) ∧
    (XferAt (moving .astore 0 true .filling) fun k x => x.kind = .astore ∧ x.row < 64 ∧ x.dtile = true ∧ x.targets = [(0, 63, k.gen)]) ∧
    (XferAt (moving .astore 64 false .ready) fun _ x => x.kind = .astore ∧ 64 ≤ x.row ∧ x.dtile = false) :=
  ⟨⟨_, _, rfl, rfl, by decide, by decide, by decide, by decide, by decide, by decide, plain_of_page ⟨15, 0, 30, 0, true, false⟩ (cold _ _ rfl rfl) (by decide +kernel) (by decide) (by decide +kernel)⟩,
   ⟨_, _, rfl, rfl, by decide, by decide⟩,
   ⟨_, _, rfl, rfl, by decide, by decide, by decide, by decide, by decide, by decide, by decide, plain_of_page ⟨15, 0, 30, 0, true, false⟩ (cold _ _ rfl rfl) (by decide +kernel) (by decide) (by decide +kernel)⟩,
   ⟨_, _, rfl, rfl, by decide, by decide⟩,
   ⟨_, _, rfl, rfl, by decide, by decide, by decide, by decide, by decide, by decide, by decide, plain_of_page ⟨15, 0, 30, 0, true, false⟩ (cold _ _ rfl rfl) (by decide +kernel) (by decide) (by decide +kernel)⟩,
   ⟨_, _, rfl, rfl, by decide, by decide⟩, ⟨_, _, rfl, rfl, by decide, by decide⟩,
   ⟨_, _, rfl, rfl, by decide, by decide, by decide, by decide, by decide, by decide, plain_of_page ⟨15, 0, 30, 0, true, false⟩ (cold _ _ rfl rfl) (by decide +kernel) (by decide) (by decide +kernel)⟩,
   ⟨_, _, rfl, rfl, by decide, by decide⟩,
   ⟨_, _, rfl, rfl, by decide, by decide⟩⟩

/-- Core 0 with one MMA of block 0 and its unit as given. -/
def matrixSt (u : MxUnit) : State :=
  onCore (accTile ⟨some (0, 15), 2, []⟩ (sq 0 fun k => mappedAcc (tiled ⟨.ready, 0, .int8, 2⟩ k))) fun c => { c with unit := u, mmas := [⟨5, 0, 15, 0, 63, 0, 63, .int8, true⟩] }
def switchSt (d : Option Nat) : State :=
  onCore (sq 0x78D9 fun k => { k with bank := 1, xfers := [⟨5, .aload, [], 15, false, true, 0, 0, 0, none, .fp32, 0, 0, none⟩] }) fun c =>
    { c with switching := d, banks := upd c.banks 1 fun b => { b with ctx := some (0, 15) } }
def mma0 : Mma := ⟨5, 0, 15, 0, 63, 0, 63, .int8, true⟩
theorem wit_matrix_units :
    (let s := matrixSt .idle
     ∃ cr k, s.cores[0]? = some cr ∧ cr.unit = .idle ∧ cr.mmas = [mma0] ∧ s.blocks[0]? = some k ∧ k.halt = none ∧ s.mmaFmtBad mma0 = false ∧ s.accBefore 0 15 5 = false) ∧
    (let s := matrixSt (.requesting 0)
     ∃ cr, s.cores[0]? = some cr ∧ 0 / 36 = 0 ∧ s.cycle % 4 = 0 ∧ s.barchan.getD 0 0 ≤ s.cycle / 4 ∧ cr.unit = .requesting 0 ∧ cr.mmas = [mma0]) ∧
    (let s := matrixSt (.active 7 (fullWork - 1))
     (∃ cr, s.cores[0]? = some cr ∧ cr.unit = .active 7 (fullWork - 1)) ∧ fullWork - 1 < fullWork ∧ { s with cycle := 3 }.cycle % 4 ≠ 0) ∧
    (let s := matrixSt (.active 31 fullWork)
     ∃ cr k x bk y, s.cores[0]? = some cr ∧ s.blocks[0]? = some k ∧ s.mmaTiles mma0 = some x ∧ cr.banks[k.bank]? = some bk ∧ bk.tiles[3]? = some y ∧
      (cr.unit = .active 31 fullWork ∧ fullWork ≤ fullWork ∧ cr.mmas = [mma0] ∧ k.core = 0 ∧ k.acc 15 = some (3, 2))) ∧
    ((∃ cr, (switchSt none).cores[0]? = some cr ∧ cr.switching = none ∧ (switchSt none).anyReady 0 cr.active = false ∧ (switchSt none).anyReady 0 (1 - cr.active) = true) ∧
     ∃ cr, { switchSt (some 64) with cycle := 64 }.cores[0]? = some cr ∧ cr.switching = some 64 ∧ 64 ≠ 0 ∧ 64 ≤ { switchSt (some 64) with cycle := 64 }.cycle) :=
  ⟨⟨_, _, rfl, by decide, by decide, rfl, by decide⟩, ⟨_, rfl, by decide⟩, ⟨⟨_, rfl, by decide⟩, by decide⟩, ⟨_, _, _, _, _, rfl, rfl, rfl, rfl, rfl, by decide⟩,
   ⟨_, rfl, by decide⟩, _, rfl, by decide⟩

/-! ### Witnesses: copies, carves and streams -/

/-- A sequencer about to issue a copy: source in K1, destination in K2, descriptor in K3, and K4 beside it. -/
def copySt (src dst desc aux : DWord) (f : Block → Block) : State :=
  bare (sq 0 fun k => f { k with k := upd (upd (upd (upd k.k 1 fun _ => src) 2 fun _ => dst) 3 fun _ => desc) 4 fun _ => aux })
/-- What a copy command asks, with the arguments it captures. -/
def CopyAt (s : State) (i : Instr) (P : Block → CpyArgs → Prop) : Prop := ∃ k a, SeqRuns s 0 k 0 ∧ copyForm k i = some (0, a) ∧ P k a
theorem wit_copy_commands :
    (let s := copySt 0x20000 0x21000 4 0 id
     CopyAt s (.cpy 0 false 15 2 1 3) fun k a => a.descOk = true ∧ a.op ≠ 0xE2 ∧ s.cpyRanges 0 k a = none ∧ s.slotsUsed k.core < 32 ∧ k.cntCp ≠ 63 ∧ a.op ≠ 0xE3) ∧
    (let s := copySt 0x20000 0x21000 4 0 fun k => { k with cntCp := 63 }
     CopyAt s (.cpy 0 false 15 2 1 3) fun k a => a.descOk = true ∧ a.op ≠ 0xE2 ∧ s.cpyRanges 0 k a = none ∧ ¬(s.slotsUsed k.core < 32 ∧ k.cntCp ≠ 63)) ∧
    (let s := copySt 0x20000 0x21000 0 0 id
     CopyAt s (.cpyg 0 15 2 1 3) fun k a => k.halt = none ∧ a.descOk = false) ∧
    (let s := copySt 0x20000 0x21000 4 0 id
     CopyAt s (.cpyq 0 15 1 3) fun k a => k.halt = none ∧ a.descOk = true ∧ a.op = 0xE2 ∧ (k.queue a.bq).carved = false) ∧
    (let s := copySt 0x20000 0x21000 12 0 (setQ 15 ⟨true, 0, 1, 0, 0, false, 1, false, 0, 0, 0⟩)
     CopyAt s (.cpyq 0 15 1 3) fun k a => a.descOk = true ∧ a.op = 0xE2 ∧ (k.queue a.bq).carved = true ∧ a.desc.toNat % 2 ^ 32 % (k.queue a.bq).esz ≠ 0) ∧
    (let s := copySt 0x20000 0 0x400000004 0 id
     CopyAt s (.cpy 0 false 15 2 1 3) fun k a => k.halt = none ∧ a.descOk = true ∧ a.op ≠ 0xE2 ∧ s.cpyRanges 0 k a ≠ none) ∧
    (let s := copySt 0x20000 0x21000 0x0800000000000004 0 id
     CopyAt s (.cpyec 0 15 2 1 3) fun k a => a.descOk = true ∧ a.op = 0xE3 ∧ s.cpyRanges 0 k a = none ∧ a.desc.toNat / 2 ^ 59 % 16 + 1 = 2 ∧
      Plain s (some k.core) (s.ctxOf k) a.src.toNat 32 .read 0x20000 0x20000 false ∧
      (∀ j, j < 2 → Memory.read s.homes.mem (0x20000 + 16 * j) 4 % 4 = 0 ∧ Memory.read s.homes.mem (0x20000 + 16 * j + 9) 7 = 0)) :=
  ⟨⟨_, _, ⟨by decide, rfl, .inl rfl⟩, rfl, by decide⟩, ⟨_, _, ⟨by decide, rfl, .inl rfl⟩, rfl, by decide⟩, ⟨_, _, ⟨by decide, rfl, .inl rfl⟩, rfl, by decide⟩,
   ⟨_, _, ⟨by decide, rfl, .inl rfl⟩, rfl, by decide⟩, ⟨_, _, ⟨by decide, rfl, .inl rfl⟩, rfl, by decide⟩, ⟨_, _, ⟨by decide, rfl, .inl rfl⟩, rfl, by decide⟩,
   ⟨_, _, ⟨by decide, rfl, .inl rfl⟩, rfl, by decide +kernel⟩⟩

/-- A block with one copy, from 0x20000 to 0x2107C. -/
def copying (op done : Nat) (desc aux : DWord) (table : List (DWord × Byte)) (f : Block → Block) : State :=
  bare (sq 0 fun k => f { k with cntCp := 1, copies := [⟨5, op, 1, 15, true, false, 0, 0x20000, 0x2107C, desc, aux, done, 0, table, 0, none⟩], spadBytes := 1024 })
def UnitAt (s : State) (P : Block → Copy → CpyDesc → Prop) : Prop := ∃ k c, Works s 0 k ∧ s.copy? 0 5 = some c ∧ c.state ≠ 2 ∧ c.state ≠ 4 ∧ c.hold = none ∧ P k c (CpyDesc.of c.desc)
/-- An agent's read of another package that has not been answered. -/
def waitsFar (who : List Nat) (s : State) : State := { s with homes := { s.homes with remotes := [⟨1, who, 1, 0, .read 5 0x20000 8 none, none, false, false, 0, true⟩] } }
theorem wit_copy_ends :
    (UnitAt (copying 0xDF 8 0x10000000004 0 [] id) fun _ c d => d.len * (d.rows + 1) ≤ c.done ∧ c.op = 0xDF) ∧
    (UnitAt (copying 0xDE 3 4 0 [] id) fun _ c d => c.done < d.len ∧ c.op ≠ 0xDF) ∧
    (SeqState (copying 0xDE 3 4 0 [] id) fun k => (k.copies.map (·.id)).Nodup ∧ ∀ c ∈ k.copies, (copying 0xDE 3 4 0 [] id).copyBusy 0 c = false) ∧
    (let s := waitsFar [3, 0, 5] (copying 0xDE 3 4 0 [] id)
     SeqState s fun k => (k.copies.map (·.id)).Nodup ∧ ∃ c ∈ k.copies, c.baren = true ∧ c.bq = 15 ∧ s.copyBusy 0 c = true) :=
  ⟨⟨_, _, ⟨rfl, rfl, rfl⟩, rfl, by decide⟩, ⟨_, _, ⟨rfl, rfl, rfl⟩, rfl, by decide⟩, ⟨_, ⟨by decide, rfl, .inl rfl⟩, by decide⟩, ⟨_, ⟨by decide, rfl, .inl rfl⟩, by decide⟩⟩
theorem wit_copy_units :
    (let s := copying 0xDE 0 8 0 [] id
     UnitAt s fun k c d => d.ssp = 0 ∧ d.dsp = 0 ∧ c.b8 = false ∧ c.done < d.len ∧ min (d.len - c.done) (128 - 0x2107C % 128) = 4 ∧
      Plain s (some k.core) (s.ctxOf k) 0x20000 4 .read 0x20000 0x20000 false ∧ Plain s (some k.core) (s.ctxOf k) 0x2107C 4 .write 0x2107C 0x2107C false ∧
      Plain (s.translated (s.copyEng 0 c false) [(0x20000, 4)]) (some k.core) (s.ctxOf k) 0x2107C 4 .write 0x2107C 0x2107C false) ∧
    (let s := copying 0xDF 4 0x10000000004 0x10000000080 [] id
     UnitAt s fun k c d => c.done < d.len * (d.rows + 1) ∧ d.len ≠ 0 ∧ c.done / d.len = 1 ∧ c.done % d.len = 0 ∧
      Plain s (some k.core) (s.ctxOf k) 0x20080 4 .read 0x20080 0x20080 false ∧ Plain s (some k.core) (s.ctxOf k) 0x2117C 4 .write 0x2117C 0x2117C false ∧
      Plain (s.translated (s.copyEng 0 c false) [(0x20080, 4)]) (some k.core) (s.ctxOf k) 0x2117C 4 .write 0x2117C 0x2117C false) ∧
    (let s := copying 0xE0 0 4 0 [] id
     UnitAt s fun k c d => k.spadPoison = [] ∧ c.done < d.len ∧ d.elem = 4 ∧ Memory.read k.spad (c.aux.toNat % 2 ^ 32 + 4 * (c.done / d.elem)) 4 = 0 ∧
      Plain s (some k.core) (s.ctxOf k) 0x20000 4 .read 0x20000 0x20000 false ∧ Plain s (some k.core) (s.ctxOf k) 0x2107C 4 .write 0x2107C 0x2107C false ∧
      Plain (s.translated (s.copyEng 0 c false) [(0x20000, 4)]) (some k.core) (s.ctxOf k) 0x2107C 4 .write 0x2107C 0x2107C false) ∧
    (let s := copying 0xDE 0 0x400000004 0 [] fun k => { k with copies := k.copies.map fun c => { c with dst := 1020 } }
     UnitAt s fun k c d => d.ssp = 0 ∧ d.dsp = 1 ∧ c.b8 = false ∧ Plain s (some k.core) (s.ctxOf k) 0x20000 4 .read 0x20000 0x20000 false ∧ s.spadTarget 0 1020 4 = some (0, 1020) ∧ 1020 % 128 + 4 ≤ 128) ∧
    (let s := copying 0xE2 0 4 0 [] (setQ 15 (carve 1 false))
     UnitAt s fun k c d => (k.queue c.bq).carved = true ∧ (k.queue c.bq).closed = false ∧ (k.queue c.bq).count < (k.queue c.bq).cap ∧ d.ssp = 0 ∧ (k.queue c.bq).tag = c.qtag ∧
      Plain s (some k.core) (s.ctxOf k) 0x20000 (k.queue c.bq).esz .read 0x20000 0x20000 false) ∧
    (let s := copying 0xE2 0 4 0 [] (setQ 15 { carve 1 false with tag := 1 })
     UnitAt s fun k c d => (k.queue c.bq).count < (k.queue c.bq).cap ∧ d.ssp = 0 ∧ (k.queue c.bq).tag ≠ c.qtag) ∧
    (UnitAt (copying 0xE2 0 4 0 [] (setQ 15 (carve 2 true))) fun k c _ => (k.queue c.bq).carved = true ∧ (k.queue c.bq).closed = true) ∧
    (UnitAt (copying 0xE2 0 4 0 [] (setQ 15 (carve 2 false))) fun k c _ => (k.queue c.bq).closed = false ∧ (k.queue c.bq).cap ≤ (k.queue c.bq).count) ∧
    (let s := copying 0xE3 0 0x0C00000000000004 0 [(0x20000, 2), (0x20100, 4)] id
     UnitAt s fun k c d => d.dsp = 0 ∧ d.accum = true ∧ Plain s (some k.core) (s.ctxOf k) 0x2107C 4 .write 0x2107C 0x2107C false ∧ 0x2107C % 4 = 0 ∧
      Plain (s.translated (s.copyEng 0 c false) (c.table.map fun e => (e.1.toNat, 4))) (some k.core) (s.ctxOf k) 0x2107C 4 .write 0x2107C 0x2107C false ∧
      ∀ e ∈ c.table.zipIdx, Plain (s.translated (s.copyEng 0 c false) ((c.table.take e.2).map fun e => (e.1.toNat, 4))) (some k.core) (s.ctxOf k)
        (e.1.1 + BitVec.ofNat 64 c.done).toNat 4 .read (0x20000 + 256 * e.2) (0x20000 + 256 * e.2) false) :=
  ⟨⟨_, _, ⟨rfl, rfl, rfl⟩, rfl, by decide +kernel⟩, ⟨_, _, ⟨rfl, rfl, rfl⟩, rfl, by decide +kernel⟩, ⟨_, _, ⟨rfl, rfl, rfl⟩, rfl, by decide +kernel⟩,
   ⟨_, _, ⟨rfl, rfl, rfl⟩, rfl, by decide +kernel⟩, ⟨_, _, ⟨rfl, rfl, rfl⟩, rfl, by decide +kernel⟩, ⟨_, _, ⟨rfl, rfl, rfl⟩, rfl, by decide⟩,
   ⟨_, _, ⟨rfl, rfl, rfl⟩, rfl, by decide⟩, ⟨_, _, ⟨rfl, rfl, rfl⟩, rfl, by decide⟩, ⟨_, _, ⟨rfl, rfl, rfl⟩, rfl, by decide +kernel⟩⟩

/-- A table row at 0x20000 that names a program of one dimension at 0x20100, with a header whose lowest byte is `h` and base K1. -/
def rowed (h : Byte) (s : State) : State :=
  { onLaunch s (fun l => { l with hdr := { l.hdr with soff := 0x10000, scount := 1 } }) with homes := { s.homes with
    mem := [(0x20001, 0x01), (0x20002, 0x01), (0x20008, 0x10), (0x20100, h), (0x20102, 0x01), (0x20108, 0x01), (0x2010C, 0x04)] ++ s.homes.mem } }
def strmSt (h : Byte) (f : Block → Block) : State := rowed h (bare (sq 0 fun k => f (addressed 0x20000 k)))
def stream (h : DWord) (done : Nat) (buf : List QWord) : Stream := ⟨0, 1, 63, 0x20000, done, 0, [h, 0x400000002], buf, 0, 0⟩
def bindS (x : Stream) (k : Block) : Block := { k with streams := upd k.streams 15 fun _ => some x }
/-- What STRM asks once its row and program can be read. -/
def StrmAt (s : State) (P : Block → List DWord → Nat → DWord → Prop) : Prop :=
  ∃ k l, SeqRuns s 0 k 0 ∧ s.launch? k = some l ∧ 15 < k.streams.length ∧ (k.streams[15]?).join = none ∧ 0 < l.hdr.scount ∧
    Plain s (some k.core) (s.ctxOf k) (l.lrec.code + l.hdr.soff) 16 .read 0x20000 0x20000 false ∧ Memory.read s.homes.mem 0x20008 8 = 16 ∧
    Plain (s.translated (s.seqEng 0) [(l.lrec.code + l.hdr.soff, 16)]) (some k.core) (s.ctxOf k) (l.lrec.code + Memory.read s.homes.mem 0x20000 8) 16 .read 0x20100 0x20100 false ∧
    (let prog := (List.range 2).map fun j => BitVec.ofNat 64 (Memory.read s.homes.mem (0x20100 + 8 * j) 8)
     let h := (prog.headD 0).toNat
     prog.length = h / 2 ^ 10 % 4 + 2 ∧ P k prog h (k.kreg (h / 2 ^ 16 % 2 ^ 7)))
theorem wit_carves_and_streams :
    (let s := onLaunch (sq 0 fun k => { addressed 960 k with spadBytes := 1024 }) fun l => { l with lrec := { l.lrec with maxq := 1 } }
     SeqState s fun k => k.queues[15]? = some Carve.empty ∧ Carve.empty.carved = false ∧ countp k.queues (·.carved) < ((s.launch? k).map (·.lrec.maxq)).getD 16 ∧
      (k.kreg 1).toNat % 64 = 0 ∧ (k.kreg 1).toNat + 16 * 4 ≤ k.spadBytes ∧ ∀ y ∈ k.queues, y.carved = false) ∧
    (SeqState (sq 0 id) fun k => ¬ (countp k.queues (·.carved) < (((sq 0 id).launch? k).map (·.lrec.maxq)).getD 16) ∧ k.halt = none) ∧
    (SeqState (sq 0 (setQ 15 (carve 0 false))) fun k => k.queues[15]? = some (carve 0 false) ∧ k.queueUsed 15 = false ∧ ¬ ∃ th ∈ k.threads, th.status = .parked (.queue 15)) ∧
    (SeqState (sq 0 fun k => setQ 15 (carve 0 false) (bindS (stream 0x1F008 0 []) k)) fun k => k.queueUsed 15 = true ∧ k.halt = none ∧ ∃ x, (k.streams[15]?).join = some x ∧
      (sq 0 fun k => setQ 15 (carve 0 false) (bindS (stream 0x1F008 0 []) k)).strmBusy 0 15 x = false) ∧
    (let s := waitsFar [2, 0, 15] (sq 0 (bindS (stream 0x1F008 0 [])))
     SeqState s fun k => ∃ x, (k.streams[15]?).join = some x ∧ s.strmBusy 0 15 x = true) ∧
    (SeqState (strmSt 8 (bindS (stream 0x1F008 0 []))) fun k => k.halt = none ∧ (k.streams[15]?).join ≠ none) ∧
    (StrmAt (strmSt 8 (setQ 0 (carve 0 false))) fun k prog h base => progOk prog base 0 = true ∧ h % 4 ≠ 2 ∧ ((k.queue (h / 2 ^ 12 % 16)).carved = true ∧
      2 ^ (h / 4 % 8) ≤ 4 * 2 ^ (k.queue (h / 2 ^ 12 % 16)).width) ∧ (strmSt 8 (setQ 0 (carve 0 false))).contextsUsed k.core < 16) ∧
    (StrmAt (strmSt 8 id) fun k prog h base => k.halt = none ∧ progOk prog base 0 = true ∧ h % 4 ≠ 2 ∧ (k.queue (h / 2 ^ 12 % 16)).carved = false) ∧
    (StrmAt (strmSt 8 id) fun k prog _ base => k.halt = none ∧ progOk prog base 1 = false) ∧
    (StrmAt (strmSt 10 fun k => tiled ⟨.ready, 0, .int8, 0⟩ k) fun k _ h _ => h % 4 = 2 ∧ (k.tile 63).state = .ready ∧ (k.tile 63).holds = 0 ∧ 63 < k.tiles.length) ∧
    (let s := { strmSt 8 (setQ 0 (carve 0 false)) with blocks := (strmSt 8 (setQ 0 (carve 0 false))).blocks ++ [{ bk with streams := List.replicate 16 (some (stream 0x1F008 0 [])) }] }
     StrmAt s fun k prog h base => progOk prog base 0 = true ∧ h % 4 ≠ 2 ∧ 16 ≤ s.contextsUsed k.core) :=
  ⟨⟨_, ⟨by decide, rfl, .inl rfl⟩, by decide⟩, ⟨_, ⟨by decide, rfl, .inl rfl⟩, by decide⟩, ⟨_, ⟨by decide, rfl, .inl rfl⟩, by decide⟩,
   ⟨_, ⟨by decide, rfl, .inl rfl⟩, by decide, by decide, _, rfl, by decide⟩, ⟨_, ⟨by decide, rfl, .inl rfl⟩, _, rfl, by decide⟩, ⟨_, ⟨by decide, rfl, .inl rfl⟩, by decide⟩,
   ⟨_, _, ⟨by decide, rfl, .inl rfl⟩, rfl, by decide +kernel⟩, ⟨_, _, ⟨by decide, rfl, .inl rfl⟩, rfl, by decide +kernel⟩, ⟨_, _, ⟨by decide, rfl, .inl rfl⟩, rfl, by decide +kernel⟩,
   ⟨_, _, ⟨by decide, rfl, .inl rfl⟩, rfl, by decide +kernel⟩, ⟨_, _, ⟨by decide, rfl, .inl rfl⟩, rfl, by decide +kernel⟩⟩

/-- A block whose stream 15 serves queue 15, or fills tile 63. -/
def streaming (x : Stream) (c : Carve) : State := bare (sq 0 fun k => bindS x (setQ 15 c (tiled ⟨.filling, 0, .int8, 0⟩ k)))
def StreamAt (s : State) (P : Block → Stream → Prop) : Prop := ∃ k x, Works s 0 k ∧ (k.streams[15]?).join = some x ∧ x.state ≠ 2 ∧ x.state ≠ 4 ∧ P k x
/-- A 32-bit queue in ROW mode. -/
def rowCarve (count : Nat) : Carve := { carve count false with row := true }
theorem wit_stream_progress :
    (StreamAt (streaming (stream 0x1F008 0 []) (carve 0 true)) fun k x => x.done < 2 ∧ (∀ d, d < (x.prog.drop 1).length → ((x.prog.drop 1).getD d 0).toNat % 2 ^ 32 ≠ 0) ∧
      (x.prog.headD 0).toNat % 4 = 0 ∧ (k.queue 15).closed = true ∧ (k.queue 15).row = false) ∧
    (StreamAt (streaming (stream 0x1F008 1 []) (carve 2 false)) fun k _ => (k.queue 15).closed = false ∧ (k.queue 15).row = false ∧ (k.queue 15).cap ≤ (k.queue 15).count) ∧
    (StreamAt (streaming (stream 0x1F008 1 []) (carve 1 false)) fun k x => (k.queue 15).count < (k.queue 15).cap ∧ (k.queue 15).tag = x.qtag ∧ x.buf = [] ∧
      Plain (streaming (stream 0x1F008 1 []) (carve 1 false)) (some k.core) ((streaming (stream 0x1F008 1 []) (carve 1 false)).ctxOf k) 0x20004 4 .read 0x20004 0x20004 false) ∧
    (StreamAt (streaming (stream 0x1F008 0 []) (rowCarve 2)) fun k x => (k.queue 15).row = true ∧ ¬(x.buf.length + 1 = min 8 (2 - x.done / 8 * 8)) ∧
      Plain (streaming (stream 0x1F008 0 []) (rowCarve 2)) (some k.core) ((streaming (stream 0x1F008 0 []) (rowCarve 2)).ctxOf k) 0x20000 4 .read 0x20000 0x20000 false) ∧
    (StreamAt (streaming (stream 0x1F008 1 [7]) (rowCarve 1)) fun k x => (k.queue 15).row = true ∧ x.buf.length + 1 = min 8 (2 - x.done / 8 * 8) ∧ (k.queue 15).count < (k.queue 15).cap ∧ (k.queue 15).tag = x.qtag) ∧
    (StreamAt (streaming (stream 0x1F008 0 []) { carve 1 false with tag := 1 }) fun k x => (k.queue 15).row = false ∧ (k.queue 15).count < (k.queue 15).cap ∧ (k.queue 15).tag ≠ x.qtag) ∧
    (StreamAt (streaming (stream 0x1F009 0 []) (carve 0 false)) fun k x => (x.prog.headD 0).toNat % 4 = 1 ∧ (x.prog.headD 0).toNat / 2 ^ 5 % 4 ≠ 2 ∧ x.buf = [] ∧ (k.queue 15).count = 0 ∧
      Plain (streaming (stream 0x1F009 0 []) (carve 0 false)) (some k.core) ((streaming (stream 0x1F009 0 []) (carve 0 false)).ctxOf k) 0x20000 4 .write 0x20000 0x20000 false) ∧
    (StreamAt (streaming (stream 0x1F009 0 []) (carve 2 true)) fun k x => x.buf = [] ∧ 0 < (k.queue 15).count) ∧
    (StreamAt (streaming (stream 0x1F009 1 [7]) (rowCarve 0)) fun _ x => ∃ v rest, x.buf = v :: rest) ∧
    (StreamAt (streaming (stream 0x1000A 1 []) (carve 0 false)) fun _ x => (x.prog.headD 0).toNat % 4 = 2 ∧ x.done < 2) ∧
    (StreamAt (streaming (stream 0x1F008 2 []) (carve 0 false)) fun _ x => 2 ≤ x.done) ∧
    (StreamAt (streaming (stream 0x1F009 1 []) (carve 0 true)) fun k x => ¬(2 ≤ x.done) ∧ x.buf = [] ∧ (k.queue 15).closed = true ∧ (k.queue 15).count = 0) ∧
    (let stuck := { sq 0 fun k => { k with threads := k.threads.map (fun th => { th with status := .parked (.queue 15) }), seq := { k.seq with ended := true }, queueDeadSince := some 0 } with cycle := 4096 }
     (∃ k, stuck.resident? 0 = some k ∧ k.halt = none ∧ k.queueDeadSince = some 0 ∧ stuck.queueStuck k = true ∧ 0 + 4096 ≤ stuck.cycle) ∧ { stuck with cycle := 4095 }.cycle < 0 + 4096) :=
  ⟨⟨_, _, ⟨rfl, rfl, rfl⟩, rfl, by decide⟩, ⟨_, _, ⟨rfl, rfl, rfl⟩, rfl, by decide⟩, ⟨_, _, ⟨rfl, rfl, rfl⟩, rfl, by decide +kernel⟩, ⟨_, _, ⟨rfl, rfl, rfl⟩, rfl, by decide +kernel⟩,
   ⟨_, _, ⟨rfl, rfl, rfl⟩, rfl, by decide⟩, ⟨_, _, ⟨rfl, rfl, rfl⟩, rfl, by decide⟩, ⟨_, _, ⟨rfl, rfl, rfl⟩, rfl, by decide +kernel⟩, ⟨_, _, ⟨rfl, rfl, rfl⟩, rfl, by decide⟩,
   ⟨_, _, ⟨rfl, rfl, rfl⟩, rfl, by decide, by decide, _, _, rfl⟩,
   ⟨_, _, ⟨rfl, rfl, rfl⟩, rfl, by decide⟩, ⟨_, _, ⟨rfl, rfl, rfl⟩, rfl, by decide⟩, ⟨_, _, ⟨rfl, rfl, rfl⟩, rfl, by decide⟩, ⟨_, rfl, by decide⟩, by decide⟩

/-! ### Witnesses: child launches, collectives and steps -/

/-- A launch record of one block of one octet at 0x20000, its code at 0x10000 (`far`: on another package), its code header, and more cells. -/
def recordMem (far : Bool) (unroll : Byte) : Mem :=
  [(0x10008, 1), (if far then (0x20003, 0x40) else (0x20002, 1)), (0x20010, 2), (0x20018, unroll), (0x2001A, 1), (0x2001C, 64), (0x20080, 8), (0x20088, 1), (0x2008C, 2), (0x2008D, 2),
   (0x200000, 0x01), (0x200002, 0x40), (0x400000, 0x0B), (0x400008, 0x0B), (0x40000D, 0x04)]
def launchSt (m : Mem) (agg : DWord) : State :=
  let s := sq 0 (addressed 0x20000)
  { s with homes := { s.homes with mem := m }, regs := { s.regs with routes := [(0, 0x02000000), (1, 0x01000001)], aggBase := agg } }
def good : LaunchCheck → Bool
  | .good _ _ _ _ => true
  | _ => false
def LaunchAt (s : State) (P : State → List Byte → Prop) : Prop :=
  ∃ k p, SeqRuns s 0 k 0 ∧ s.launch? k = some p ∧ (k.kreg 1 + (0 : BitVec 32).signExtend 64).toNat = 0x20000 ∧ Plain s (some k.core) (s.ctxOf k) 0x20000 256 .read 0x20000 0x20000 false ∧
    P (s.readKeep (s.seqEng 0) 0x20000 256).1 (Memory.bytes s.homes.mem 0x20000 256)
theorem wit_child_launch :
    (LaunchAt (launchSt (recordMem false 1) 0) fun s1 bs => good (s1.checkLaunch [1, 0, 5] 15 bs).2 = true ∧ (launchSt (recordMem false 1) 0).regs.aggBase = 0) ∧
    (LaunchAt (launchSt (recordMem false 0) 0) fun s1 bs => (s1.checkLaunch [1, 0, 5] 15 bs).2 = .bad ∧ (LaunchRec.of bs).sigaddr = 0) ∧
    (LaunchAt (launchSt (recordMem true 1) 0) fun s1 bs => (s1.checkLaunch [1, 0, 5] 15 bs).2 = .wait) ∧
    ((launchSt (recordMem false 1) 1).regs.aggBase ≠ 0 ∧ (LaunchRec.of (Memory.bytes (recordMem false 1) 0x20000 256)).blocks < 2 ^ 32 ∧ (launchSt (recordMem false 1) 1).front.windows = []) ∧
    SeqState (sq 0 (addressed 0x20001)) fun k => (k.kreg 1 + (0 : BitVec 32).signExtend 64).toNat % 64 ≠ 0 ∧ k.halt = none :=
  ⟨⟨_, _, ⟨by decide, rfl, .inl rfl⟩, rfl, by decide, plain_of_page ⟨15, 0, 30, 0, true, false⟩ (cold _ _ rfl rfl) (by decide +kernel) (by decide) (by decide +kernel), by decide +kernel⟩, ⟨_, _, ⟨by decide, rfl, .inl rfl⟩, rfl, by decide, plain_of_page ⟨15, 0, 30, 0, true, false⟩ (cold _ _ rfl rfl) (by decide +kernel) (by decide) (by decide +kernel), by decide +kernel⟩,
   ⟨_, _, ⟨by decide, rfl, .inl rfl⟩, rfl, by decide, plain_of_page ⟨15, 0, 30, 0, true, false⟩ (cold _ _ rfl rfl) (by decide +kernel) (by decide) (by decide +kernel), by decide +kernel⟩, by decide +kernel, ⟨_, ⟨by decide, rfl, .inl rfl⟩, by decide⟩⟩

/-- A COLL descriptor at 0x20000: an ALLREDUCE with ADD of one 32-bit integer over `n` ranks, of which this is rank 0, with barrier 15. -/
def collSt (n : Byte) (f : Block → Block) : State :=
  let s := sq 0 fun k => f (addressed 0x20000 k)
  { s with homes := { s.homes with mem := [(0x20002, 8), (0x20003, 0x1F), (0x20008, n), (0x20019, 1), (0x2001A, 2), (0x20021, 2), (0x20022, 2), (0x20028, 1),
    (0x200000, 0x01), (0x200002, 0x40), (0x400000, 0x0B)] } }
def join (n : Nat) : Join := ⟨0, 0, 0, n, 0, 0, 8, 0, 1, [7, 0, 0, 0], some (0, 5), false⟩
/-- A block whose collective of `n` ranks waits for its completion, with the joins that the engine holds. -/
def collecting (n : Nat) (js : List Join) : State :=
  { collSt 2 (fun k => { k with cntCp := 1, colls := [⟨5, 0, 0, 8, some 15, 0, n, 0, 0, 0x20100, 0x20200, 1, 0, none⟩] }) with coll := ⟨join n :: js, []⟩ }
def CollAt (s : State) (P : Block → Coll → Join → Prop) : Prop :=
  ∃ k c j, s.resident? 0 = some k ∧ k.colls.find? (fun x => x.id == 5) = some c ∧ s.coll.joins.find? (fun x => x.owner == some (0, 5)) = some j ∧ P k c j
theorem wit_collectives :
    (SeqState (collSt 2 id) fun k => (k.kreg 1 + (0 : BitVec 32).signExtend 64).toNat = 0x20000 ∧ (k.kreg 1 + (1 : BitVec 32).signExtend 64).toNat % 64 ≠ 0 ∧ k.halt = none ∧
      Plain (collSt 2 id) (some k.core) ((collSt 2 id).ctxOf k) 0x20000 64 .read 0x20000 0x20000 false ∧ collOk (Memory.bytes (collSt 2 id).homes.mem 0x20000 64) = true ∧ k.cntCp ≠ 63 ∧
      (collSt 2 id).peers = [] ∧ collSize (Memory.read (collSt 2 id).homes.mem 0x20002 1) = some 4 ∧
      Plain ((collSt 2 id).translated ((collSt 2 id).seqEng 0) [(0x20000, 64)]) (some k.core) ((collSt 2 id).ctxOf k) 0x20100 4 .read 0x20100 0x20100 false) ∧
    collOk (Memory.bytes (collSt 1 id).homes.mem 0x20000 64) = false ∧
    (CollAt (collecting 2 []) fun k _ j => k.halt = none ∧ (collecting 2 []).coll.joins.any (j.repeats ·) = false ∧
      ((collecting 2 []).coll.joins.filter fun x => x.group == j.group && x.ordinal == j.ordinal).length < j.npart) ∧
    (CollAt (collecting 2 [{ join 2 with rank := 1, count := 2, owner := none }]) fun k _ j => k.halt = none ∧
      ∃ x ∈ (collecting 2 [{ join 2 with rank := 1, count := 2, owner := none }]).coll.joins.filter fun x => x.group == j.group && x.ordinal == j.ordinal, x.count ≠ j.count) ∧
    (CollAt (collecting 1 []) fun k c j => j.npart ≤ 1 ∧ c.faultVa = none ∧ ((collecting 1 []).coll.joins.filter fun x => x.group == j.group && x.ordinal == j.ordinal) = [join 1] ∧
      j = join 1 ∧ c.bar = some 15 ∧ Plain (collecting 1 []) (some k.core) ((collecting 1 []).ctxOf k) c.recv.toNat 4 .write 0x20200 0x20200 false) ∧
    (∀ l : List Join, l.Perm [join 1] → (collBytes (join 1) l).length = 4) ∧
    ([join 2] ≠ [] ∧ (join 2).op = 0 ∧ (join 2).red = 0 ∧ (join 2).ty = 8) :=
  ⟨⟨_, ⟨by decide, rfl, .inl rfl⟩, by decide +kernel⟩, by decide +kernel, ⟨_, _, _, rfl, rfl, rfl, by decide +kernel⟩, ⟨_, _, _, rfl, rfl, rfl, by decide +kernel⟩,
   ⟨_, _, _, rfl, rfl, rfl, by decide +kernel⟩, fun l h => by rw [List.perm_singleton.1 h]; decide, by decide⟩

/-- A sequencer before a STEP with its number in K1. -/
def stepping (v : DWord) (w : Option (Word × Nat)) : State :=
  let s := sq 0 fun k => { addressed v k with stepWait := w }
  { s with regs := { s.regs with stepno := 4 } }
theorem wit_step_marks :
    (SeqState (stepping 4 none) fun k => (k.kreg 1).setWidth 32 = (stepping 4 none).regs.stepno) ∧
    (SeqState (stepping 5 none) fun k => (k.kreg 1).setWidth 32 = (stepping 5 none).regs.stepno + 1) ∧
    (SeqState (stepping 3 none) fun k => (k.kreg 1).setWidth 32 ≠ (stepping 3 none).regs.stepno ∧ (k.kreg 1).setWidth 32 ≠ (stepping 3 none).regs.stepno + 1 ∧ k.halt = none) ∧
    (∃ k, Works (stepping 5 (some (5, 127))) 0 k ∧ k.stepWait = some (5, 127) ∧ 127 < k.k.length ∧ (5 : Word) = (stepping 5 (some (5, 127))).regs.stepno + 1 ∧
      (stepping 5 (some (5, 127))).seif.capturing = false ∧ (stepping 5 (some (5, 127))).quotaOpen = false) ∧
    (let s := { stepping 5 (some (5, 127)) with seif := { State.reset.seif with capturing := true } }
     ∃ k, Works s 0 k ∧ k.stepWait = some (5, 127) ∧ s.seif.capturing = true) ∧
    ∃ k, Works (stepping 5 (some (4, 0))) 0 k ∧ k.stepWait = some (4, 0) ∧ 0 < k.k.length ∧ (4 : Word) = (stepping 5 (some (4, 0))).regs.stepno :=
  ⟨⟨_, ⟨by decide, rfl, .inl rfl⟩, by decide⟩, ⟨_, ⟨by decide, rfl, .inl rfl⟩, by decide⟩, ⟨_, ⟨by decide, rfl, .inl rfl⟩, by decide⟩,
   ⟨_, ⟨rfl, rfl, rfl⟩, rfl, by decide⟩, ⟨_, ⟨rfl, rfl, rfl⟩, rfl, by decide⟩, ⟨_, ⟨rfl, rfl, rfl⟩, rfl, by decide⟩⟩

/-! ### Witnesses: requests, returns and walks -/

/-- A request of thread 0 of block 0 to a line, in flight. -/
def asking (line : Nat) (op : ReqOp) (path : Path) (ps : List Part) : State :=
  let s := bare (st1 0 id)
  { s with homes := { s.homes with reqs := [⟨5, 0, 0, 0, op, line, none, path, 0, .rlx, .die, false, 0, true, ps⟩] } }
def poisonLine (s : State) : State := { s with homes := { s.homes with poison := [0x400] } }
/-- What RequestsAndReturns asks of a request that is ready. -/
def ReqAt (s : State) (P : Req → Prop) : Prop :=
  ∃ r, s.homes.reqs.find? (fun x => x.id == 5) = some r ∧ s.homeReady r = true ∧ r.spadBlk = none ∧ (∀ x ∈ r.parts, x.off + x.bytes ≤ 128) ∧ P r
/-- What it asks of one that lies in HBM. -/
def HbmAt (s : State) (P : Req → Prop) : Prop :=
  ReqAt s fun r => s.reqPhys r = .hbm 0x20000 ∧ s.reqPersist r = false ∧ s.migOf 0x20000 = none ∧ (∀ x ∈ r.parts, s.migOf (0x20000 + x.off) = none) ∧ P r
/-- A return or acknowledgement on its way to thread 0, whose slot tag it carries, or not. -/
def returning (load : Bool) (slot : BitVec 4) (earlier : List Ret) : State :=
  let s := st1 0 fun th => { th with cntLd := 1, cntSt := 1 }
  { s with homes := { s.homes with rets := [⟨5, 0, 0, load, false, 0x400, false, { part 4 (some 63) with slot := slot, ord := 1 }, .rlx, .die, 0, some (0, 0)⟩] ++ earlier } }
/-- Its block has halted, or its register lies in a grant that the thread gave back. -/
def stopped (s : State) : State := onBlock s fun k => { k with halt := some ⟨0x05, false, 0, none, 0, 0, 0, 0, 0, false, false⟩ }
def granted (s : State) : State := { s with homes := { s.homes with rets := s.homes.rets.map fun x => { x with part := { x.part with grant := some 1 } } } }
def RetAt (s : State) (P : Ret → Block → Thread → Prop) : Prop :=
  ∃ r k th, s.homes.rets.find? (fun x => x.id == 5) = some r ∧ s.resident? r.blk = some k ∧ k.threads[r.part.tid]? = some th ∧ P r k th
theorem wit_requests_and_returns :
    (HbmAt (asking 0x400 .load .gen [part 16 (some 60)]) fun r => (asking 0x400 .load .gen [part 16 (some 60)]).poisoned 0x20000 = false ∧ r.op = .load) ∧
    (HbmAt (poisonLine (asking 0x400 .ldro .ro [part 1 (some 0)])) fun r => (poisonLine (asking 0x400 .ldro .ro [part 1 (some 0)])).poisoned 0x20000 = true ∧ r.op = .ldro ∧ r.parts ≠ [] ∧
      ∃ k, (poisonLine (asking 0x400 .ldro .ro [part 1 (some 0)])).resident? r.blk = some k ∧ k.halt = none) ∧
    (HbmAt (asking 0x400 .store .gen [part 128 none]) fun r => r.op = .store) ∧
    (∀ op ∈ [0x85, 0x86, 0x87, 0x88, 0x89, 0x8A, 0x8B, 0x8C, 0x8D, 0x8E, 0x8F, 0x90, 0x91], HbmAt (asking 0x400 (.atomic op) .gen [part 4 (some 63)]) fun r =>
      r.op = .atomic op ∧ r.parts = [part 4 (some 63)]) ∧
    (ReqAt (asking (0x07000000000 / 128) .load .gen [part 4 none]) fun r => (asking (0x07000000000 / 128) .load .gen [part 4 none]).reqPhys r = .hole ∧
      (asking (0x07000000000 / 128) .load .gen [part 4 none]).reqPersist r = false ∧ r.parts ≠ [] ∧
      ∃ k, (asking (0x07000000000 / 128) .load .gen [part 4 none]).resident? r.blk = some k ∧ k.halt = none) ∧
    (ReqAt (asking (0x20000000000 / 128) .store .pers [part 8 none]) fun r => (asking (0x20000000000 / 128) .store .pers [part 8 none]).reqPhys r = .scm 0x20000000000 ∧ r.op = .store ∧
      r.path = .pers ∧ r.parts = [part 8 none] ∧
      (asking (0x20000000000 / 128) .store .pers [part 8 none]).seif.capturing = false ∧ (asking (0x20000000000 / 128) .store .pers [part 8 none]).migOf (0x20000000000 + 120) = none) ∧
    (RetAt (returning true 0 []) fun r k th => th.slotTag = r.part.slot ∧ th.status ≠ .exited ∧ r.load = true ∧ (returning true 0 []).earlierLoad r = false ∧
      (returning true 0 []).earlierHome r = false ∧ k.dead = false ∧ ∀ g, r.part.grant = some g → th.grantTag (r.part.dst.getD 0) = some g) ∧
    (RetAt (stopped (returning true 0 [])) fun r k th => th.slotTag = r.part.slot ∧ r.load = true ∧ k.dead = true) ∧
    (RetAt (granted (returning true 0 [])) fun r k th => k.dead = false ∧ r.part.grant = some 1 ∧ th.grantTag (r.part.dst.getD 0) ≠ some 1) ∧
    (RetAt (returning false 0 []) fun r _ th => th.slotTag = r.part.slot ∧ th.status ≠ .exited ∧ r.load = false ∧ (returning false 0 []).earlierHome r = false) ∧
    (RetAt (returning true 1 []) fun r _ th => r.load = true ∧ (returning true 1 []).earlierLoad r = false ∧ th.slotTag ≠ r.part.slot) ∧
    (let e : Ret := ⟨4, 0, 0, true, false, 0x401, false, part 4 none, .rlx, .die, 0, none⟩
     RetAt (returning true 0 [e]) fun r _ _ => r.load = true ∧ (returning true 0 [e]).earlierLoad r = true) ∧
    (let e : Ret := ⟨4, 0, 0, false, false, 0x400, false, part 4 none, .rlx, .die, 0, some (0, 0)⟩
     RetAt (returning false 0 [e]) fun r _ _ => r.load = false ∧ (returning false 0 [e]).earlierHome r = true) := by
  refine ⟨⟨_, rfl, by decide⟩, ⟨_, rfl, by decide, rfl, by decide, by decide, by decide, by decide, by decide, by decide, by decide, by decide, _, rfl, by decide⟩, ⟨_, rfl, by decide⟩, ?_,
    ⟨_, rfl, by decide, rfl, by decide, by decide, by decide, by decide, _, rfl, by decide⟩, ⟨_, rfl, by decide⟩,
    ⟨_, _, _, rfl, rfl, rfl, by decide, by decide, by decide, by decide, by decide, by decide, fun _ h => nomatch h⟩, ⟨_, _, _, rfl, rfl, rfl, by decide⟩, ⟨_, _, _, rfl, rfl, rfl, by decide⟩,
    ⟨_, _, _, rfl, rfl, rfl, by decide⟩, ⟨_, _, _, rfl, rfl, rfl, by decide⟩, ⟨_, _, _, rfl, rfl, rfl, by decide⟩, ⟨_, _, _, rfl, rfl, rfl, by decide⟩⟩
  intro op h
  simp only [List.mem_cons, List.not_mem_nil, or_false] at h
  rcases h with rfl | rfl | rfl | rfl | rfl | rfl | rfl | rfl | rfl | rfl | rfl | rfl | rfl <;> exact ⟨_, rfl, by decide⟩

/-- The tables of `dat`, with an entry of the lowest level that is no leaf. -/
def noLeaf (s : State) : State := { s with homes := { s.homes with mem := Memory.put s.homes.mem 0x402018 [1] } }
abbrev entry (s : State) (pa e : Nat) : Prop := s.phys pa = .hbm pa ∧ Memory.read s.homes.mem (s.homeAddr pa) 8 = e
/-- The upper three tables and what they hold for addresses below 2 MiB. -/
theorem wit_page_walks_table :
    let s := noLeaf (dat (st 0))
    ((s.regs.ctxs.getD 15 0).toNat % 2 = 1 ∧ (s.regs.ctxs.getD 15 0).toNat / 2 ^ 21 % 2 ^ 31 * 2 ^ 21 = 0x200000 ∧ (s.regs.ctxs.getD 14 0).toNat % 2 = 0) ∧
    entry s 0x200000 0x400001 ∧ entry s 0x400000 0x401001 ∧ entry s 0x401000 0x402001 ∧ entry s 0x402010 0x2000B ∧ entry s 0x402018 1 ∧
    (∀ pa ∈ [0x200008, 0x400008, 0x401008, 0x402020], entry s pa 0) := by decide
theorem wit_page_walks_leaves :
    let s := bare (st 0)
    entry s 0x200000 0x400001 ∧ entry s 0x400000 0xB ∧
    (let s := { s with homes := { s.homes with mem := [(0x200000, 0x01), (0x200002, 0x40), (0x400000, 0x01), (0x400001, 0x10), (0x400002, 0x40), (0x401000, 0x0B)] } }
     entry s 0x401000 0xB) ∧
    (let s := { s with homes := { s.homes with mem := [(0x200000, 0x09)] } }
     entry s 0x200000 9) := by decide
/-- A walk of core 0 for the bundle's lane, at an address of context 15. -/
def walking (va ctx : Nat) : State :=
  let s := dat (st1 0 id)
  { s with homes := { s.homes with walks := [⟨5, 0, ctx, s.ctxReg ctx, va, [(0, 0, va, 0)]⟩] } }
theorem wit_tlb_walks :
    (∃ w, (walking 0x20000 15).homes.walks.find? (fun x => x.id == 5) = some w ∧ (walking 0x20000 15).walk w.ctx w.va = .leaf ⟨15, 0x20000, 16, 0x20000, true, false⟩) ∧
    (∃ w k th, (walking 0x40000 15).homes.walks.find? (fun x => x.id == 5) = some w ∧ w.who = [(0, 0, 0x40000, 0)] ∧ (walking 0x40000 15).bundleOf 0 0 = some bd1 ∧
      (walking 0x40000 15).blocks[0]? = some k ∧ (walking 0x40000 15).thread? 0 0 = some th ∧ k.halt = none ∧ bd1.meet = false ∧ (walking 0x40000 15).walk w.ctx w.va = .absent) ∧
    ∃ w, (walking 0x40000 14).homes.walks.find? (fun x => x.id == 5) = some w ∧ (walking 0x40000 14).walk w.ctx w.va = .prot :=
  ⟨⟨_, rfl, by decide⟩, ⟨_, _, _, rfl, by decide, by decide, rfl, rfl, by decide⟩, ⟨_, rfl, by decide⟩⟩

/-! ### Witnesses: the Erg -/

/-- Memory of `s` with bytes written. -/
def put (a : Nat) (bs : List Byte) (s : State) : State := { s with homes := { s.homes with mem := Memory.put s.homes.mem a bs } }
/-- A block whose threads stand at the header of the placed clause, changed by `f`, and no bundle. -/
def ergSt (w : Nat) (f : Nat → Thread → Thread) : State :=
  { st w with bundles := [], cycle := 8, blocks := [{ bk with threads := bk.threads.mapIdx fun i x => f i { x with status := .ready false, opening := true } }] }
def ErgAt (s : State) (P : Block → Thread → Prop) : Prop := ∃ k th, Works s 0 k ∧ k.threads[0]? = some th ∧ s.farCode k true = none ∧ P k th
def binned (th : Thread) : Thread := { th with status := .ready true }
theorem wit_erg_entry :
    (ErgAt (ergSt 0 fun _ x => x) fun k th => th.status = .ready false ∧ (ergSt 0 fun _ x => x).atHeader k th.pc = some (th.pc - 8) ∧
      (ergSt 0 fun _ x => x).fetchWord k true (th.pc - 8) = .ok 0xFFFF00 ∧ th.cntLd = 0 ∧ ((ergSt 0 fun _ x => x).binKeys k.core).length < 64 ∧
      (ergSt 0 fun _ x => x).olderWaits k.core 0 0 th = false) ∧
    (let s := put 0x10101 [0] (ergSt 0 fun _ x => { x with cntLd := 1 })
     ErgAt s fun k th => th.status = .ready false ∧ s.atHeader k th.pc = some (th.pc - 8) ∧ s.fetchWord k true (th.pc - 8) = .ok 0xFF0000 ∧
      ¬((0xFF0000 : DWord).toNat / 2 ^ 8 % 16 = 15 ∨ th.cntLd ≤ (0xFF0000 : DWord).toNat / 2 ^ 8 % 16)) ∧
    (let s := ergSt 0 fun i x => if i = 0 then { x with pc := 0x10110 } else { x with arrival := 0 }
     ErgAt s fun k th => th.status = .ready false ∧ s.atHeader k th.pc = none) ∧
    (let s := ergSt 0 fun i x => { x with arrival := if i = 0 then 1 else 0, pc := if i = 0 then 0x10108 else 0x10118 }
     ErgAt s fun k th => ¬((0, th.pc) ∈ s.binKeys k.core ∨ ((s.binKeys k.core).length < 64 ∧ s.olderWaits k.core 0 0 th = false))) ∧
    (ErgAt (ergSt 0 fun _ x => { x with status := .parked (.wait 0 63 63 0), cntSt := 9 }) fun k th => th.status = .parked (.wait 0 63 63 0) ∧ th.cntLd ≤ 0 ∧ k.cntTl ≤ 0) ∧
    (ErgAt (ergSt 0 fun _ x => { x with status := .parked (.wait 0 63 63 0), cntLd := 1 }) fun _ th => ¬(th.cntLd ≤ 0)) ∧
    (ErgAt { ergSt 0 (fun _ x => { x with status := .parked (.sleep 4) }) with clock := 4 } fun _ th => th.status = .parked (.sleep 4) ∧ 4 ≤ (4 : DWord).toNat) ∧
    (ErgAt { ergSt 0 (fun _ x => { x with status := .parked (.sleep 5) }) with clock := 4 } fun _ th => th.status = .parked (.sleep 5) ∧ (4 : DWord).toNat < 5) ∧
    (ErgAt (ergSt 0 fun _ x => { x with status := .exiting }) fun _ th => th.status = .exiting ∧ th.cntLd = 0 ∧ th.cntSt = 0) ∧
    (ErgAt (ergSt 0 fun _ x => { x with status := .exiting, cntSt := 1 }) fun _ th => th.status = .exiting ∧ th.cntSt ≠ 0) :=
  ⟨⟨_, _, ⟨rfl, rfl, rfl⟩, rfl, by decide, by decide⟩, ⟨_, _, ⟨rfl, rfl, rfl⟩, rfl, by decide, by decide⟩, ⟨_, _, ⟨rfl, rfl, rfl⟩, rfl, by decide, by decide⟩,
   ⟨_, _, ⟨rfl, rfl, rfl⟩, rfl, by decide, by decide⟩, ⟨_, _, ⟨rfl, rfl, rfl⟩, rfl, by decide, by decide⟩, ⟨_, _, ⟨rfl, rfl, rfl⟩, rfl, by decide, by decide⟩,
   ⟨_, _, ⟨rfl, rfl, rfl⟩, rfl, by decide, by decide⟩, ⟨_, _, ⟨rfl, rfl, rfl⟩, rfl, by decide, by decide⟩, ⟨_, _, ⟨rfl, rfl, rfl⟩, rfl, by decide, by decide⟩,
   ⟨_, _, ⟨rfl, rfl, rfl⟩, rfl, by decide, by decide⟩⟩

def BinAt (s : State) (P : Block → Thread → List DWord → Prop) : Prop :=
  ∃ k th ws, Works s 0 k ∧ k.threads[0]? = some th ∧ th.status = .ready true ∧ s.farCode k true = none ∧ s.hasFormed k.core (0, th.pc) = false ∧ s.standAt k th.pc = some (0x10100, true) ∧
    s.fetchClause k true 0x10100 = .inl ws ∧ P k th ws
theorem wit_bundle_formation :
    (let s := ergSt 0 fun _ x => { binned x with pc := 0x10104 }
     ErgAt s fun k th => th.status = .ready true ∧ s.hasFormed k.core (0, th.pc) = false ∧ s.standAt k th.pc = none) ∧
    (let s := onCore (ergSt 0 fun _ x => binned x) fun c => { c with bins := [(63, (0, 0x10108))], formed := (8, [63]) }
     ErgAt s fun k th => th.status = .ready true ∧ s.hasFormed k.core (0, th.pc) = true) ∧
    (let s := ergSt 0x8000000000000000 fun _ x => { binned x with pc := 0x10110, unchecked := true }
     ErgAt s fun k th => th.status = .ready true ∧ th.unchecked = true ∧ s.hasFormed k.core (0, th.pc) = false) ∧
    (BinAt (ergSt 0 fun _ x => { binned x with arrival := 0 }) fun k th ws => clauseFault true ws = none ∧ (ws.headD 0).toNat / 2 ^ 25 % 2 ≠ 1 ∧ (ws.headD 0).toNat / 2 ^ 24 % 2 = 0 ∧
      th.alone = false ∧ k.threads[7]? = some th ∧ th.arrival + 8 ≤ (ergSt 0 fun _ x => { binned x with arrival := 0 }).cycle) ∧
    (BinAt (ergSt 0 fun i x => { (if i = 0 then binned x else x) with arrival := 1 }) fun k th ws => clauseFault true ws = none ∧ (ws.headD 0).toNat / 2 ^ 25 % 2 ≠ 1 ∧ th.alone = false ∧
      th.arrival + 8 > 8 ∧ ∀ x ∈ k.threads.drop 1, x.status ≠ .ready true) ∧
    (BinAt (ergSt 0 fun _ x => { binned x with alone := true }) fun _ th ws => clauseFault true ws = none ∧ th.alone = true) ∧
    (BinAt (ergSt 0x4000002000000833 fun _ x => binned x) fun k _ ws => clauseFault true ws = none ∧ (ws.headD 0).toNat / 2 ^ 25 % 2 = 1 ∧ ∀ x ∈ k.threads, x.status = .ready true) ∧
    (BinAt (ergSt 0x8000000000000000 fun _ x => binned x) fun _ _ ws => (clauseFault true ws).isSome = true) ∧
    (∃ k c, (st 0).bundles.find? (fun x => x.id == 0) = some { bd with ready := true } ∧ (st 0).blocks[0]? = some k ∧ (st 0).cores[k.core]? = some c) ∧
    (let s := put 0x10107 [0xF8] { onCore (st 0) (fun c => { c with fast := 57600 }) with bundles := [{ bd with ready := false }] }
     ∃ k c, s.bundles.find? (fun x => x.id == 0) = some { bd with ready := false } ∧ s.blocks[0]? = some k ∧ s.cores[k.core]? = some c ∧
      s.fetchWord k true bd.hdr = .ok 0xF800000000FFFF00 ∧ c.fast + 32 * ((0xF800000000FFFF00 : DWord).toNat / 2 ^ 59 % 32) * bd.lanes.length = 65536) ∧
    (let s := put 0x10107 [0xF8] { onCore (st 0) (fun c => { c with fast := 57601 }) with bundles := [{ bd with ready := false }] }
     ∃ k c, s.blocks[0]? = some k ∧ s.cores[k.core]? = some c ∧ s.fetchWord k true bd.hdr = .ok 0xF800000000FFFF00 ∧
      65536 < c.fast + 32 * ((0xF800000000FFFF00 : DWord).toNat / 2 ^ 59 % 32) * bd.lanes.length) :=
  ⟨⟨_, _, ⟨rfl, rfl, rfl⟩, rfl, by decide, by decide⟩, ⟨_, _, ⟨rfl, rfl, rfl⟩, rfl, by decide, by decide⟩, ⟨_, _, ⟨rfl, rfl, rfl⟩, rfl, by decide, by decide⟩, ⟨_, _, _, ⟨rfl, rfl, rfl⟩, rfl, rfl, by decide, by decide, by decide, rfl, by decide⟩,
   ⟨_, _, _, ⟨rfl, rfl, rfl⟩, rfl, rfl, by decide, by decide, by decide, rfl, by decide⟩, ⟨_, _, _, ⟨rfl, rfl, rfl⟩, rfl, rfl, by decide, by decide, by decide, rfl, by decide⟩,
   ⟨_, _, _, ⟨rfl, rfl, rfl⟩, rfl, rfl, by decide, by decide, by decide, rfl, by decide⟩, ⟨_, _, _, ⟨rfl, rfl, rfl⟩, rfl, rfl, by decide, by decide, by decide, rfl, by decide⟩,
   ⟨_, _, by decide, rfl, rfl⟩, ⟨_, _, by decide, rfl, rfl, by decide⟩, ⟨_, _, rfl, rfl, by decide⟩⟩

theorem wit_register_deadlock :
    let s := { ergSt 0 (fun _ x => { x with status := .parked (.grow 128) }) with cycle := 65536 }
    let k := (s.blocks[0]?).getD bk
    s.resident? 0 = some k ∧ k.halt = none ∧ (∃ c, s.cores[k.core]? = some c ∧ c.grew + 65536 ≤ s.cycle ∧ { s with cycle := 65535 }.cycle < c.grew + 65536) ∧ k.seq.ended = true ∧
    (∀ th ∈ k.threads, th.status = .parked (.grow 128)) ∧
    (let s := ergSt 0x4000002000000833 fun i x => if i = 0 then binned x else { x with status := .parked (.grow 128) }
     ∃ k th, s.blocks[0]? = some k ∧ k.threads[0]? = some th ∧ s.waitsOctet k 0 th = true) :=
  ⟨rfl, rfl, ⟨_, rfl, by decide⟩, rfl, by decide, _, _, rfl, rfl, by decide⟩

/-! ### Witnesses: syscalls, halts, captures, errors and migration -/

def onRegs (f : Regs → Regs) (s : State) : State := { s with regs := f s.regs }
/-- Thread 0 parked at TRAP; the rings lie at 0x20000 and 0x21000, and the reply's STATUS is given. -/
def sysSt (idx : Option Nat) (status : Byte) (set : Bool) : State :=
  put 0x21000 [status] (onRegs (fun r => { r with srSet := set, srBase := 0x20000, rpBase := 0x21000 })
    (ergSt 0 fun i x => if i = 0 then { x with status := .parked (.syscall idx 7 []), opening := false } else x))
theorem wit_syscalls :
    (let s := sysSt none 0 true
     ErgAt s fun k th => k.halt = none ∧ th.status = .parked (.syscall none 7 []) ∧ s.regs.srSet = true ∧ (s.regs.srProd - s.regs.srCons).toNat < 64 ∧ s.writesPending 0 0 = false ∧
      (s.asking [7, 4] = true → s.asking [7, 4, 0, 0] = true) ∧ PlainPa s 0x20000 64 0x20000 ∧ s.srWaiter 0 = none) ∧
    (ErgAt (sysSt none 0 false) fun _ th => th.status = .parked (.syscall none 7 []) ∧ (sysSt none 0 false).regs.srSet ≠ true) ∧
    (∀ x ∈ [0, 1, 2], ∃ k, (sysSt (some 0) x true).resident? 0 = some k ∧ k.halt = none ∧ (sysSt (some 0) x true).srWaiter 0 = some (0, 0) ∧ PlainPa (sysSt (some 0) x true) 0x21000 64 0x21000 ∧
      Memory.read (sysSt (some 0) x true).homes.mem 0x21000 2 = x.toNat) := by
  refine ⟨⟨_, _, ⟨rfl, rfl, rfl⟩, rfl, by decide, by decide +kernel⟩, ⟨_, _, ⟨rfl, rfl, rfl⟩, rfl, by decide, by decide⟩, ?_⟩
  intro x h
  simp only [List.mem_cons, List.not_mem_nil, or_false] at h
  rcases h with rfl | rfl | rfl <;> exact ⟨_, rfl, by decide +kernel⟩

/-- A halted block of a launch under a queue whose halt area at 0x20000 is used up to `used`. -/
def haltSt (debug recorded : Bool) (used : Nat) : State :=
  let s := ergSt 0 fun _ x => x
  { onBlock s (fun k => { k with halt := some ⟨0x21, debug, 0, none, 0, 0, 0, 0, 0, recorded, false⟩ }) with front := { s.front with
    queues := [(0, { Queue.zero with act := { QCfg.zero with haltBase := 0x20000, haltSize := 1 }, haltUsed := used })] } }
def HaltAt (s : State) (P : Block → Halt → Prop) : Prop := ∃ k h, s.resident? 0 = some k ∧ k.halt = some h ∧ P k h
theorem wit_halts :
    (∃ k, (ergSt 0 fun _ x => x).resident? 0 = some k ∧ k.halt = none) ∧
    (HaltAt (haltSt true true 0) fun _ h => h.debug = true ∧ h.recorded = true) ∧
    (∀ d ∈ [true, false], HaltAt (haltSt d false 832) fun k h => h.debug = d ∧ h.recorded = false ∧ ((haltSt d false 832).queue ((haltSt d false 832).queueOf k)).reset ≠ 1 ∧
      (∀ x ∈ (haltSt d false 832).bundles, x.blk ≠ 0) ∧ (haltSt d false 832).drained 0 = true ∧ k.colls = [] ∧ ((haltSt d false 832).permits (k.core / 4)).2 < 16 ∧
      (∀ l, (haltSt d false 832).launch? k = some l → l.children = []) ∧ 832 + (64 + 16 * k.threads.length) ≤ 1 * 1024 ∧
      PlainPa (haltSt d false 832) (0x20000 + 832) (64 + 16 * k.threads.length) (0x20000 + 832)) ∧
    (HaltAt (haltSt false false 833) fun k _ => ((haltSt false false 833).queue ((haltSt false false 833).queueOf k)).act.haltSize.toNat * 1024 <
      ((haltSt false false 833).queue ((haltSt false false 833).queueOf k)).haltUsed + (64 + 16 * k.threads.length)) := by
  refine ⟨⟨_, rfl, by decide⟩, ⟨_, _, rfl, rfl, by decide⟩, ?_, ⟨_, _, rfl, rfl, by decide⟩⟩
  intro d h
  simp only [List.mem_cons, List.not_mem_nil, or_false] at h
  rcases h with rfl | rfl <;> exact ⟨_, _, rfl, rfl, by decide, by decide, by decide, by decide, by decide, by decide, by decide, fun l e => by cases e; rfl, by decide, by decide +kernel⟩

/-- One range of one granule, captured or armed. -/
def seifSt (ctl : Word) (cap : Bool) (d1 : DWord) (tags : Tbl (BitVec 16)) : State :=
  { onRegs (fun r => { r with stepno := 1 }) rs with
    seif := { State.reset.seif with ctl := ctl, capturing := cap, man0 := 0x20000030000, man1 := 0x20000040000, ranges := [(0x20000000000, 0x100, 0x20000010000, d1)] }
    homes := { rs.homes with gtags := tags } }
def seifSrc (s : State) : List (Nat × Nat) := (s.seif.ranges.filter fun r => r.2.1 != 0).map fun r => (r.1.toNat, r.2.1.toNat)
def seifDst (s : State) : List (Nat × Nat) := (s.seif.ranges.filter fun r => r.2.1 != 0).flatMap fun r => [(r.2.2.1.toNat, r.2.1.toNat), (r.2.2.2.toNat, r.2.1.toNat)]
abbrev apart (x y : Nat × Nat) : Prop := ¬(x.1 < y.1 + y.2 ∧ y.1 < x.1 + x.2)
abbrev seifGood (s : State) : Prop :=
  (seifSrc s).Pairwise apart ∧ (seifDst s).Pairwise apart ∧ ∀ d ∈ seifDst s, ∀ y ∈ seifSrc s ++ [(s.seif.man0.toNat, 64), (s.seif.man1.toNat, 64)], apart d y
abbrev inRange (s : State) (g : Nat) : Prop := ∃ r ∈ s.seif.ranges, r.2.1 ≠ 0 ∧ r.1.toNat / 256 ≤ g ∧ g < r.1.toNat / 256 + r.2.1.toNat / 256
/-- The one granule of the range. -/
theorem range_one (ctl : Word) (cap : Bool) (d1 : DWord) (tags : Tbl (BitVec 16)) (g : Nat) (h : inRange (seifSt ctl cap d1 tags) g) : g = 0x200000000 := by
  obtain ⟨r, hr, _, h1, h2⟩ := h
  cases List.mem_singleton.1 hr
  simp only [show (0x20000000000 : DWord).toNat / 256 = 0x200000000 from by decide, show (0x100 : DWord).toNat / 256 = 1 from by decide] at h1 h2
  omega
theorem wit_captures :
    (let s := seifSt 0 false 0x20000010100 []
     s.seif.ctl.getLsbD 0 = false ∧ (1 : Word).getLsbD 0 = true ∧ s.seif.capturing = false ∧ seifGood s) ∧
    (¬ seifGood (seifSt 0 false 0x200000100FF [])) ∧ ((seifSt 1 true 0x20000010100 []).seif.ctl.getLsbD 0 = true ∧ (2 : Word).getLsbD 0 = false) ∧
    (let s := seifSt 1 true 0x20000010100 []
     s.seif.capturing = true ∧ inRange s 0x200000000 ∧ s.gtag 0x200000000 ≠ s.step16 ∧ (∀ h, inRange s h → h < 0x200000000 → s.gtag h = s.step16) ∧
      s.seifRange (256 * 0x200000000) = some (0x20000000000, 0x20000010000)) ∧
    (let s := seifSt 1 true 0x20000010100 [(0x200000000, 1)]
     s.seif.capturing = true ∧ ∀ g, inRange s g → s.gtag g = s.step16) :=
  ⟨by decide, by decide, by decide, ⟨by decide, by decide, by decide, fun h hr hl => absurd (range_one _ _ _ _ h hr) (by omega), by decide⟩,
    by decide, fun g hr => by cases range_one _ _ _ _ g hr; decide⟩
def carSt (l : List CarEntry) : State := { rs with homes := { rs.homes with caravan := [l, []] } }
def carE (id : Nat) (a : Nat) (agent : Option (Nat × Nat)) (epoch : Word) : CarEntry := ⟨id, a / 128 * 128, [(a, 7)], agent, epoch, false, false⟩
abbrev mayDrain (before after : List CarEntry) (e : CarEntry) : Prop :=
  (∀ x ∈ before, x.line = e.line → ∀ c ∈ x.data, ∀ d ∈ e.data, c.1 ≠ d.1) ∧ ∀ x ∈ before ++ after, e.agent ≠ none → x.agent = e.agent → (x.epoch - e.epoch).toNat < 2 ^ 31
theorem wit_caravan :
    ((carSt [carE 1 0 none 0, carE 2 1 (some (0, 0)) 5, carE 3 2 (some (0, 0)) 6]).homes.caravan[(0 : Fin 2).val]? = some ([carE 1 0 none 0] ++ carE 2 1 (some (0, 0)) 5 :: [carE 3 2 (some (0, 0)) 6]) ∧
      (∀ x ∈ [carE 1 0 none 0] ++ [carE 3 2 (some (0, 0)) 6], x.id ≠ 2) ∧ mayDrain [carE 1 0 none 0] [carE 3 2 (some (0, 0)) 6] (carE 2 1 (some (0, 0)) 5)) ∧
    ¬ mayDrain [carE 1 1 none 0] [] (carE 2 1 none 0) ∧ ¬ mayDrain [carE 1 1 (some (0, 0)) 4] [] (carE 2 2 (some (0, 0)) 5) :=
  ⟨⟨by decide, by decide, by decide, by decide⟩, fun h => by have := h.1; revert this; decide, fun h => by have := h.2; revert this; decide⟩

def frec : FaqRec := ⟨0x30000, 0, 0, 0, 0, 0, 0, 0, 0, 15, 0⟩
/-- The fault-address queue at a place, with one record waiting. -/
def faqSt (base : DWord) (cons : Word) : State := onRegs (fun r => { r with faqSet := true, faqBase := base, faqCons := cons, faqWait := [frec] }) rs
/-- Both directions of link 0 have no permit left. -/
def jammed (s : State) : State := { s with front := { s.front with links := [(0, List.replicate 16 (.retired 0), List.replicate 16 (.retired 0))] } }
theorem wit_bad_page_list_full (s : State) : 4096 ≤ (onRegs (fun r => { r with badpages := List.replicate 4096 1 }) s).regs.badpages.length := by
  simp [onRegs]
theorem wit_memory_errors :
    (let s := onRegs (fun r => { r with badpages := [0x20003], ecc := r.ecc.set 2 ⟨0, 0, 2⟩, tracker := [(3, 1)] }) rs
     s.regs.badpages.any (fun e => e.toNat / 2 ^ 16 == 2) = true ∧ s.regs.badpages.any (fun e => e.toNat / 2 ^ 16 == 3) = false ∧ s.regs.badpages.length < 4096 ∧
      (s.regs.ecc.getD 2 ⟨0, 0, 16⟩).thr.toNat ≤ ((s.regs.tracker.find? fun x => x.1 == 3).map (·.2)).getD 0 + 1 ∧
      ((s.regs.tracker.find? fun x => x.1 == 4).map (·.2)).getD 0 + 1 < (s.regs.ecc.getD 2 ⟨0, 0, 16⟩).thr.toNat) ∧
    (let s := sq 0 fun k => { k with units := [15, 0] }
     (∃ k, s.resident? 0 = some k ∧ k.core = 0 ∧ 15 ∈ k.units ∧ k.units[0]? = some 15 ∧ k.units.Nodup) ∧ (1 * 2 ^ 20 - 1) / 2 ^ 20 = 0 ∧ (1 * 2 ^ 20 - 1) % 2 ^ 20 / 65536 = 15) ∧
    (let s := cached (sq 0 id)
     (s.l1At 0 0).isSome = true ∧ s.l1At 0 4096 = none ∧ s.phys 0x20000 = .hbm 0x20000 ∧ s.migOf 0x20000 = none ∧
      ∀ k ∈ s.blocks, 15 ∉ k.units) ∧
    (let s := faqSt 0x20000 0
     s.regs.faqSet = true ∧ s.regs.faqErr = false ∧ (s.regs.faqProd - s.regs.faqCons).toNat < 2 ^ 12 / 32 ∧ s.regs.faqWait = frec :: [] ∧ PlainPa s 0x20000 32 0x20000) ∧
    (let s := faqSt 0x07000000000 0
     s.phys 0x07000000000 = .hole ∧ s.regs.faqWait = frec :: []) ∧
    ¬ (((faqSt 0x20000 (-128)).regs.faqProd - (faqSt 0x20000 (-128)).regs.faqCons).toNat < 2 ^ 12 / 32) ∧
    (let x := (0x2000000F1 : DWord).toNat
     x % 4 ≠ 3 ∧ x / 4 % 4 = 0 ∧ x / 2 ^ 8 % 2 ^ 8 = 0 ∧ x / 2 ^ 57 = 0 ∧ x / 2 ^ 16 % 2 ^ 41 * 2 ^ 16 % 2 ^ 21 = 0) ∧ (3 : DWord).toNat % 4 = 3 ∧
    (let s := sq 0 id
     (s.permits (0 / 4)).1 < 16 ∧ 16 ≤ ((jammed s).permits (0 / 4)).1) := by
  refine ⟨by decide, ⟨⟨_, rfl, by decide⟩, by decide, by decide⟩, by decide, by decide +kernel, by decide, by decide, by decide, by decide, by decide⟩

/-- A shoot-down that core 0 has not acknowledged. -/
def shootSt (wait : List Nat) (s : State) : State := onRegs (fun r => { r with shoots := [⟨9, some 15, 0x20000, 1, wait⟩] }) s
def migSt (m : List Migration) : State := onRegs (fun r => { r with migOld := 0x30000, migNew := 0x40000, migs := m }) (bare rs)
def mig (done : List Bool) (switched : Bool) : Migration := ⟨0x30000, 0x40000, 0x400000, false, done, switched, some 9⟩
theorem wit_shoot_downs_and_migration :
    (let s := shootSt [0, 287] (atAddr 0x20000 id)
     (∃ x, s.regs.shoots.find? (fun y => y.id == 9) = some x ∧ 0 ∈ x.wait ∧ s.inFlight 0 x = false ∧ 1 ∉ x.wait ∧ ∃ d ∈ x.wait, d ≠ 0) ∧ (s.cores[0]?).isSome = true) ∧
    (let s := shootSt [0] (asking 0x400 .load .gen [part 4 none])
     ∃ x, s.regs.shoots.find? (fun y => y.id == 9) = some x ∧ s.inFlight 0 x = true ∧ ∀ d ∈ x.wait, d = 0) ∧
    (64 ≤ (migSt (List.replicate 64 (mig [] false))).regs.migs.length ∧ (migSt []).regs.migs.length < 64 ∧ (migSt []).phys 0x30000 = .hbm 0x30000 ∧ (migSt []).phys 0x40000 = .hbm 0x40000) ∧
    (let s := migSt [mig [false, true] false]
     s.regs.migs[0]? = some (mig [false, true] false) ∧ (mig [false, true] false).done[0]? = some false ∧ (mig [false, true] false).done[1]? ≠ some false ∧ s.homeAddr 0x30000 = 0x30000 ∧ 0x30000 < 0x06000000000 ∧
      0x40000 % 128 = 0 ∧ s.migOf 0x40000 = none ∧ false ∈ (mig [false, true] false).done) ∧
    (let s := migSt [mig [true, true] false]
     (mig [true, true] false).switched = false ∧ (∀ d ∈ (mig [true, true] false).done, d = true) ∧ PlainPa s 0x400000 8 0x400000) ∧
    (let s := shootSt [0] (migSt [mig [true] true])
     ∃ x ∈ s.regs.shoots, (mig [true] true).shoot = some x.id) ∧
    (let s := migSt [mig [true] true]
     (mig [true] true).switched = true ∧ (∀ x ∈ s.regs.shoots, (mig [true] true).shoot ≠ some x.id) ∧ s.migOf 0x3FFFF = some (mig [true] true) ∧ 0x40000 + (0x3FFFF - 0x30000) < 0x06000000000) ∧
    (migSt [mig [true] false]).migOf 0x30000 = some (mig [true] false) :=
  ⟨⟨⟨_, rfl, by decide⟩, by decide⟩, ⟨_, rfl, by decide⟩, by decide, by decide, by decide +kernel, by decide, by decide, by decide⟩

/-! ### Witnesses: queues, launches and pre-emption -/

def cq (f : Queue → Queue) : Queue :=
  f { Queue.zero with cfg := { QCfg.zero with ctrl := 1, rsize := 12 }, act := { QCfg.zero with ctrl := 1, rbase := 0x20000, rsize := 12, ctx := 15 }, wr := 1 }
def enabled (s : State) : State := onRegs (fun r => { r with enable := true }) s
/-- Queue 4095, and more cells of memory over one mapped GiB; the placed launch belongs to queue 0. -/
def cqSt (c : Queue) (m : Mem) : State :=
  let s := enabled (bare (st 0))
  { s with front := { s.front with queues := [(4095, c)] }, homes := { s.homes with mem := m ++ s.homes.mem } }
def RingAt (c : Queue) (m : Mem) (P : State → Nat → Prop) : Prop :=
  let s := cqSt c m
  s.queue 4095 = c ∧ s.fronts 4095 = true ∧ c.fetched = none ∧ c.rd ≠ c.wr ∧ P s (c.act.rbase.toNat + 64 * (c.rd.toNat % max 1 (2 ^ c.act.rsize / 64)))
def off (n : Nat) : Queue := cq fun c => { c with cfg := { c.cfg with ctrl := 0, rsize := n } }
theorem wit_command_queues :
    ((cq id).cfg.ctrl.getLsbD 0 = true ∧ (off 12).cfg.ctrl.getLsbD 0 = false ∧ (1 : BitVec 16).getLsbD 0 = true ∧ (0 : BitVec 16).getLsbD 0 = false ∧
      ∀ n ∈ [12, 24], (cqSt (off n) []).queue 4095 = off n ∧ 12 ≤ (off n).cfg.rsize ∧ (off n).cfg.rsize ≤ 24) ∧
    (∀ n ∈ [11, 25], ¬(12 ≤ (off n).cfg.rsize ∧ (off n).cfg.rsize ≤ 24)) ∧
    ((cq id).stat = 0 ∧ (cq fun c => { c with stat := 1 }).stat ≠ 0 ∧ 2 ^ (cq id).act.rsize / 64 = 64 ∧ ¬(64 < ((64 : Word) - (cq id).rd).toNat) ∧ 64 < ((65 : Word) - (cq id).rd).toNat ∧
      ((cq id).wr - (cq id).rd).toNat ≤ ((64 : Word) - (cq id).rd).toNat ∧ ((0 : Word) - (cq id).rd).toNat < ((cq id).wr - (cq id).rd).toNat) ∧
    ((cqSt (off 12) []).fronts 4095 = false ∧ (cq fun c => { c with wr := 0 }).rd = (cq fun c => { c with wr := 0 }).wr ∧ (cq id).retries = 0 ∧
      (cqSt (cq id) []).clock.toNat < (cq fun c => { c with retryAt := 1 }).retryAt ∧ (cq id).retryAt ≤ (cqSt (cq id) []).clock.toNat) ∧
    (RingAt (cq fun c => { c with act := { c.act with rbase := 0x06000000000 }, retries := 1 }) [] fun s pa => s.phys pa = .hole) ∧
    (∀ n ∈ [0, 1, 63, 64], RingAt (cq fun c => { c with expect := 1, retries := n }) [] fun s pa => PlainPa s pa 64 pa ∧ BitVec.ofNat 16 (Memory.read s.homes.mem (pa + 2) 2) ≠ (1 : BitVec 16)) ∧
    (RingAt (cq fun c => { c with rd := 63, wr := 65 }) [(0x20FC1, 1)] fun s pa => PlainPa s pa 64 pa ∧ 64 < 63 + (Memory.read s.homes.mem (pa + 1) 1 % 64 + 1)) ∧
    (RingAt (cq fun c => { c with rd := 62 }) [(0x20F81, 1)] fun s pa => PlainPa s pa 128 pa ∧ 62 + (Memory.read s.homes.mem (pa + 1) 1 % 64 + 1) = 64 ∧ packetOk (Memory.bytes s.homes.mem pa 128) = true) ∧
    (RingAt (cq id) [(0x20001, 1)] fun s pa => PlainPa s pa 64 pa ∧ ((cq id).wr - (cq id).rd).toNat < Memory.read s.homes.mem (pa + 1) 1 % 64 + 1) ∧
    (∀ ty ∈ [0, 4], RingAt (cq id) [(0x20000, ty)] fun s pa => PlainPa s pa 64 pa ∧ packetOk (Memory.bytes s.homes.mem pa 64) = true) ∧
    (∀ ty ∈ [1, 6, 255], RingAt (cq id) [(0x20000, ty)] fun s pa => PlainPa s pa 64 pa ∧ packetOk (Memory.bytes s.homes.mem pa 64) = false) := by
  refine ⟨by decide, by decide, by decide, by decide, ⟨rfl, by decide, rfl, by decide, by decide⟩, ?_, ⟨rfl, by decide, rfl, by decide, by decide +kernel⟩,
    ⟨rfl, by decide, rfl, by decide, by decide +kernel⟩, ⟨rfl, by decide, rfl, by decide, by decide +kernel⟩, ?_, ?_⟩ <;> intro x h <;>
    simp only [List.mem_cons, List.not_mem_nil, or_false] at h
  · rcases h with rfl | rfl | rfl | rfl <;> exact ⟨rfl, by decide, rfl, by decide, by decide +kernel⟩
  · rcases h with rfl | rfl <;> exact ⟨rfl, by decide, rfl, by decide, by decide +kernel⟩
  · rcases h with rfl | rfl | rfl <;> exact ⟨rfl, by decide, rfl, by decide, by decide +kernel⟩

/-- A packet header of a type, with an argument, and an address in its first operand. -/
def pkt (ty arg addr a b : Nat) : List Byte := toBytes ty 4 ++ toBytes arg 4 ++ toBytes addr 8 ++ toBytes a 8 ++ toBytes b 8 ++ List.replicate 32 0
/-- Queue 4095, or the launch's own queue 0, with a packet fetched; the word at 0x20000 is 7. -/
def pktSt (q : Nat) (bs : List Byte) (waiting : Bool) : State :=
  let s := cqSt (cq id) [(0x20000, 7)]
  { s with front := { s.front with queues := [(q, cq fun c => { c with fetched := some bs, waiting := waiting })] } }
abbrev earlier (s : State) (q : Nat) : Prop := ∃ l ∈ s.front.launches, l.child = false ∧ l.queue = q ∧ l.state ≠ .complete ∧ l.state ≠ .discarded
theorem wit_packets :
    (∀ ty ∈ [0, 1, 2, 3, 4, 5], AtPacket (pktSt 4095 (pkt ty 0 0x20000 0 0) false) 4095 (cq fun c => { c with fetched := some (pkt ty 0 0x20000 0 0), waiting := false }) (pkt ty 0 0x20000 0 0) ty) ∧
    ((cqSt (cq id) []).front.launches ≠ [] ∧ ¬ earlier (pktSt 4095 [] false) 4095 ∧ earlier (pktSt 0 [] false) 0) ∧
    (24 ≤ (pkt 3 0 0x20000 0 0).length ∧ rdN (pkt 3 0 0x20000 0 0) 8 8 = 0x20000 ∧ Plain (pktSt 4095 (pkt 3 0 0x20000 0 0) false) none 15 0x20000 8 .write 0x20000 0x20000 false) ∧
    (∀ acc ∈ [Acc.read, .write], (pktSt 4095 (pkt 3 0 0x40000000 0 0) false).xlate 15 0x40000000 acc = .absent) ∧
    Plain (pktSt 4095 (pkt 2 0 0x20000 0 0) false) none 15 0x20000 8 .read 0x20000 0x20000 false ∧
    (let x := Memory.read (pktSt 4095 [] false).homes.mem 0x20000 8
     (x = 7 ∧ x ≠ 8) ∧ (8 ≠ x ∧ ¬ 7 ≠ x) ∧ (7 ≤ x ∧ ¬ 8 ≤ x) ∧ x < 8 ∧ ¬ x < 7) := by
  refine ⟨?_, by decide, by decide +kernel, by decide, by decide +kernel, by decide⟩
  intro ty h
  simp only [List.mem_cons, List.not_mem_nil, or_false] at h
  rcases h with rfl | rfl | rfl | rfl | rfl | rfl <;> exact ⟨by decide, rfl, rfl, by decide⟩
def generic : LaunchCheck → Bool
  | .good r _ _ _ => r.specMode == 0
  | _ => false
/-- A fetched LAUNCH packet with the record of `recordMem`, and a signal address. -/
def launchPkt (unroll : Byte) (sig : Nat) : List Byte := pkt 1 0 0 0 0 ++ (Memory.bytes (recordMem false unroll) 0x20000 256).take 40 ++ toBytes sig 8 ++ (Memory.bytes (recordMem false unroll) 0x20000 256).drop 48
def launchPktSt (unroll : Byte) (sig : Nat) : State :=
  let s := pktSt 4095 (launchPkt unroll sig) false
  { s with homes := { s.homes with mem := recordMem false unroll }, regs := { s.regs with routes := [(0, 0x02000000)] } }
theorem wit_launch_packets :
    ((launchPkt 1 0).length = 320 ∧ (launchPktSt 1 0).queue 4095 = (cq fun c => { c with fetched := some (launchPkt 1 0), waiting := false }) ∧
      generic ((launchPktSt 1 0).checkLaunch [6, 4095, 0] 15 ((launchPkt 1 0).drop 64)).2 = true) ∧
    (((launchPktSt 0 0).checkLaunch [6, 4095, 0] 15 ((launchPkt 0 0).drop 64)).2 = .bad ∧ (LaunchRec.of ((launchPkt 0 0).drop 64)).sigaddr = 0) ∧
    (let c := (launchPktSt 0 0x30000).checkLaunch [6, 4095, 0] 15 ((launchPkt 0 0x30000).drop 64)
     c.2 = .bad ∧ (LaunchRec.of ((launchPkt 0 0x30000).drop 64)).sigaddr = 0x30000 ∧ Plain c.1 none 15 0x30000 8 .write 0x30000 0x30000 false) :=
  ⟨by decide +kernel, by decide +kernel, by decide +kernel⟩

/-! ### Witnesses: tickets, retirement, grids and builds -/

/-- A launch of die 7's blocks 4 and 5, alone or as one CLUSTER unit. -/
def dealing (cluster : Bool) : Launch :=
  { placeLaunch with ranges := List.replicate 7 [] ++ [[(4, 6)]], blocks := 6
                     lrec := { placeRecord with nlev := if cluster then 3 else 2, levels := if cluster then [(8, 0, 0), (2, 2, 2), (3, 3, 3)] else [(8, 0, 0), (6, 2, 2)] } }
def onFront (f : Front → Front) (s : State) : State := { s with front := f s.front }
def pullSt (cluster : Bool) : State := onFront (fun f => { f with launches := [dealing cluster] }) (enabled rs)
theorem wit_ticket_pull :
    ((pullSt false).regs.enable = true ∧ rs.regs.enable = false ∧ (enabled rs).bestLaunch 287 ≠ some 0) ∧
    (∀ x ∈ [(false, [287], [(5, 6)]), (true, [284, 287], [])], (pullSt x.1).bestLaunch 287 = some 0 ∧ (pullSt x.1).front.launches[0]? = some (dealing x.1) ∧
      (∀ y ∈ x.2.1, (pullSt x.1).savedFirst y (dealing x.1) = false) ∧ (dealing x.1).nextTicket (287 / 36) = some (4, List.replicate 7 [] ++ [x.2.2]) ∧ (pullSt x.1).unitCores 287 (dealing x.1) = some x.2.1 ∧
      ((pullSt x.1).permits (72 + 287 / 4)).1 < 16 ∧ ((pullSt x.1).permits (72 + 287 / 4)).2 < 16) ∧ 143 < 144 := by
  refine ⟨by decide +kernel, ?_, by decide⟩
  intro x h
  simp only [List.mem_cons, List.not_mem_nil, or_false] at h
  rcases h with rfl | rfl <;> exact ⟨by decide +kernel, rfl, by decide +kernel, by decide, by decide +kernel, by decide, by decide⟩

/-- All threads of the placed block have exited, and its sequencer has ended, or one thing is still there. -/
def retiring (f : Block → Block) : State :=
  onBlock { ergSt 0 (fun _ x => { x with status := .exited, v := [] }) with bundles := [] } fun k => f { k with seq := Seq.idle }
abbrev mayRetire (k : Block) : Prop :=
  k.halt = none ∧ (∀ th ∈ k.threads, th.status = .exited) ∧ k.seq.ended = true ∧ (∀ x ∈ k.streams, x = none) ∧ k.cntCp = 0 ∧ k.cntTl = 0
def RetireAt (s : State) (P : Block → Prop) : Prop := ∃ k l c, s.resident? 0 = some k ∧ s.launch? k = some l ∧ s.cores[k.core]? = some c ∧ l.children = [] ∧ c.growq = [] ∧ P k
/-- A launch all of whose blocks have been dealt, and so many are done. -/
def completing (f : Launch → Launch) : State :=
  onFront (fun x => { x with launches := [f { placeLaunch with done := 1 }] }) (enabled (bare (st 0)))
def kid (remain sig : Nat) : Child := ⟨0, 1, 0, [], 1, sig, remain, 2, 0⟩
def DoneAt (s : State) (P : Launch → Prop) : Prop := ∃ l, s.front.launches[0]? = some l ∧ l.state = .dealing ∧ s.regs.enable = true ∧ P l
theorem wit_retirement :
    (RetireAt (retiring id) fun k => mayRetire k ∧ (retiring id).farOut 0 = false ∧ ((retiring id).permits (k.core / 4)).2 < 16 ∧ (∀ r ∈ (retiring id).homes.reqs, r.blk ≠ 0) ∧ ∀ r ∈ (retiring id).homes.rets, r.blk ≠ 0) ∧
    (RetireAt (waitsFar [9, 0, 0] (retiring id)) fun k => mayRetire k ∧ (waitsFar [9, 0, 0] (retiring id)).farOut 0 = true) ∧
    (RetireAt (jammed (retiring id)) fun k => mayRetire k ∧ 16 ≤ ((jammed (retiring id)).permits (k.core / 4)).2) ∧
    (RetireAt (retiring fun k => { k with cntCp := 1 }) fun k => ¬ mayRetire k) ∧ (RetireAt (retiring fun k => bindS (stream 0 0 []) k) fun k => ¬ mayRetire k) ∧
    (DoneAt (completing id) fun l => l.allDealt = true ∧ l.blocks ≤ l.done ∧ l.children = [] ∧ l.lrec.sigaddr = 0) ∧
    (DoneAt (completing fun l => { l with done := 0 }) fun l => (∀ c ∈ l.children, c.remain = 0 → c.sig = 0) ∧ l.done < l.blocks) ∧
    (DoneAt (completing fun l => { l with ranges := [[(0, 1)]] }) fun l => (∀ c ∈ l.children, c.remain = 0 → c.sig = 0) ∧ l.allDealt = false) ∧
    (∀ e ∈ [true, false], DoneAt (completing fun l => { l with seq := 0x12345, faulted := e, lrec := { l.lrec with sigaddr := 0x2FFF8 } }) fun l => l.allDealt = true ∧ l.children = [] ∧
      l.lrec.sigaddr ≠ 0 ∧ l.lrec.sigaddr % 8 = 0 ∧
      Plain (completing fun l => { l with seq := 0x12345, faulted := e, lrec := { l.lrec with sigaddr := 0x2FFF8 } }) none l.ctx l.lrec.sigaddr 8 .write 0x2FFF8 0x2FFF8 false) ∧
    (DoneAt (completing fun l => { l with child := true, done := 0, children := [kid 0 0x20000, kid 1 0x20008] }) fun l => l.children = kid 0 0x20000 :: [kid 1 0x20008] ∧ (kid 0 0x20000).remain = 0 ∧
      (kid 0 0x20000).sig ≠ 0 ∧ (kid 0 0x20000).sig % 8 = 0 ∧
      Plain (completing fun l => { l with child := true, done := 0, children := [kid 0 0x20000, kid 1 0x20008] }) none l.ctx (kid 0 0x20000).sig 8 .write 0x20000 0x20000 false) ∧
    (completing fun l => { l with state := .complete }).front.launches[0]?.map (·.state) ≠ some .dealing := by
  refine ⟨⟨_, _, _, rfl, rfl, rfl, rfl, rfl, by decide, by decide, by decide, by decide, by decide⟩, ⟨_, _, _, rfl, rfl, rfl, rfl, rfl, by decide⟩, ⟨_, _, _, rfl, rfl, rfl, rfl, rfl, by decide⟩, ⟨_, _, _, rfl, rfl, rfl, rfl, rfl, by decide⟩, ⟨_, _, _, rfl, rfl, rfl, rfl, rfl, by decide⟩,
    ⟨_, rfl, rfl, rfl, by decide⟩, ⟨_, rfl, rfl, rfl, by decide⟩, ⟨_, rfl, rfl, rfl, by decide⟩, ?_, ⟨_, rfl, rfl, rfl, by decide +kernel⟩, by decide⟩
  intro e h
  simp only [List.mem_cons, List.not_mem_nil, or_false] at h
  rcases h with rfl | rfl <;> exact ⟨_, rfl, rfl, rfl, by decide +kernel⟩

/-- A merge window that opened at the start, of the placed launch, its tables at 0x20000. -/
def windowed (kids : List Child) (clock : DWord) : State :=
  { onRegs (fun r => { r with aggBase := 0x20000 }) (bare (st 0)) with
    clock := clock, front := { (st 0).front with windows := [⟨5, 0, placeRecord, placeCodeHdr, [], 0, kids⟩] } }
def WindowAt (s : State) (P : Window → Prop) : Prop := ∃ w, s.front.windows.find? (fun x => x.id == 5) = some w ∧ P w
/-- A build for the placed launch, whose streams are tiny, with the residual-code window at 1 GiB. -/
def building (discarded : Bool) : State :=
  let s := st 0
  { s with front := { s.front with launches := [{ placeLaunch with state := .building, build := some 5, lrec := { placeRecord with ctrl := 4 } }] }
           mirage := { s.mirage with inBase := 0x40000000, inSize := 0x800000, enabled := true, builds := [⟨5, 0, placeLaunch.mirKey, 0, [1], discarded⟩] } }
theorem wit_grids_and_builds :
    (WindowAt (windowed [kid 0 8] 1999) fun w => ¬(w.opened + 2000 ≤ (windowed [kid 0 8] 1999).clock.toNat ∨ w.kids.length = 4096)) ∧
    (WindowAt (windowed [kid 0 8, kid 1 0] 2000) fun w => w.opened + 2000 ≤ (windowed [kid 0 8, kid 1 0] 2000).clock.toNat ∧ (windowed [kid 0 8, kid 1 0] 2000).front.launches[w.parent]? = some placeLaunch ∧
      (windowed [kid 0 8, kid 1 0] 2000).freeTable = some 0 ∧ PlainPa (windowed [kid 0 8, kid 1 0] 2000) 0x20000 64 0x20000) ∧
    (let s := windowed [kid 0 8] 2000
     let s := { s with front := { s.front with launches := (List.range 64).map fun g => { placeLaunch with lrec := { placeRecord with icount := 1, itab := 0x20000 + 2 ^ 17 * g } } } }
     s.freeTable = none ∧ WindowAt s fun w => w.opened + 2000 ≤ s.clock.toNat) ∧
    (∃ b x, (building true).mirage.builds.find? (fun y => y.id == 5) = some b ∧ (building true).front.launches[b.launch]? = some x ∧ b.discarded = true ∧ x.state = .building ∧ x.build = some 5) ∧
    ∃ b x, (building false).mirage.builds.find? (fun y => y.id == 5) = some b ∧ (building false).front.launches[b.launch]? = some x ∧ b.discarded = false ∧ x.mirKey = b.key ∧
      (((building false).residuals x).any fun y => (building false).mirFits (y.1.bytes.length + y.2.bytes.length) &&
        (building false).mirPlace (y.1.bytes.length + y.2.bytes.length) == some 0) = true :=
  ⟨⟨_, rfl, by decide⟩, ⟨_, rfl, by decide, rfl, by decide +kernel, by decide +kernel⟩, ⟨by decide +kernel, _, rfl, by decide⟩, ⟨_, _, rfl, rfl, rfl, rfl, by decide +kernel⟩,
   _, _, rfl, rfl, rfl, rfl, by decide +kernel⟩

/-- A PREEMPT packet with core 0 in its mask, or none, its save pool at 0x20000. -/
def preemptPkt (mask : Nat) : List Byte := toBytes 5 4 ++ toBytes 0 4 ++ toBytes mask 40 ++ toBytes 0x20000 8 ++ toBytes 0x100000 8
/-- The placed block on core 0, its launch of queue 0, without a bundle. -/
def vacating (f : Queue → Queue) : State :=
  let s := enabled (ergSt 0 fun _ x => x)
  { s with bundles := [], front := { s.front with queues := [(0, cq f)] } }
theorem wit_preempt_packets :
    (∀ x ∈ [(0, []), (1, [0])], let s := vacating fun c => { c with fetched := some (preemptPkt x.1) }
      AtPacket s 0 (cq fun c => { c with fetched := some (preemptPkt x.1) }) (preemptPkt x.1) 5 ∧ s.front.vacates = [] ∧
      (((List.range s.regs.ltab.length).filter fun i => (rdN (preemptPkt x.1) 8 36).testBit i).map fun i => s.regs.ltab.getD i 0).filter (fun y =>
        s.regs.clpart.getD (y / 4) 0 == (cq id).part && !((s.cores[y]?.map (·.vacating)).getD true)) = x.2) ∧
    (let s := vacating id
     s.liveOn 0 = [0] ∧ (∀ y ∈ s.bundles, y.blk ≠ 0) ∧ ∃ k p, s.blocks[0]? = some k ∧ k.saveLen = 0 ∧ ¬ 16 ≤ (s.permits (0 / 4)).1 ∧
      16 ≤ ((jammed s).permits (0 / 4)).1 ∧ s.poolPlace 0x20000 0x100000 (k.areaSize false) = some p) := by
  refine ⟨?_, by decide, by decide, _, 0x20000, rfl, by decide, by decide, by decide, ?_⟩
  · intro x h
    simp only [List.mem_cons, List.not_mem_nil, or_false] at h
    rcases h with rfl | rfl <;> exact ⟨⟨by decide, rfl, rfl, by decide⟩, by decide, by decide +kernel⟩
  · decide +kernel

/-- A launch of a higher priority that waits since the start for a core, beside the placed block's. -/
def autoSt (clock : DWord) (f : Launch → Launch) : State :=
  let s := enabled (ergSt 0 fun _ x => x)
  { s with
    clock := clock, bundles := []
    front := { s.front with
      queues := [(0, { Queue.zero with act := { QCfg.zero with ctrl := 9, saveBase := 0x20000, saveSize := 0x100000 } }), (1, { Queue.zero with act := { QCfg.zero with pdelay := 1 } })]
      launches := s.front.launches ++ [f { placeLaunch with queue := 1, epri := 1, held := some 0, ranges := [[(0, 1)]] }] } }
def AutoAt (s : State) (P : Launch → Prop) : Prop := ∃ x, s.front.launches[1]? = some x ∧ P x
theorem wit_auto_preempt :
    (AutoAt (autoSt 1000 fun x => { x with held := none }) fun x => x.held = none) ∧
    (AutoAt (autoSt 999 id) fun x => x.held = some 0 ∧ (autoSt 999 id).clock.toNat < 0 + 1000 * ((autoSt 999 id).queue x.queue).act.pdelay.toNat) ∧
    AutoAt (autoSt 1000 id) fun x => x.held = some 0 ∧ ((autoSt 1000 id).queue x.queue).act.pdelay.toNat = 1 ∧ 0 + 1000 * 1 ≤ (autoSt 1000 id).clock.toNat ∧ x.state = .dealing ∧ 0 < x.undealt ∧
      ((List.range 288).filter fun c => (autoSt 1000 id).eligible c x) = [0] ∧ (autoSt 1000 id).liveOn 0 = [0] ∧ (∀ y ∈ (autoSt 1000 id).bundles, y.blk ≠ 0) ∧
      ¬ 16 ≤ ((autoSt 1000 id).permits (0 / 4)).1 ∧ ∃ k p, (autoSt 1000 id).blocks[0]? = some k ∧ k.saveLen = 0 ∧
        (autoSt 1000 id).poolPlace ((autoSt 1000 id).queuePool 0).1 ((autoSt 1000 id).queuePool 0).2 (k.areaSize false) = some p :=
  ⟨⟨_, rfl, rfl⟩, ⟨_, rfl, rfl, by decide⟩, _, rfl, rfl, by decide, by decide, rfl, by decide, by decide +kernel, by decide, by decide, by decide, _, 0x20000, rfl, by decide, by decide +kernel⟩

/-- The placed block on core 0, which is being vacated, with its save area. -/
def savingSt (f : Thread → Thread) (g : Block → Block) : State :=
  let s := ergSt 0 fun i x => if i = 0 then f x else x
  let s := onBlock { s with bundles := [] } fun k => g { k with saveAddr := 0x20000, saveLen := k.areaSize false, seq := Seq.idle }
  onCore (onFront (fun x => { x with vacates := [⟨none, [0], 0, 0, 0, false⟩] }) (enabled s)) fun c => { c with vacating := true }
theorem wit_preempt_save :
    (let s := savingSt id id
     ∃ k v, s.resident? 0 = some k ∧ (∀ y ∈ s.bundles, y.blk ≠ 0) ∧ s.vacateOf k.core = some v ∧ s.quiesced 0 k = true ∧ (s.permits (k.core / 4)).2 < 16 ∧ 16 ≤ ((jammed s).permits (k.core / 4)).2 ∧ PlainPa s k.saveAddr (s.saveBytes k (v.keep && k.accMask != 0)).length 0x20000) ∧
    (let s := savingSt id fun k => { k with colls := [⟨5, 0, 0, 8, some 15, 0, 2, 0, 0, 0x20100, 0x20200, 1, 0, none⟩] }
     ∃ k v, s.resident? 0 = some k ∧ (∀ y ∈ s.bundles, y.blk ≠ 0) ∧ s.vacateOf k.core = some v ∧ s.quiesced 0 k = false) ∧
    (∃ k, (vacating id).resident? 0 = some k ∧ (vacating id).vacateOf k.core = none) := by
  refine ⟨⟨_, _, rfl, by decide, rfl, by decide +kernel, by decide, by decide, ?_⟩, ⟨_, _, rfl, by decide, rfl, by decide⟩, _, rfl, by decide⟩
  exact plain_low (by decide) rfl rfl (by decide +kernel)

/-- A saved block, its area at 0x20000 in a package that may resume it. -/
def savedSt : State :=
  let s := onCore (savingSt id fun k => { k with place := .saved }) fun c => { c with vacating := false }
  { s with homes := { s.homes with mem := Memory.put (Memory.put s.homes.mem 0x20048 (toBytes 0x140 8)) 0x20080 (toBytes 0x2000 8) } }
/-- The same beside a launch of a higher priority with a ticket for any core. -/
def outrankedSt : State := onFront (fun x => { x with launches := x.launches ++ [{ placeLaunch with epri := 1, ranges := List.replicate 7 [] ++ [[(0, 1)]] }] }) savedSt
theorem wit_block_resume :
    (∃ k l, savedSt.blocks[0]? = some k ∧ savedSt.launch? k = some l ∧ savedSt.regs.enable = true ∧ savedSt.fitsSaved 287 0 = true ∧ savedSt.outranked 287 k = false ∧ savedSt.farCode k true = none ∧
      PlainPa savedSt k.saveAddr k.saveLen 0x20000 ∧ 0x140 ≤ k.saveLen ∧ Memory.read savedSt.homes.mem (0x20000 + 0x48) 8 + 1024 ≤ k.saveLen ∧
      Memory.read savedSt.homes.mem (0x20000 + 0x80) 8 + k.spadBytes ≤ k.saveLen ∧ k.place = .saved) ∧
    ((savingSt id id).fitsSaved 287 0 = false ∧ (∃ k, (savingSt id id).blocks[0]? = some k ∧ k.place ≠ .saved) ∧
      ∃ k, outrankedSt.blocks[0]? = some k ∧ outrankedSt.outranked 287 k = true) := by
  refine ⟨⟨_, _, rfl, rfl, rfl, by decide +kernel, by decide +kernel, by decide, plain_low (by decide) rfl rfl (by decide +kernel), by decide +kernel⟩, by decide, ⟨_, rfl, by decide⟩, _, rfl, by decide +kernel⟩

def savedThread (st : TStatus) : Thread := { th0 with v := [1, 2], status := st, udst := 0xFFFF, stores := [⟨2 ^ 64 - 1, .s8, .gen, true, 9, 0⟩] }
theorem wit_save_round_trip :
    (∀ t ∈ [savedThread (.ready false), savedThread (.parked (.replay 5)), savedThread (.parked (.sleep (2 ^ 64 - 1))), savedThread (.parked (.barrier 15 true))],
      t.status ≠ .exited ∧ t.v.length < 65536 ∧ t.stores.length < 256 ∧ t.udst.toNat < 65536 ∧ ∀ x ∈ t.stores, x.addr < 2 ^ 64) ∧
    (∀ x ∈ [(⟨none, 65535, true, 5⟩ : Barrier), ⟨some 65534, 0, false, 5⟩], x.arrived < 65536 ∧ ∀ n, x.expected = some n → n < 65535) ∧
    let c : Carve := ⟨true, 2 ^ 32 - 1, 65535, 65535, 65535, true, 3, true, 1, 2, 3⟩
    c.carved = true ∧ c.offset < 2 ^ 32 ∧ c.cap < 65536 ∧ c.head < 65536 ∧ c.count < 65536 ∧ c.width < 4 := by
  refine ⟨by decide, ?_, by decide⟩
  intro x h
  simp only [List.mem_cons, List.not_mem_nil, or_false] at h
  rcases h with rfl | rfl
  · exact ⟨by decide, fun n e => nomatch e⟩
  · exact ⟨by decide, fun n e => by cases e; decide⟩

/-! ### Witnesses: the package's registers and resets -/

def route (p : Nat) (v : DWord) (f : List Remote) (s : State) : State := { s with regs := { s.regs with routes := [(0, 0x02000000), (p, v)] }, homes := { s.homes with remotes := f } }
def asked (pkg : Nat) : Remote := ⟨1, [9, 0], pkg, 3, .read 5 0x20000 8 none, none, false, false, 0, true⟩
theorem wit_package_control :
    ((∀ e, e < 16 → (0x53924924 : DWord).toNat / 2 ^ (3 * e) % 8 ≤ 4) ∧ 7 < rs.regs.ramps.length ∧ ∃ e, e < 16 ∧ 4 < (0xA00000000000 : DWord).toNat / 2 ^ (3 * e) % 8) ∧
    ((0x02000000 : DWord).getLsbD 25 = true ∧ (∃ r ∈ rs.regs.routes, r.1 ≠ 1023 ∧ r.2.getLsbD 25 = true) ∧ ¬ ∃ r ∈ rs.regs.routes, r.1 ≠ 0 ∧ r.2.getLsbD 25 = true) ∧
    (let s := route 1023 0x01000001 [asked 1023] rs
     (s.route 1023).getLsbD 24 = true ∧ ∃ r ∈ s.homes.remotes, r.pkg = 1023 ∧ r.answer = none ∧ r.lost = false) ∧
    ((rs.route 1023).getLsbD 24 = false ∧ (0x01000001 : DWord).getLsbD 25 = false) ∧
    (let s := { rs with mirage := { rs.mirage with entries := [⟨7, [], 5, [], ⟨[], [], []⟩, ⟨[], [], []⟩, 0, 0, 0, false⟩, ⟨8, [], 6, [], ⟨[], [], []⟩, ⟨[], [], []⟩, 0, 0, 0, false⟩] } }
     ∃ e ∈ s.mirage.entries, (5 : DWord) ≠ 0 ∧ e.objid ≠ 5 ∧ e.dropped = false) ∧
    (let s := { rs with ports := rs.ports.set 23 { Port.reset with down := true, rx := 9 } }
     ∃ p, s.ports[23]? = some p ∧ p.down = true ∧ (0 : Word).getLsbD 23 = false) :=
  ⟨⟨by decide, by decide, 15, by decide, by decide⟩, by decide, ⟨by decide, by decide⟩, by decide, ⟨_, List.mem_cons_of_mem _ (List.mem_cons_self ..), by decide, by decide, rfl⟩, _, rfl, by decide⟩

def vfSt : State := onRegs (fun r => { r with qpart := [(5, 8), (4095, 8)], apbase := 0x05FFFFFFF00 }) rs
theorem wit_host_accesses :
    rs.regs.bootstat = 1 ∧
    (∀ x ∈ [(0x100, 8, Reg.apbase), (0x10028, 4, .faqsize)], ∃ r, r.reg = x.2.2 ∧ r.base = x.1 ∧ r.len = x.2.1 ∧ ∀ i, i < x.2.1 → regAt (x.1 + i) = some r) ∧
    (∀ i, i < 8 → regAt (0x50000 + i) = none) ∧
    (vfSt.regs.bootstat = 1 ∧ (∀ i, i < 256 → vfSt.regs.apbase.toNat + 0 + i < 0x06000000000 ∧ vfSt.migOf (vfSt.regs.apbase.toNat + 0 + i) = none ∧ vfSt.poisoned (vfSt.regs.apbase.toNat + 0 + i) = false) ∧
      0x06000000000 ≤ vfSt.regs.apbase.toNat + 256) ∧
    (vfSt.vfQueue (8 : Fin 9).val 1 = some 4095 ∧ 1 < 4096 ∧ 248 + 8 ≤ 256) ∧ (∀ n, n < 5 → (rs.regs.ecc[n]?).isSome = true) ∧
    (∃ k core, rs.regs.ltab[287]? = some k ∧ rs.cores[k]? = some core) ∧ 2047 < msixRows 0 ∧ 255 < msixRows 8 := by
  refine ⟨rfl, ?_, by decide, ⟨rfl, by decide +kernel, by decide⟩, by decide, by decide, ⟨_, _, rfl, rfl⟩, by decide, by decide⟩
  intro x h
  simp only [List.mem_cons, List.not_mem_nil, or_false] at h
  rcases h with rfl | rfl
  · exact ⟨⟨.apbase, 0x100, 8⟩, rfl, rfl, rfl, by decide⟩
  · exact ⟨⟨.faqsize, 0x10028, 4⟩, rfl, rfl, rfl, by decide⟩

/-- Queue 0, which the placed block belongs to, in a stage of its reset. -/
def resetting (n : Nat) (s : State) : State := { s with front := { s.front with queues := [(0, cq fun c => { c with reset := n })] } }
theorem wit_resets :
    ((resetting 1 (st 0)).queue 0).reset = 1 ∧
    (let s := resetting 0 (st 0)
     (s.queue 0).reset ≠ 1 ∧ (∃ l, s.front.launches[0]? = some l ∧ l.queue = 0 ∧ l.state = .dealing) ∧ ∃ k, s.blocks[0]? = some k ∧ (s.launch? k).map (·.queue) = some 0 ∧ k.place = .live ∧
      (s.launch? k).map (·.queue) ≠ some 1) ∧
    (∃ k, savedSt.blocks[0]? = some k ∧ (savedSt.launch? k).map (·.queue) = some 0 ∧ k.place = .saved ∧ (savedSt.queue 0).reset ≠ 1) ∧
    (let s := resetting 1 (asking 0x400 .store .gen [part 4 none])
     ∃ k, s.resident? 0 = some k ∧ (s.launch? k).map (·.queue) = some 0 ∧ s.writesOut 0 = true) ∧
    (let s := resetting 1 (st 0)
     s.liveOf 0 = [0] ∧ (∀ b ∈ s.liveOf 0, s.resetDone b = true) ∧ s.farWrite (s.whoQueue 0) = false) ∧
    (let s := resetting 1 (st 0)
     { s with homes := { s.homes with remotes := [⟨1, [6, 0, 0], 1, 0, .write 5 0x20000 [7] none none, none, false, false, 0, true⟩] } }.farWrite (s.whoQueue 0) = true) ∧
    (vfSt.queuePart 4095 = 8 ∧ vfSt.queuePart 0 ≠ 8) ∧
    (let on := fun (s : State) => (List.range 288).filter fun c => s.fuse.getD c false && !s.ageing.dcfgmap.getD c false
     224 ≤ (on rs).length ∧ (on { rs with fuse := List.replicate 223 true }).length < 224) :=
  ⟨by decide, ⟨by decide, ⟨_, rfl, rfl, rfl⟩, _, rfl, by decide⟩, ⟨_, rfl, by decide⟩, ⟨_, rfl, by decide⟩, by decide, by decide, by decide, by decide +kernel⟩

/-! ### Witnesses: links, attestation, power and rebuild -/

/-- Port 23 in a state, whose clock reads 2,000. -/
def linked (p : Port) : State := { rs with ports := rs.ports.set 23 p, clock := 2000 }
def fl (seq : BitVec 12) (ps : List LinkPacket) : Flit := .make seq 1 0 false ps
def PortAt (p : Port) (P : State → Prop) : Prop := (linked p).ports[(23 : Fin 24).val]? = some p ∧ P (linked p)
/-- A COLL of the placed block, of group 7 and rank 3, that an unacknowledged flit tells another package. -/
def collLost : State :=
  { st 0 with clock := 2000, ports := rs.ports.set 23 { Port.reset with unack := [fl 0 [.collJoin 7 3 2 0 0 8 0 1 []]], tries := 15 }
              coll := ⟨[⟨7, 3, 0, 2, 0, 0, 8, 0, 1, [], some (0, 5), false⟩], []⟩ }
theorem wit_link_flits :
    (PortAt { Port.reset with down := true } fun _ => { Port.reset with down := true }.down = true) ∧
    (PortAt Port.reset fun _ => Port.reset.down = false ∧ (∃ f : Flit, f.good = false)) ∧
    (PortAt { Port.reset with unack := [fl 0 [], fl 1 []] } fun _ => (fl 0 []).good = true ∧ (fl 0 []).nak = false ∧ (fl 0 []).packets = []) ∧
    (PortAt { Port.reset with rx := 5 } fun _ => (fl 4 [.read 1 0 4 none]).seq ≠ 5) ∧
    (PortAt { Port.reset with rx := 5, unack := List.replicate 510 (fl 9 []) } fun s => (fl 5 [.read 1 0x05FFFFFFFFC 4 none]).seq = 5 ∧ (List.replicate 510 (fl 9 [])).length ≤ 510 ∧
      (fl 5 [.read 1 0x05FFFFFFFFC 4 none]).packets = [.read 1 0x05FFFFFFFFC 4 none] ∧
      (∀ i, i < 4 → 0x05FFFFFFFFC + i < 0x06000000000 ∧ s.migOf (0x05FFFFFFFFC + i) = none ∧ s.poisoned (0x05FFFFFFFFC + i) = false) ∧
      (fl 5 [.write 1 0 [7] none none]).packets = [.write 1 0 [7] none none] ∧ s.migOf 0 = none ∧ (fl 5 [.answer 1 [7] false 6]).packets = [.answer 1 [7] false 6] ∧
      s.regs.routeNext = [] ∧ ∀ r ∈ s.homes.remotes, r.rid = 1 → ∀ x, r.who.head? = some x → 2 ≤ x) ∧
    (PortAt { Port.reset with unack := [fl 0 []], tries := 14 } fun s => [fl 0 []] ≠ [] ∧ 14 + 1 < 16 ∧ Port.reset.sentAt + 2000 ≤ s.clock.toNat) ∧
    (PortAt { Port.reset with sentAt := 1 } fun s => s.clock.toNat < 1 + 2000) ∧
    (PortAt { Port.reset with unack := [fl 0 []], tries := 15 } fun s => 16 ≤ 15 + 1 ∧ s.power.msi < 2048 ∧ s.regs.routeNext = [] ∧ s.collsAt 23 = []) ∧
    (let s := { linked { Port.reset with unack := [fl 0 []], tries := 15 } with regs := { rs.regs with msix := [(0, ⟨0x1000, 5, false, false⟩)] } }
     s.power.msi = 0 ∧ (s.vector 0).mask = false) ∧
    (∃ p k j, collLost.ports[23]? = some p ∧ p.down = false ∧ 16 ≤ p.tries + 1 ∧ p.sentAt + 2000 ≤ collLost.clock.toNat ∧ collLost.blocks[0]? = some k ∧ k.halt = none ∧
      j ∈ collLost.coll.joins ∧ j.owner = some (0, 5) ∧ j.fin = false ∧ ∃ f ∈ p.unack, ∃ x ∈ f.packets, x = .collJoin 7 j.rank 2 0 0 8 0 1 [] ∧ (7 : DWord).toNat = j.group) :=
  ⟨⟨rfl, rfl⟩, ⟨rfl, rfl, ⟨1, 1, 0, false, (crc64 (flitBytes 1 1 0 false [])) + 1, []⟩, by simp [Flit.good]⟩, ⟨rfl, Flit.make_good .., rfl, rfl⟩, ⟨rfl, by decide⟩,
   ⟨rfl, rfl, by decide, rfl, by decide, rfl, by decide, rfl, rfl, by decide⟩, ⟨rfl, by simp, by decide, by decide⟩, ⟨rfl, by decide⟩, ⟨rfl, by decide, by decide, rfl, rfl⟩,
   by decide, _, _, _, rfl, rfl, by decide, by decide, rfl, rfl, .head _, rfl, rfl, _, .head _, _, .head _, rfl, by decide⟩

def booted (is : List Image) (s : State) : State := { s with boot := { s.boot with images := is } }
theorem wit_attestation :
    ({ rs with regs := { rs.regs with bootstat := 2 } }.regs.bootstat ≠ 1) ∧ (rs.regs.bootstat = 1 ∧ (st 0).regs.bootstat = 1 ∧ (st 0).boot = rs.boot ∧ (st 0).fuse = rs.fuse ∧
      (st 0).ageing.dcfgmap = rs.ageing.dcfgmap ∧ (st 0).ageing.rows.map (·.2.1) = rs.ageing.rows.map (·.2.1)) ∧ (booted [⟨2, [1], [], [3]⟩] rs).boot.images[0]? = some ⟨2, [1], [], [3]⟩ :=
  ⟨by decide, by decide, rfl⟩

def powered (f : Power → Power) : State := { st 0 with power := f State.reset.power }
theorem wit_power_control :
    ((powered fun p => { p with fwctl := true }).power.fwctl = true ∧ (powered fun p => { p with wdogged := true }).power.wdogged = true ∧ (powered id).power.fwctl = false ∧ (powered id).power.wdogged = false) ∧
    ((∃ f, (powered id).power.freq[71]? = some f) ∧ (∃ l, (powered id).power.limit[71]? = some l) ∧ (powered id).power.asleep.getD 71 false = false ∧ (∃ f, (powered id).power.floors[0]? = some f) ∧
      ∃ m gb w, (powered id).ageing.rows[71]? = some (m, gb, w)) ∧
    ((powered fun p => { p with cap := 500 }).power.cap ≠ 0 ∧ min 2600 (powered fun p => { p with cap := 500 }).power.cap.toNat < 501 % 2 ^ 32) ∧
    ((powered id).clock.toNat < (powered id).power.written + 10000000 ∧ { powered id with clock := 10000000 }.power.written + 10000000 ≤ { powered id with clock := 10000000 }.clock.toNat) ∧
    ((∃ k ∈ (powered id).blocks, k.place = .live ∧ k.core / 4 = 0) ∧ ¬ (∃ k ∈ (powered id).blocks, k.place = .live ∧ k.core / 4 = 71)) ∧
    ((powered fun p => { p with sleep := p.sleep.set 71 true }).power.sleep.getD 71 false = true ∧ (powered id).power.sleep.getD 71 false = false ∧
      (powered fun p => { p with poolNext := p.poolNext.set 71 1 }).power.poolNext.getD 71 0 ≠ (powered id).power.pool.getD 71 0) ∧
    (let s := { powered id with regs := { rs.regs with clpartNext := rs.regs.clpartNext.set 71 3 } }
     s.regs.clpartNext.getD 71 0 ≠ s.regs.clpart.getD 71 0) ∧
    ((288 : DWord).toNat % 512 = 288 ∧ (287 + 0x200 : DWord).toNat % 512 < 288 ∧ (0x400 : DWord).toNat % 512 < 288 ∧ ∃ b, (powered id).ageing.dcfgmap[287]? = some b) := by
  refine ⟨by decide, ⟨⟨_, rfl⟩, ⟨_, rfl⟩, by decide, ⟨_, rfl⟩, _, _, _, rfl⟩, by decide, by decide, by decide, by decide, by decide, ?_⟩
  exact ⟨by decide, by decide, by decide, _, rfl⟩

/-- A stripe of two data members and P, its units at 0x30000, 0x31000 and 0x32000, with the members in a mask lost. -/
def member (role slot man : Nat) : List Byte :=
  toBytes 0 2 ++ toBytes role 1 ++ List.replicate 5 0 ++ toBytes slot 8 ++ toBytes 32 8 ++ List.replicate 8 0 ++ toBytes man 8 ++ List.replicate 24 0
def stripe (k lost step : Nat) : List Byte :=
  toBytes k 1 ++ toBytes 1 1 ++ toBytes lost 2 ++ toBytes 32 4 ++ toBytes 1 4 ++ toBytes step 4 ++ toBytes 256 8 ++ List.replicate 40 0 ++
    member 0 0x30000 (if lost % 2 = 1 then 0 else 0x40080) ++ member 1 0x31000 (if lost / 2 % 2 = 1 then 0 else 0x40000) ++ member 0x80 0x32000 0x40040
/-- Its descriptor at 0x20000, and the manifests of two survivors, of step 7. -/
def stripeSt (k lost step : Nat) : State :=
  let s := put 0x40000 [0, 0, 0, 0, 1, 0, 0, 0, 7] (put 0x40040 [0, 0, 0, 0, 1, 0, 0, 0, 7] (put 0x20000 (stripe k lost step) rs))
  { s with rebuild := { s.rebuild with desc := 0x20000 } }
def alive (bs : List Byte) : List Nat := (List.range (planK bs + planM bs)).filter fun i => !planLost bs i
def StripeAt (s : State) (P : List Byte → Prop) : Prop :=
  PlainPa s s.rebuild.desc.toNat 64 0x20000 ∧ planHeadOk (Memory.bytes s.homes.mem 0x20000 64) = true ∧ PlainPa s s.rebuild.desc.toNat 256 0x20000 ∧
    planSize (Memory.bytes s.homes.mem 0x20000 64) = 256 ∧ P (Memory.bytes s.homes.mem 0x20000 256)
/-- A run that has reached the one unit of the stripe, or has done it. -/
def rebuilding (done : DWord) : State := { rs with rebuild := { rs.rebuild with stat := 1, plan := stripe 2 1 7, chosen := [1, 2], done := done } }
theorem wit_rebuild_run :
    (rs.rebuild.stat ≠ 1 ∧ (rebuilding 0).rebuild.stat = 1 ∧ (rebuilding 0).rebuild.plan ≠ [] ∧ planUnits (rebuilding 1).rebuild.plan ≤ (rebuilding 1).rebuild.done.toNat ∧
      (rebuilding 0).rebuild.done.toNat < planUnits (rebuilding 0).rebuild.plan ∧ (0 : Word).getLsbD 0 = false ∧ (1 : Word).getLsbD 0 = true) ∧
    planHeadOk (Memory.bytes (stripeSt 0 1 7).homes.mem 0x20000 64) = false ∧
    (StripeAt (stripeSt 2 9 7) fun bs => planOk bs = false) ∧
    (StripeAt (stripeSt 2 3 7) fun bs => planOk bs = true ∧ (alive bs).length < planK bs) ∧
    (StripeAt (stripeSt 2 1 8) fun bs => planOk bs = true ∧ planK bs ≤ (alive bs).length ∧ ∀ i ∈ alive bs, PlainPa (stripeSt 2 1 8) (planMember bs i).man 64 (planMember bs i).man ∧
      Memory.read (stripeSt 2 1 8).homes.mem ((planMember bs i).man + 8) 4 ≠ planStep bs) ∧
    (StripeAt (stripeSt 2 1 7) fun bs => planOk bs = true ∧ planK bs ≤ (alive bs).length ∧ ∀ i ∈ alive bs, PlainPa (stripeSt 2 1 7) (planMember bs i).man 64 (planMember bs i).man ∧
      Memory.read (stripeSt 2 1 7).homes.mem ((planMember bs i).man + 4) 1 = 1 ∧ Memory.read (stripeSt 2 1 7).homes.mem ((planMember bs i).man + 8) 4 = planStep bs) ∧
    (let s := rebuilding 0
     let bs := s.rebuild.plan
     0 < planUnit bs ∧ ((List.range (planK bs + planM bs)).filter (planLost bs)) = [0] ∧ (planMember bs 0).live = 0 ∧
      (∀ i ∈ s.rebuild.chosen, PlainPa s ((planMember bs i).slot + 0 * (planMember bs i).stride) (planUnit bs) (planMember bs i).slot) ∧
      PlainPa s ((planMember bs 0).slot + 0 * (planMember bs 0).stride) (planUnit bs) 0x30000) ∧
    (let data := [255, 1, 0, 7]
     let roles := [0, 0x81, 0x80, 2]
     data.length ≤ 14 ∧ (∀ d ∈ data, d < 256) ∧ roles.Nodup ∧ roles.length = data.length ∧ ∀ r ∈ roles, r < data.length ∨ r = 0x80 ∨ r = 0x81) :=
  ⟨by decide, by decide, ⟨by decide +kernel, by decide +kernel, by decide +kernel, by decide, by decide +kernel⟩, ⟨by decide +kernel, by decide +kernel, by decide +kernel, by decide, by decide +kernel⟩,
   ⟨by decide +kernel, by decide +kernel, by decide +kernel, by decide, by decide +kernel⟩, ⟨by decide +kernel, by decide +kernel, by decide +kernel, by decide, by decide +kernel⟩, by decide +kernel, by decide⟩

/-! ### Witnesses: the package as a whole -/

theorem wit_step_runs_decoded :
    (let s := rs.withFetchWord 64 0x0000005001003001
     s.power.stopped = false ∧ s.regs.bootstat = 1 ∧ s.agenda = .bundle 0 :: [] ∧ s.bundles.find? (fun b => b.id == 0) = some bd ∧ s.mayIssue bd = true ∧
      s.blocks[bd.blk]? = some bk ∧ s.farCode bk true = none ∧ s.fetchWord bk true bd.pc = .ok 0x0000005001003001 ∧ ∃ i, decode 0x0000005001003001 = .ok i) ∧
    (let s := rs.withFetchWord 64 0x00000007003400D0
     s.agenda = .sequencer 0 :: [] ∧ s.resident? 0 = some (sk id) ∧ s.seqMoves 0 (sk id) = true ∧ s.farCode (sk id) false = none ∧ (sk id).seq.idx ≠ 0 ∧
      s.fetchWord (sk id) false (sk id).seq.pc = .ok 0x00000007003400D0 ∧ decode 0x00000007003400D0 = .ok (.kloop 13 7)) ∧
    { rs with agenda := [.event .watchdog] }.agenda = .event .watchdog :: [] := by
  refine ⟨⟨rfl, rfl, rfl, by decide, by decide, rfl, rfl, by decide, ?_⟩, ⟨rfl, rfl, by decide, rfl, by decide, by decide, rfl⟩, rfl⟩
  exact ⟨_, by rfl⟩

theorem wit_encode_decode :
    (Instr.kloop 13 7).wf = true ∧ (Instr.kloop 13 7).isWord = true ∧ decode 0x00000007003400D0 = .ok (.kloop 13 7) := ⟨by decide, rfl, rfl⟩

theorem wit_step_keeps_invariant : (rs.withFetchWord 64 0x00000007003400D0).Inv ∧ ∃ t, step (rs.withFetchWord 64 0x00000007003400D0) = .next t := 
  ⟨⟨by decide +kernel, by decide, by decide⟩, _, rfl⟩

/-! ### Witnesses: the clauses beside the main ones, of traps and memory to the rebuild -/

theorem wit_bad_targets : Whole (st 0) bd bk ∧ ¬ bd.idx < bd.last ∧ bk.halt = none ∧
    (∃ tid ∈ bd.lanes, (st 0).targetOk bk true (if tid ∈ (st 0).active bd 0 then bd.hdr + 8 * (0x7FFFFFF : BitVec 28).signExtend 64 else bd.hdr + 16) = false) ∧
    (st 0).outOfBounds bd ⟨0, [(.k 2, 2)], [], .none, false, false⟩ = [] ∧ (st 0).outOfBounds bd ⟨0, [], [], .reg .vz 2, false, false⟩ = [] ∧
    (∃ tid ∈ bd.lanes, (st 0).targetOk bk true (if tid ∈ (st 0).active bd 0 then 0 else bd.hdr + 16) = false) := by decide

/-- The trap of the one lane at UTVEC `u`, in a bundle `b`. -/
def TrapEntryAt (u : DWord) (b : Bundle) (P : State → Block → Prop) : Prop :=
  let f := fun th => { trapping th with utvec := u, opening := false }
  let s := { st1 0 f with bundles := [b] }
  ∃ o g k s1, floatLane (.frcp 0 (.v 2) ⟨.v 0 .ident, false, false⟩) = some (o, g) ∧ o.traps = true ∧ Runs s b k ∧ o.usesQ = false ∧ s.outOfBounds b o = [] ∧
    s.active b o.guard = [0] ∧ s.thread? 0 0 = some (f th0) ∧ (outOf b k o (·.map g) 0).fault = none ∧ trapCause (outOf b k o (·.map g) 0).flags (f th0).flags ≠ 0 ∧
    (s.modThread 0 0 fun t => { t with pend := t.pend ||| (outOf b k o (·.map g) 0).flags }).commitRegion 0 0 b.pc = (s1, true) ∧ P s1 k
theorem wit_user_trap_ends :
    (TrapEntryAt 0 bd1 fun _ k => k.halt = none ∧ GoesOn (st1 0 id) bd1 k) ∧
    (TrapEntryAt 0x10100 { bd1 with meet := true, idx := 1, last := 3 } fun _ _ => ({ bd1 with meet := true, last := 3 } : Bundle).meet = true) ∧
    (let s := st1 0xB9 quiet
     ∃ k th, Runs s bd1 k ∧ k.halt = none ∧ GoesOn s bd1 k ∧ s.active bd1 0 = [0] ∧ s.thread? 0 0 = some th ∧
       s.outOfBounds bd1 ⟨0, utretSrcs .plain, [], .none, false, false⟩ = [] ∧ th.intrap = false) ∧
    (let s := st1 0xB9 (trapped 63 0)
     ∃ k th, Runs s bd1 k ∧ k.halt = none ∧ GoesOn s bd1 k ∧ s.active bd1 0 = [0] ∧ s.thread? 0 0 = some th ∧ th.intrap = true ∧
       s.outOfBounds bd1 ⟨0, utretSrcs (.substW64 (.v 62 .ident)), [], .none, false, false⟩ = [] ∧ substWords (.substW64 (.v 62 .ident)) = 2 ∧ th.udst.getLsbD 0 = true) ∧
    (let s := st1 0xB9 fun th => { trapped 63 0 th with uepc := 0x30000 }
     ∃ k th, Runs s bd1 k ∧ k.halt = none ∧ GoesOn s bd1 k ∧ s.active bd1 0 = [0] ∧ s.thread? 0 0 = some th ∧ th.intrap = true ∧
       s.outOfBounds bd1 ⟨0, utretSrcs .retry, [], .none, false, false⟩ = [] ∧ s.clauseOf k true th.uepc = none) :=
  ⟨⟨_, _, _, _, rfl, rfl, ⟨by decide, rfl, by decide⟩, by decide, by decide, by decide, rfl, by decide, by decide, rfl, by decide⟩,
   ⟨_, _, _, _, rfl, rfl, ⟨by decide, rfl, by decide⟩, by decide, by decide, by decide, rfl, by decide, by decide, rfl, by decide⟩,
   ⟨_, _, ⟨by decide, rfl, by decide⟩, by decide, by decide, by decide, rfl, by decide⟩, ⟨_, _, ⟨by decide, rfl, by decide⟩, by decide, by decide, by decide, rfl, by decide⟩,
   ⟨_, _, ⟨by decide, rfl, by decide⟩, by decide, by decide, by decide, rfl, by decide⟩⟩

/-- The page of 0x20000 names the device registers of the package. -/
def device (s : State) : State := onCore s fun c => { c with tlb := [⟨15, 0x20000, 16, 0x08000000000, true, false⟩] }
/-- Block 0 holds queue 15. -/
def withQ (c : Carve) (s : State) : State := onBlock s (setQ 15 c)
theorem wit_stores_at_limits :
    (∃ o f n size sts, storeForm (.st 0 (.v 63) (mf .s8 .gen .rlx)) = some (o, f, n, size, sts) ∧
      MemAt (onBlock (atAddr 0x2FFFF id) fun k => { k with threads := k.threads ++ List.replicate 64 { th0 with status := .exited, stores := List.replicate 32 ⟨0x20000, .s8, .gen, false, 7, 0⟩ } }) o
        fun s1 k th => s1.memTgt 0 k o (o.ea k th) = .mem 0x2FFFF false ∧ f.order = .rlx ∧ th.stores.length < 32 ∧ 2048 ≤ s1.bufUsed k.core ∧
          ∃ th2, ((s1.reached k (o.ea k th) (.mem 0x2FFFF false)).commitRegion 0 0 bd1.pc).2 = true ∧
            ((s1.reached k (o.ea k th) (.mem 0x2FFFF false)).commitRegion 0 0 bd1.pc).1.thread? 0 0 = some th2) ∧
    (∃ o f n size sts, storeForm (.st 0 (.v 62) (mf .s64 .gen .rlx)) = some (o, f, n, size, sts) ∧
      MemAt (device (atAddr 0x2FFF8 id)) o fun s1 k th => s1.memTgt 0 k o (o.ea k th) = .mmio 0x0800000FFF8 ∧
        ∃ th2, ((s1.reached k (o.ea k th) (.mmio 0x0800000FFF8)).commitRegion 0 0 bd1.pc).2 = true ∧
            ((s1.reached k (o.ea k th) (.mmio 0x0800000FFF8)).commitRegion 0 0 bd1.pc).1.thread? 0 0 = some th2) ∧
    (∃ o f dst own, loadForm (.ld 0 (.v 62) (mf .s64 .gen .acq)) = some (o, f, dst, own) ∧
      MemAt (device (atAddr 0x20000 id)) o fun s1 k th => s1.memTgt 0 k o (o.ea k th) = .mmio 0x08000000000 ∧ o.single = true) :=
  ⟨⟨_, _, _, _, _, rfl, _, _, _, ⟨by decide, rfl, ⟨by decide, rfl, by decide⟩, by decide, by decide, rfl, by decide⟩, by decide, by decide, by decide, by decide +kernel, _, by decide +kernel, rfl⟩,
   ⟨_, _, _, _, _, rfl, _, _, _, ⟨by decide, rfl, ⟨by decide, rfl, by decide⟩, by decide, by decide, rfl, by decide⟩, by decide, _, by decide, rfl⟩,
   ⟨_, _, _, _, rfl, _, _, _, ⟨by decide, rfl, ⟨by decide, rfl, by decide⟩, by decide, by decide, rfl, by decide⟩, by decide⟩⟩

theorem wit_stores_from_queues :
    (∃ o f n size, storeQForm (.st 0 (.q 15) (mf .s32 .gen .rlx)) = some (o, f, n, size) ∧
      (MemAt (withQ (carve 1 false) (atAddr 0x2FFFC id)) o fun s1 k th => s1.memTgt 0 k o (o.ea k th) = .mem 0x2FFFC false ∧
        k.queueFault (popOne n 1) false = none ∧ k.queueWait (popOne n 1) 1 = none) ∧
      (MemAt (withQ (carve 0 false) (atAddr 0x2FFFC id)) o fun s1 k th => s1.memTgt 0 k o (o.ea k th) = .mem 0x2FFFC false ∧
        k.queueFault (popOne n 1) false = none ∧ k.queueWait (popOne n 1) 1 = some 15) ∧
      (MemAt (atAddr 0x2FFFC id) o fun s1 k th => s1.memTgt 0 k o (o.ea k th) = .mem 0x2FFFC false ∧ k.queueFault (popOne n 1) false = some 0x15 ∧ k.halt = none ∧
        GoesOn (s1.reached k (o.ea k th) (.mem 0x2FFFC false)) bd1 k)) ∧
    (∃ op g d m, atomForm (.atomAdd 0 (.v 63) ⟨0, .s32, 0, .die, .rlx, .q 15⟩) = some (op, g, d, m) ∧ m.opnd = .q 15 ∧
      (MemAt (withQ (carve 1 false) (atAddr 0x20000 id)) (atomMem op g d m) fun s1 k th =>
        s1.memTgt 0 k (atomMem op g d m) (BitVec.ofNat 64 (th.regW m.addr.val 2)).toNat = .mem 0x20000 false ∧
        k.queueFault (popOne 15 1) false = none ∧ k.queueWait (popOne 15 1) 1 = none) ∧
      (MemAt (withQ (carve 0 false) (atAddr 0x20000 id)) (atomMem op g d m) fun s1 k th =>
        s1.memTgt 0 k (atomMem op g d m) (BitVec.ofNat 64 (th.regW m.addr.val 2)).toNat = .mem 0x20000 false ∧
        k.queueFault (popOne 15 1) false = none ∧ k.queueWait (popOne 15 1) 1 = some 15) ∧
      (MemAt (atAddr 0x20000 id) (atomMem op g d m) fun s1 k th =>
        s1.memTgt 0 k (atomMem op g d m) (BitVec.ofNat 64 (th.regW m.addr.val 2)).toNat = .mem 0x20000 false ∧
        k.queueFault (popOne 15 1) false = some 0x15 ∧ k.halt = none ∧ GoesOn (s1.reached k 0x20000 (.mem 0x20000 false)) bd1 k)) :=
  ⟨⟨_, _, _, _, rfl, ⟨_, _, _, ⟨by decide, rfl, ⟨by decide, rfl, by decide⟩, by decide, by decide, rfl, by decide⟩, by decide⟩,
     ⟨_, _, _, ⟨by decide, rfl, ⟨by decide, rfl, by decide⟩, by decide, by decide, rfl, by decide⟩, by decide⟩,
     _, _, _, ⟨by decide, rfl, ⟨by decide, rfl, by decide⟩, by decide, by decide, rfl, by decide⟩, by decide⟩,
   ⟨_, _, _, _, rfl, rfl, ⟨_, _, _, ⟨by decide, rfl, ⟨by decide, rfl, by decide⟩, by decide, by decide, rfl, by decide⟩, by decide⟩,
     ⟨_, _, _, ⟨by decide, rfl, ⟨by decide, rfl, by decide⟩, by decide, by decide, rfl, by decide⟩, by decide⟩,
     _, _, _, ⟨by decide, rfl, ⟨by decide, rfl, by decide⟩, by decide, by decide, rfl, by decide⟩, by decide⟩⟩

/-- Every lane of the octet addresses its own word of one line. -/
def octetSt : State := dat { st 0 with blocks := [{ bk with threads := (bk.threads.zipIdx).map fun x => quiet { x.1 with v := x.1.v.set 0 (BitVec.ofNat 32 (0x20000 + 4 * x.2)) } }] }
theorem wit_load_of_an_octet : ∃ k, Runs octetSt bd k ∧ octetSt.active bd 0 ≠ [] ∧ octetSt.l1Line k.core 0x400 = none ∧
    ∀ tid ∈ octetSt.active bd 0, ∃ th pa code, octetSt.thread? 0 tid = some th ∧ (loadOp 0 (.v 63) (mf .s32 .gen .rlx) (.virt .gen .read)).need ≤ th.regs ∧ th.cntLd ≠ 63 ∧
      th.blocked = 0 ∧ th.stores = [] ∧ octetSt.memTgt 0 k (loadOp 0 (.v 63) (mf .s32 .gen .rlx) (.virt .gen .read)) ((loadOp 0 (.v 63) (mf .s32 .gen .rlx) (.virt .gen .read)).ea k th) =
        .mem pa code ∧ pa / 128 = 0x400 :=
  let o : MemOp := loadOp 0 (.v 63) (mf .s32 .gen .rlx) (.virt .gen .read)
  let th := fun tid => (octetSt.thread? 0 tid).getD th0
  let k := (octetSt.blocks[0]?).getD bk
  have h : ∀ tid ∈ octetSt.active bd 0, octetSt.thread? 0 tid = some (th tid) ∧ o.need ≤ (th tid).regs ∧ (th tid).cntLd ≠ 63 ∧ (th tid).blocked = 0 ∧
    (th tid).stores = [] ∧ octetSt.memTgt 0 k o (o.ea k (th tid)) = .mem (0x20000 + 4 * tid) false ∧ (0x20000 + 4 * tid) / 128 = 0x400 := by decide
  ⟨k, ⟨by decide, rfl, by decide⟩, by decide, by decide, fun tid m => ⟨th tid, _, false, h tid m⟩⟩

/-- Two buffered stores of one page over one another. -/
def older : BufStore := ⟨0x2FFFC, .s32, .gen, false, 1, 0⟩
def younger : BufStore := ⟨0x2FFFE, .s16, .gen, false, 2, 0⟩
theorem wit_buffered_stores :
    (let s := atAddr 0x2FFFC fun th => { th with stores := [older, younger], cntSt := 2 }
     ∃ k th, s.blocks[0]? = some k ∧ s.thread? 0 0 = some th ∧ th.stores = [older] ++ younger :: [] ∧
       s.storeByte 0 k younger (.mem 0x2FFFC false) 0x2FFFC 3 = some 1 ∧ (∀ x ∈ ([] : List BufStore), s.storeByte 0 k x (.mem 0x2FFFC false) 0x2FFFC 3 = none) ∧
       s.xlateAt (some k.core) (s.ctxOf k) younger.addr .write = .ok 0x2FFFE false ∧
       (if younger.addr ≤ 0x2FFFC + 1 ∧ 0x2FFFC + 1 < younger.addr + younger.size.bytes then some (0x2FFFC + 1 - younger.addr) else none) = none) ∧
    (older.sts = false ∧ older.path ≠ .spad) ∧ (∃ x : BufStore, x.sts = false ∧ x.path = .spad) ∧
    ∃ x : BufStore, x.sts = true ∧ (onBlock (st1 0 id) fun k => { k with spadBytes := 1024 }).spadTarget 0 x.addr x.size.bytes = some (0, 1023) :=
  ⟨⟨_, _, rfl, rfl, rfl, by decide⟩, by decide, ⟨⟨0, .s8, .spad, false, 0, 0⟩, by decide⟩, ⟨1023, .s8, .spad, true, 0, 0⟩, by decide⟩

/-- A window of 1,024 bytes. -/
def small (s : State) : State := onBlock s fun k => { k with spadBytes := 1024 }
theorem wit_window_faults :
    (∃ o f n size sts, storeForm (.st 0 (.v 63) (mf .s32 .spad .rlx)) = some (o, f, n, size, sts) ∧ accessForm (.st 0 (.v 63) (mf .s32 .spad .rlx)) = some o ∧
      MemAt (small (atAddr 1024 id)) o fun s1 k th => k.halt = none ∧ GoesOn s1 bd1 k ∧ o.ea k th % o.bytes = 0 ∧ o.space = .own ∧ k.spadBytes < o.ea k th + o.bytes) ∧
    (∃ o f dst own, loadForm (.lds 0 (.v 2) (mf .s16 .spad .rlx)) = some (o, f, dst, own) ∧
      (MemAt (small (atAddr 0x300000 id)) o fun s1 k th => k.halt = none ∧ GoesOn s1 bd1 k ∧ o.space = .cluster ∧ s1.peer 0 (o.ea k th / 2 ^ 20) = none) ∧
      MemAt (small (atAddr 1024 id)) o fun s1 k th => k.halt = none ∧ GoesOn s1 bd1 k ∧ o.ea k th % o.bytes = 0 ∧ o.space = .cluster ∧ s1.peer 0 (o.ea k th / 2 ^ 20) = some 0 ∧
        s1.blocks[0]? = some k ∧ k.spadBytes < o.ea k th % 2 ^ 20 + o.bytes) ∧
    ((accessForm (.atomAdd 0 .vz (af .rlx (.k 3)))).map (·.bytes) = some 8 ∧ (accessForm (.signal 0 (.v 0) .set)).map (·.bytes) = some 4) :=
  ⟨⟨_, _, _, _, _, rfl, rfl, _, _, _, ⟨by decide, rfl, ⟨by decide, rfl, by decide⟩, by decide, by decide, rfl, by decide⟩, by decide⟩,
   ⟨_, _, _, _, rfl, ⟨_, _, _, ⟨by decide, rfl, ⟨by decide, rfl, by decide⟩, by decide, by decide, rfl, by decide⟩, by decide⟩,
    _, _, _, ⟨by decide, rfl, ⟨by decide, rfl, by decide⟩, by decide, by decide, rfl, by decide⟩, by decide, by decide, by decide, by decide, by decide, rfl, by decide⟩, by decide⟩

/-- A write of thread 0 of block 0 has no acknowledgement yet. -/
def unacked : State := atAddr 0x20000 fun th => { th with cntSt := 1 }
theorem wit_releases_wait :
    (FenceAt unacked fun s1 _ _ => s1.writesPending 0 0 = true) ∧
    (let s1 := unacked.commitLanes bd1 0
     ∃ k, unacked.curBundle = some bd1 ∧ Runs s1 bd1 k ∧ (∃ tid ∈ s1.active bd1 0, s1.writesPending 0 tid = true) ∧
       unacked.outOfBounds bd1 (.w1 0 (.v 63) []) = [] ∧ unacked.outOfBounds bd1 ⟨0, [(.v 63 .ident, 1)], [], .none, false, false⟩ = [] ∧
       ∃ o f, pointwise pushing = some (o, f) ∧ o.guard = 0 ∧ o.pushOf = some (15, 1) ∧ unacked.outOfBounds bd1 o = []) ∧
    (∃ o s1 k th, accessForm (.st 0 (.v 60) (mf .s128 .gen .rel)) = some o ∧ o.waitW = true ∧ LoneLane unacked s1 bd1 k 0 th o ∧ s1.writesPending 0 0 = true) ∧
    (∃ o s1 k th, accessForm (.signal 0 (.v 0) .maxu) = some o ∧ o.waitW = true ∧ LoneLane unacked s1 bd1 k 0 th o ∧ s1.writesPending 0 0 = true) :=
  ⟨⟨_, _, _, _, rfl, by decide, ⟨by decide, rfl, by decide⟩, by decide, by decide, rfl, rfl, by decide⟩,
   ⟨_, by decide, ⟨by decide, rfl, by decide⟩, by decide, by decide, by decide, _, _, rfl, by decide⟩,
   ⟨_, _, _, _, rfl, by decide, ⟨by decide, rfl, ⟨by decide, rfl, by decide⟩, by decide, by decide, rfl, by decide⟩, by decide⟩,
   ⟨_, _, _, _, rfl, by decide, ⟨by decide, rfl, ⟨by decide, rfl, by decide⟩, by decide, by decide, rfl, by decide⟩, by decide⟩⟩

theorem wit_barrier_registers :
    (SingleAt (barrierSt ⟨some 2, 0, true, 0⟩ id) fun s1 k th => k.bars[15]? = some ⟨some 2, 0, true, 0⟩ ∧
      (barrierSt ⟨some 2, 0, true, 0⟩ id).outOfBounds bd1 ⟨0, [(.v 63 .ident, 1)], [], .none, false, false⟩ = [] ∧ (srcRead (.v 63 .ident) 1 k th % 2 == 1) ≠ true ∧
      GoesOn s1 bd1 k ∧ (4097 : BitVec 21).toNat + srcRead (.v 63 .ident) 1 k th ≤ 4097) ∧
    (SingleAt (barrierSt ⟨some 2, 0, false, 0⟩ id) fun s1 k th => k.bars[15]? = some ⟨some 2, 0, false, 0⟩ ∧ (srcRead (.v 63 .ident) 1 k th % 2 == 1) = false ∧ GoesOn s1 bd1 k) ∧
    (SingleAt (barrierSt ⟨some 2, 0, false, 0⟩ fun th => { th with v := th.v.set 63 1 }) fun s1 k th => 4097 < (4097 : BitVec 21).toNat + srcRead (.v 63 .ident) 1 k th ∧
      k.halt = none ∧ GoesOn s1 bd1 k) :=
  ⟨⟨_, _, _, rfl, by decide, ⟨by decide, rfl, by decide⟩, by decide, rfl, by decide⟩, ⟨_, _, _, rfl, by decide, ⟨by decide, rfl, by decide⟩, by decide, rfl, by decide⟩,
   ⟨_, _, _, rfl, by decide, ⟨by decide, rfl, by decide⟩, by decide, rfl, by decide⟩⟩

/-- Barrier 15 after the sequencer's arrival at it. -/
def seqArrived (s : State) (x : Barrier) : State :=
  (s.modBlock 0 fun k => { k with seqArr := k.seqArr ||| 0x8000, bars := k.bars.set 15 { x with arrived := (x.arrived + 1) % 65536 } }).testBarrier 0 15
/-- The sequencer's barrier of the unit after the arrival of block 0's sequencer. -/
def seqMet (s : State) (k : Block) : State := (s.setCbar { s.cbarOf k.launch k.unit with sarr := 0 :: (s.cbarOf k.launch k.unit).sarr }).testSbar k.launch k.unit
theorem wit_sequencer_barriers :
    (let x : Barrier := ⟨some 1, 0, true, 0⟩
     SeqState (sq 0 (setB x)) fun k => k.bars[15]? = some x ∧ x.expected ≠ none ∧ (seqArrived (sq 0 (setB x)) x).barPhase 0 15 ≠ x.phase ∧ (k.khalf 255).getLsbD 0 ≠ x.phase ∧
       (4097 : BitVec 21).toNat + (k.khalf 255).toNat ≤ 4097) ∧
    (let x : Barrier := ⟨some 2, 0, false, 0⟩
     SeqState (sq 0 (setB x)) fun k => k.bars[15]? = some x ∧ (seqArrived (sq 0 (setB x)) x).barPhase 0 15 = x.phase ∧ (k.khalf 255).getLsbD 0 = x.phase) ∧
    (let x : Barrier := ⟨none, 0, true, 0⟩
     SeqState (sq 0 (setB x)) fun k => k.bars[15]? = some x ∧ x.expected = none ∧ k.halt = none) ∧
    (SeqState (sq 0 id) fun k => ((seqMet (sq 0 id) k).cbarOf k.launch k.unit).sphase ≠ ((sq 0 id).cbarOf k.launch k.unit).sphase) ∧
    (let s := { sq 0 id with blocks := [placeBlock 0 false 0, placeBlock 0 false 0] }
     SeqState s fun k => ((seqMet s k).cbarOf k.launch k.unit).sphase = (s.cbarOf k.launch k.unit).sphase) := by
  refine ⟨⟨_, ⟨by decide, rfl, .inl rfl⟩, by decide⟩, ⟨_, ⟨by decide, rfl, .inl rfl⟩, by decide⟩, ⟨_, ⟨by decide, rfl, .inl rfl⟩, by decide⟩, ⟨_, ⟨by decide, rfl, .inl rfl⟩, by decide⟩, ⟨_, ⟨by decide, rfl, .inl rfl⟩, by decide⟩⟩

/-- Core 0 and core 1 of a die with an MMA each, both requesting a grant. -/
def contending : State :=
  let s := matrixSt (.requesting 4)
  { s with cores := upd s.cores 1 fun c => { c with unit := .requesting 5, mmas := [⟨6, 1, 15, 1, 63, 1, 63, .int8, true⟩] }
           blocks := s.blocks ++ s.blocks.map fun k => { k with core := 1 } }
theorem idle_others (s : State) (n : Nat) (h : ((s.cores.drop n).all fun c => c.unit == .idle) = true) (hl : s.cores.length = 288) :
    ∀ c', n ≤ c' → c' < 288 → (s.cores[c']?).map (·.unit) = some .idle := by
  intro c' h1 h2
  have hm : s.cores[c']? = some (s.cores[c']'(by omega)) := List.getElem?_eq_getElem (by omega)
  have : s.cores[c']'(by omega) ∈ s.cores.drop n := by
    rw [List.mem_iff_getElem?]
    exact ⟨c' - n, by rw [List.getElem?_drop]; simp [Nat.add_sub_cancel' h1]⟩
  rw [hm]
  have := (List.all_eq_true.1 h) _ this
  simp_all
theorem wit_grant_arbiter :
    ((matrixSt (.requesting 0)).cores.length = 288 ∧ ∀ c', c' ≠ 0 → c' / 36 = 0 → ((matrixSt (.requesting 0)).cores[c']?).map (·.unit) = some .idle) ∧
    (let s := contending
     let waits := fun (c' t : Nat) => ∃ x m rest k, s.cores[c']? = some x ∧ x.unit = .requesting t ∧ x.mmas = m :: rest ∧
      s.blocks[m.blk]? = some k ∧ k.halt = none ∧ s.mmaFmtBad m = false ∧ s.accBefore m.blk m.handle m.id = false
     s.cycle % 4 = 0 ∧ s.barchan.getD 0 0 ≤ s.cycle / 4 ∧ waits 0 4 ∧
     ∀ c', c' ≠ 0 → c' / 36 = 0 → (s.cores[c']?).map (·.unit) = some .idle ∨ ∃ t, waits c' t ∧ (4 < t ∨ (4 = t ∧ s.logical 0 < s.logical c'))) := by
  refine ⟨⟨by decide, fun c' h1 h2 => idle_others _ 1 (by decide) (by decide) c' (by omega) (by omega)⟩, by decide, by decide,
    ⟨_, _, _, _, rfl, rfl, rfl, rfl, by decide⟩, fun c' h1 h2 => ?_⟩
  rcases Nat.lt_or_ge c' 2 with h | h
  · obtain rfl : c' = 1 := by omega
    exact .inr ⟨5, ⟨_, _, _, _, rfl, rfl, rfl, rfl, by decide⟩, by decide⟩
  · exact .inl (idle_others _ 2 (by decide) (by decide) c' h (by omega))
theorem wit_bank_switch_drains :
    (∃ cr, (switchSt (some 0)).cores[0]? = some cr ∧ cr.switching = some 0) ∧ (switchSt (some 64)).cycle < 64 := ⟨⟨_, rfl, rfl⟩, by decide⟩

/-- A block with one CPYA of TYPE 3, of two rows of 64 bytes, whose second source block's FMT is `fmt`. -/
def blockCopy (fmt : Byte) : State :=
  let s := copying 0xDF 64 0x10000000040 0x4000000040 [] fun k => { k with copies := k.copies.map fun c => { c with b8 := true, dst := 0x21000 } }
  { s with homes := { s.homes with mem := Memory.put s.homes.mem 0x20040 [fmt] } }
/-- Core 0 of a state whose TLB holds one entry and whose cluster walks nothing. -/
theorem warm (s : State) (e : TlbEntry) (ht : (s.cores[0]?.map (·.tlb)).getD [] = [e]) (hw : s.walksOf 0 = 0) : Cold s (some 0) e := fun _ h => by
  cases h
  exact ⟨by simp [ht], by omega⟩
theorem wit_copy_blocks : ∀ fmt ∈ [0, 0xFF], let s := blockCopy fmt
    UnitAt s fun k c d => d.ssp = 0 ∧ d.dsp = 0 ∧ c.b8 = true ∧ c.done < d.len * (d.rows + 1) ∧ d.len = 64 ∧ c.done / d.len = 1 ∧ c.done % d.len = 0 ∧
      Plain s (some k.core) (s.ctxOf k) 0x20040 64 .read 0x20040 0x20040 false ∧ Plain s (some k.core) (s.ctxOf k) 0x21040 64 .write 0x21040 0x21040 false ∧
      Plain (s.translated (s.copyEng 0 c false) [(0x20040, 64)]) (some k.core) (s.ctxOf k) 0x21040 64 .write 0x21040 0x21040 false ∧
      (c.done + 0) % 64 = 0 ∧ (bfmt (Memory.get s.homes.mem 0x20040).toNat = none ↔ fmt = 0xFF) ∧ ∀ i, 0 < i → i < 64 → (c.done + i) % 64 ≠ 0 := by
  intro fmt h
  simp only [List.mem_cons, List.not_mem_nil, or_false] at h
  rcases h with rfl | rfl
  all_goals
    refine ⟨_, _, ⟨rfl, rfl, rfl⟩, rfl, by decide, by decide, by decide, by decide, by decide, by decide, by decide, by decide, by decide, by decide, ?_, ?_, ?_, by decide, by decide +kernel, ?_⟩
    · exact plain_of_page ⟨15, 0, 30, 0, true, false⟩ (cold _ _ rfl rfl) (by decide +kernel) (by decide) (by decide +kernel)
    · exact plain_of_page ⟨15, 0, 30, 0, true, false⟩ (cold _ _ rfl rfl) (by decide +kernel) (by decide) (by decide +kernel)
    · exact plain_of_page ⟨15, 0, 30, 0, true, false⟩ (warm _ _ (by decide +kernel) (by decide +kernel)) (by decide +kernel) (by decide) (by decide +kernel)
    · intro i h1 h2
      show (64 + i) % 64 ≠ 0
      omega
theorem wit_queue_unit_full : let s := copying 0xE2 0 4 0 [] (setQ 15 (carve 2 false))
    UnitAt s fun k c _ => (k.queue c.bq).carved = true ∧ (k.queue c.bq).closed = false ∧ (k.queue c.bq).cap ≤ (k.queue c.bq).count ∧ s.asking (copyWho 0 c) = false :=
  ⟨_, _, ⟨rfl, rfl, rfl⟩, rfl, by decide⟩

theorem wit_stream_waits :
    (let s := streaming (stream 0x1F008 1 []) (carve 2 false)
     StreamAt s fun k _ => (k.queue 15).closed = false ∧ (k.queue 15).cap ≤ (k.queue 15).count ∧ s.asking [2, 0, 15] = false) ∧
    (let s := onBlock (streaming (stream 0x1F009 0 []) (carve 2 true)) fun k => { k with spadPoison := [0] }
     StreamAt s fun k x => x.buf = [] ∧ 0 < (k.queue 15).count ∧ k.headPoison 15 = true ∧
      Plain s (some k.core) (s.ctxOf k) 0x20000 4 .write 0x20000 0x20000 false) ∧
    StreamAt (streaming (stream 0x1F009 0 []) (carve 2 true)) fun k x => x.buf = [] ∧ 0 < (k.queue 15).count ∧ k.headPoison 15 = false :=
  ⟨⟨_, _, ⟨rfl, rfl, rfl⟩, rfl, by decide⟩, ⟨_, _, ⟨rfl, rfl, rfl⟩, rfl, by decide +kernel⟩, ⟨_, _, ⟨rfl, rfl, rfl⟩, rfl, by decide⟩⟩

/-- A window of the children of the record that `launchSt` holds, under launch `par`, opened when the clock stood at 0. -/
def openWindow (par : Nat) (r : LaunchRec) : State :=
  let s := launchSt (recordMem false 1) 1
  { s with front := { s.front with windows := s.front.launches.take 1 |>.map fun l => ⟨0, par, r, l.hdr, [], 0, [⟨0, 1, 0, [], 1, 0, 1, 0, 0x30000⟩]⟩ } }
def theRec : LaunchRec := LaunchRec.of (Memory.bytes (recordMem false 1) 0x20000 256)
def fitsAt (s : State) (w : Window) : Prop := w.lrec.key = theRec.key ∧ (s.front.launches[w.parent]?).map (·.queue) = (s.front.launches[0]?).map (·.queue)
theorem wit_merge_windows :
    (let s := openWindow 0 theRec
     LaunchAt s fun s1 bs => good (s1.checkLaunch [1, 0, 5] 15 bs).2 = true ∧ s.regs.aggBase ≠ 0 ∧ (LaunchRec.of bs).blocks < 2 ^ 32 ∧
       ∃ w, s.front.windows = [w] ∧ fitsAt s w ∧ s.clock.toNat < w.opened + 2000 ∧ w.kids.length < 4095 ∧ (w.kids.map (·.nblk)).sum + (LaunchRec.of bs).blocks ≤ 2 ^ 32) ∧
    (let s := openWindow 0 { theRec with prio := theRec.prio + 1 }
     LaunchAt s fun s1 bs => good (s1.checkLaunch [1, 0, 5] 15 bs).2 = true ∧ s.regs.aggBase ≠ 0 ∧ s.front.windows.length < 64 ∧ ∀ w ∈ s.front.windows, ¬ fitsAt s w) := by
  refine ⟨⟨_, _, ⟨by decide, rfl, .inl rfl⟩, rfl, by decide, plain_of_page ⟨15, 0, 30, 0, true, false⟩ (cold _ _ rfl rfl) (by decide +kernel) (by decide) (by decide +kernel), by decide +kernel,
     by decide, by decide +kernel, _, rfl, ⟨rfl, rfl⟩, by decide +kernel⟩,
   ⟨_, _, ⟨by decide, rfl, .inl rfl⟩, rfl, by decide, plain_of_page ⟨15, 0, 30, 0, true, false⟩ (cold _ _ rfl rfl) (by decide +kernel) (by decide) (by decide +kernel), by decide +kernel,
     by decide, by decide, fun w h => ?_⟩⟩
  have h : ∀ w ∈ (openWindow 0 { theRec with prio := theRec.prio + 1 }).front.windows, w.lrec.key ≠ theRec.key := by decide +kernel
  exact fun x => h w ‹_› x.1

theorem wit_prefetch_of_a_hole :
    ReqAt (asking (0x07000000000 / 128) (.pref false) .gen [part 4 none]) fun r => (asking (0x07000000000 / 128) (.pref false) .gen [part 4 none]).reqPhys r = .hole ∧
      (asking (0x07000000000 / 128) (.pref false) .gen [part 4 none]).reqPersist r = false ∧ r.prefetch = true := ⟨_, rfl, by decide⟩
/-- A dead block's return to a grant that its thread still holds, or no longer. -/
theorem wit_returns_to_the_dead :
    (RetAt (stopped (granted (returning true 0 []))) fun r k th => th.slotTag = r.part.slot ∧ th.status ≠ .exited ∧ r.load = true ∧ k.dead = true ∧
      (stopped (granted (returning true 0 []))).earlierLoad r = false ∧ (stopped (granted (returning true 0 []))).earlierHome r = false ∧
      r.part.grant = some 1 ∧ th.grantTag (r.part.dst.getD 0) ≠ some 1) ∧
    RetAt (stopped (returning true 0 [])) fun r k th => th.slotTag = r.part.slot ∧ th.status ≠ .exited ∧ r.load = true ∧ k.dead = true ∧
      (stopped (returning true 0 [])).earlierLoad r = false ∧ (stopped (returning true 0 [])).earlierHome r = false ∧ r.part.grant = none :=
  ⟨⟨_, _, _, rfl, rfl, rfl, by decide⟩, ⟨_, _, _, rfl, rfl, rfl, by decide⟩⟩

/-- A walk whose root lies on package 1, the link to which went down. -/
def lostWalk : State :=
  let s := onRegs (fun r => { r with routes := [(0, 0x02000000), (1, 0x01000001)] }) (walking 0x20000 15)
  { s with homes := { s.homes with walks := s.homes.walks.map (fun w => { w with root := 0x40000000001 })
                                   remotes := [⟨1, [8, 2 ^ 42], 1, 0, .read 1 0 8 none, none, false, true, 0, true⟩] } }
/-- What a walk's faults ask of their one lane. -/
def FaultsAt (s : State) (va : Nat) (P : Walk → Prop) : Prop :=
  ∃ w k th, s.homes.walks.find? (fun x => x.id == 5) = some w ∧ w.who = [(0, 0, va, 0)] ∧ s.bundleOf 0 0 = some bd1 ∧ s.blocks[0]? = some k ∧ k.halt = none ∧ (0 : Nat) ≠ 16 ∧
    s.thread? 0 0 = some th ∧ bd1.meet = false ∧ th.held = false ∧ (∀ c, s.cores[k.core]? = some c → ∀ q ∈ c.growq, ¬(q.blk = 0 ∧ 0 ∈ q.tids)) ∧ P w
theorem no_grow (s : State) (h : s.cores[0]?.map (·.growq) = some []) : ∀ c, s.cores[0]? = some c → ∀ q ∈ c.growq, ¬(q.blk = 0 ∧ 0 ∈ q.tids) := by
  intro c hc q hq
  rw [hc, Option.map_some, Option.some.injEq] at h
  rw [h] at hq
  exact nomatch hq
theorem wit_walk_faults :
    (FaultsAt (walking 0x40000 15) 0x40000 fun w => (walking 0x40000 15).walkFrom w.root w.ctx w.va = .absent) ∧
    (FaultsAt (walking 0x40000 14) 0x40000 fun w => (walking 0x40000 14).walkFrom w.root w.ctx w.va = .prot) ∧
    (FaultsAt lostWalk 0x20000 fun w => lostWalk.walkFrom w.root w.ctx w.va = .lost) ∧
    ∃ w, (walking 0x20000 15).homes.walks.find? (fun x => x.id == 5) = some w ∧ (walking 0x20000 15).walkFrom w.root w.ctx w.va = .leaf ⟨15, 0x20000, 16, 0x20000, true, false⟩ :=
  ⟨⟨_, _, _, rfl, rfl, by decide, rfl, by decide, by decide, rfl, by decide, by decide, no_grow _ rfl, by decide⟩,
   ⟨_, _, _, rfl, rfl, by decide, rfl, by decide, by decide, rfl, by decide, by decide, no_grow _ rfl, by decide⟩,
   ⟨_, _, _, rfl, rfl, by decide, rfl, by decide, by decide, rfl, by decide, by decide, no_grow _ rfl, by decide⟩, ⟨_, rfl, by decide⟩⟩

theorem wit_erg_waits :
    (ErgAt (ergSt 0 fun _ x => { x with status := .parked (.limit true false), cntLd := 62, cntSt := 63, octet := true }) fun _ th =>
      th.status = .parked (.limit true false) ∧ ((true : Bool) = true → th.cntLd < 63) ∧ ((false : Bool) = true → th.cntSt < 63)) ∧
    (ErgAt (ergSt 0 fun _ x => { x with status := .parked (.limit true false), cntLd := 63 }) fun _ th => th.status = .parked (.limit true false) ∧ ¬ th.cntLd < 63) ∧
    (ErgAt (ergSt 0 fun _ x => { x with status := .parked (.pbar true) }) fun _ th => th.status = .parked (.pbar true) ∧
      (ergSt 0 fun _ x => { x with status := .parked (.pbar true) }).persistOut 0 0 true = false) ∧
    (ErgAt (persisting (ergSt 0 fun _ x => { x with status := .parked (.pbar true) })) fun _ th => th.status = .parked (.pbar true) ∧
      (persisting (ergSt 0 fun _ x => { x with status := .parked (.pbar true) })).persistOut 0 0 true = true) ∧
    (ErgAt (ergSt 0 fun _ x => { x with status := .parked .meet, octet := true }) fun k th => th.status = .parked .meet ∧
      ∀ x ∈ k.threads, x.octet = true ∧ x.status = .parked .meet ∧ x.held = false) ∧
    (ErgAt (ergSt 0 fun i x => { x with status := if i = 7 then .parked (.sleep 9) else .parked .meet, octet := true }) fun k th => th.status = .parked .meet ∧
      ∃ x ∈ k.threads, x.octet = true ∧ x.status = .parked (.sleep 9)) ∧
    (ErgAt (onBlock (ergSt 0 fun _ x => { x with status := .exiting, v := List.replicate 192 1 }) fun k => { k with reserve := 3, reserveWhole := 4 }) fun k th =>
      th.status = .exiting ∧ th.cntLd = 0 ∧ th.cntSt = 0 ∧ min (th.regs / 64) (k.reserveWhole - k.reserve) = 1 ∧
      ∀ c, (ergSt 0 fun _ x => x).cores[k.core]? = some c → c.growq = []) :=
  ⟨⟨_, _, ⟨rfl, rfl, rfl⟩, rfl, by decide, by decide⟩, ⟨_, _, ⟨rfl, rfl, rfl⟩, rfl, by decide, by decide⟩, ⟨_, _, ⟨rfl, rfl, rfl⟩, rfl, by decide, by decide⟩,
   ⟨_, _, ⟨rfl, rfl, rfl⟩, rfl, by decide, by decide⟩, ⟨_, _, ⟨rfl, rfl, rfl⟩, rfl, by decide, by decide⟩, ⟨_, _, ⟨rfl, rfl, rfl⟩, rfl, by decide, by decide⟩,
   ⟨_, _, ⟨rfl, rfl, rfl⟩, rfl, by decide, by decide, by decide, by decide, by decide, fun c h => by cases h; rfl⟩⟩

/-- A block whose threads have no buffered store has none that is held back. -/
theorem nothing_held (s : State) (b : Nat) (k : Block) (h : ∀ x ∈ k.threads, x.stores = []) (i : Nat) : s.storeHeld b k i = none := by
  unfold State.storeHeld
  cases ht : k.threads[i]? with
  | none => rfl
  | some x => simp [h x (List.mem_of_getElem? ht)]
theorem wit_bundles_of_regions :
    (let s := put 0x10103 [1] (ergSt 0 fun _ x => { binned x with arrival := 0, pend := 5 })
     BinAt s fun k _ ws => clauseFault true ws = none ∧ (ws.headD 0).toNat / 2 ^ 24 % 2 = 1 ∧ s.walkNeed 0 k true [] 0x10100 = none ∧ ∀ x ∈ k.threads, x.stores = []) ∧
    (let s := ergSt 0x4000002000000833 fun i x => { binned x with held := i = 0, pc := if i = 0 then 0x10108 else x.pc }
     ∃ k th, s.blocks[0]? = some k ∧ k.threads[1]? = some th ∧ th.status = .ready true ∧ (∀ x ∈ k.threads.take 1, x.held = true ∧ x.ready = true) ∧
       s.walkNeed 0 k true [] 0x10100 = none) ∧
    (let s := ergSt 0 fun _ x => binned x
     ∃ k, s.blocks[0]? = some k ∧ ∀ i, s.storeHeld 0 k i = none) := by
  exact ⟨⟨_, _, _, ⟨rfl, rfl, rfl⟩, rfl, rfl, by decide, by decide, by decide, rfl, by decide⟩, ⟨_, _, rfl, rfl, by decide⟩, _, rfl, nothing_held _ _ _ (by decide)⟩

theorem wit_syscalls_under_way :
    (let s := waitsFar [7, 4, 0, 0] (sysSt none 0 false)
     ErgAt s fun k th => k.halt = none ∧ th.status = .parked (.syscall none 7 []) ∧ s.asking [7, 4, 0, 0] = true) ∧
    (let s := onBlock (sysSt (some 0) 0 true) fun k => { k with threads := k.threads.map fun x => { x with octet := true } }
     ∃ k th, s.resident? 0 = some k ∧ k.halt = none ∧ k.threads[0]? = some th ∧ s.srWaiter 0 = some (0, 0) ∧ th.octet = true ∧ PlainPa s 0x21000 64 0x21000 ∧
       Memory.read s.homes.mem 0x21000 2 = 0) ∧
    (let s := stopped (sysSt none 0 true)
     ∃ k th, s.resident? 0 = some k ∧ k.threads[0]? = some th ∧ th.status = .parked (.syscall none 7 []) ∧ k.halt.isSome = true ∧ s.asking [7, 4, 0, 0] = false) ∧
    (stopped (sysSt (some 0) 0 true)).srWaiter 0 = none := by
  refine ⟨⟨_, _, ⟨rfl, rfl, rfl⟩, rfl, by decide, by decide +kernel⟩, ⟨_, _, rfl, by decide, rfl, by decide +kernel⟩, ⟨_, _, rfl, rfl, by decide⟩, by decide⟩

/-- A capture under way whose manifest, or whose destination, lies apart from its one range. -/
theorem wit_captures_at_home :
    (let s := seifSt 1 true 0x20000010100 []
     s.migOf 0x20000010000 = none ∧ s.migOf (0x20000010000 + 128) = none ∧ s.homeAddr (256 * 0x200000000) = 256 * 0x200000000) ∧
    (let s := seifSt 1 true 0x20000010100 [(0x200000000, 1)]
     s.migOf 0x20000030000 = none ∧ s.movedFrom 0x20000030000 = none ∧ s.seifRange 0x20000030000 = none) := by decide

/-- The line of package 1 in the L1 of core 0. -/
def farCached : State :=
  onRegs (fun r => { r with routes := [(0, 0x02000000), (1, 0x01000001)] }) (onCore (sq 0 id) fun c => { c with l1 := [⟨2 ^ 35, 0, List.replicate 128 0xA5, false, 0, false⟩] })
theorem wit_far_refetch :
    (∃ x cr, farCached.l1At 0 0 = some x ∧ farCached.cores[0]? = some cr ∧ farCached.phys (128 * x.line) = .remote 1 ∧
      ∃ k, farCached.resident? 0 = some k ∧ k.core = 0 ∧ x.ro = false) ∧
    (∀ k ∈ farCached.blocks, 15 ∉ k.units) ∧
    (let s := ergSt 0 fun _ x => { x with status := .parked (.replay 0x200000000), octet := true }
     ∃ k th, s.blocks[0]? = some k ∧ k.threads[0]? = some th ∧ k.place = .live ∧ s.ctxOf k = 15 ∧ th.octet = true ∧
       (s.permits (k.core / 4)).1 < 16) :=
  ⟨⟨⟨2 ^ 35, 0, List.replicate 128 0xA5, false, 0, false⟩, _, by decide, rfl, by decide, _, rfl, by decide⟩, by decide, _, _, rfl, rfl, by decide⟩

theorem wit_switchover_frame :
    (let s := onCore (migSt [mig [true, true] false]) fun c => { c with l1 := [⟨0x800, 0, [], false, 0, false⟩, ⟨0x800, 0, [], true, 0, false⟩] }
     (mig [true, true] false).switched = false ∧ PlainPa s 0x400000 8 0x400000 ∧ ∃ y ∈ ((s.cores[0]?).map (·.l1)).getD [], 0x40000 ≤ 128 * y.line ∧ 128 * y.line < 0x50000) ∧
    (∀ b ∈ [true, false], let s := migSt [mig [true, false] b]
     s.migOf 0x30080 = some (mig [true, false] b) ∧ 0x30080 < 0x06000000000 ∧ (mig [true, false] b).new + (0x30080 - (mig [true, false] b).old) < 0x06000000000 ∧
       ∀ x ∈ [0x30080, 0x40080], (s.movedFrom x).all (fun y => decide (y < 0x06000000000)) = true) :=
  ⟨⟨by decide, by decide +kernel, by decide⟩, by decide⟩

/-- The record of `recordMem`, and its code object's header. -/
def recBytes : List Byte := Memory.bytes (recordMem false 1) 0x20000 256
def hdrBytes : List Byte := Memory.bytes (recordMem false 1) 0x10000 256
theorem zeros_of (bs : List Byte) (lo hi : Nat) (h : ((List.range hi).all fun i => decide (i < lo) || bs.getD i 0 == 0) = true) : Zeros bs lo hi := by
  intro i h1 h2
  have := List.all_eq_true.1 h i (List.mem_range.2 h2)
  simpa [Nat.not_lt.2 h1] using this
theorem wit_record_limits : RecordLimits recBytes ∧ ¬ RecordLimits (Memory.bytes (recordMem false 0) 0x20000 256) := by
  constructor
  · unfold RecordLimits
    repeat' apply And.intro
    all_goals first | exact zeros_of _ _ _ (by decide +kernel) | decide +kernel
  · unfold RecordLimits
    rintro ⟨-, -, -, -, -, -, -, -, h, -⟩
    revert h
    decide +kernel
theorem wit_header_limits : HeaderLimits hdrBytes ∧ ¬ HeaderLimits recBytes := by
  constructor
  · unfold HeaderLimits
    repeat' apply And.intro
    all_goals first | exact zeros_of _ _ _ (by decide +kernel) | decide +kernel
  · unfold HeaderLimits
    rintro ⟨h, -⟩
    revert h
    decide +kernel
theorem wit_level_limits : LevelLimits recBytes := by
  have ht : rdN recBytes 0x10 1 = 2 := by decide +kernel
  refine ⟨1, fun n => if n = 0 then 0 else 2, ?_⟩
  simp only [ht]
  exact ⟨by decide, by decide +kernel, by decide +kernel, by decide +kernel, by decide +kernel, fun n _ => by split <;> simp, by decide +kernel⟩
theorem wit_place_limits : PlaceLimits (launchSt (recordMem false 1) 0) recBytes := by
  have ht : rdN recBytes 0x10 1 = 2 := by decide +kernel
  have h3 : ∀ n, n < 2 → recDom recBytes n ≠ 3 := by decide +kernel
  refine ⟨1, by rw [ht]; decide, by decide +kernel, by decide +kernel, fun n hn hd => ?_⟩
  rw [ht] at hn
  exact absurd hd (h3 n hn)
theorem wit_record_checked :
    recBytes.length = 256 ∧
    (let r := LaunchRec.of recBytes
     Plain (launchSt (recordMem false 1) 0) none 15 r.code 256 .read 0x10000 0x10000 false ∧ r.smaskk = 0 ∧ r.dmaskk = 0 ∧ r.specMode = 0 ∧ r.sigaddr = 0) ∧
    (launchSt (recordMem false 1) 0).xlate 15 0x80000000 .read = .absent := by decide +kernel
theorem wit_fetch_due :
    (RingAt (cq fun c => { c with due := true }) [(0x20001, 1)] fun s pa => PlainPa s pa 64 pa) ∧ (cq id).due = false ∧
    (RingAt (cq fun c => { c with retries := 64, retryAt := 0, expect := 1 }) [] fun s pa => PlainPa s pa 64 pa ∧ ¬ s.clock.toNat < 0) :=
  ⟨⟨rfl, by decide, rfl, by decide, by decide +kernel⟩, rfl, ⟨rfl, by decide, rfl, by decide, by decide +kernel⟩⟩

theorem wit_window_without_tables :
    let s := onRegs (fun r => { r with aggBase := 0 }) (windowed [kid 0 8, kid 1 0] 2000)
    WindowAt s fun w => w.opened + 2000 ≤ s.clock.toNat ∧ s.regs.aggBase = 0 ∧ s.front.launches[w.parent]? = some placeLaunch ∧ w.kids[1]? = some (kid 1 0) :=
  ⟨_, rfl, by decide, rfl, rfl, rfl⟩

theorem wit_route_held :
    let s := onRegs (fun r => { r with routeNext := [(1023, 0x01000001)] }) (route 1023 0x01000001 [] rs)
    tget s.regs.routeNext 1023 = some 0x01000001 ∧ (1023 * 2 ^ 42 + 0x80) / 2 ^ 42 % 1024 = 1023 := by decide

theorem wit_aperture_ends :
    2 ^ vfSt.regs.apsize < 2 ^ 28 - 3 + 4 ∧ 2 ^ vfSt.regs.apsize < 2 ^ 28 + [(7 : Byte)].length ∧ 0 + 256 ≤ 2 ^ vfSt.regs.apsize ∧ 252 + 4 ≤ 2 ^ vfSt.regs.apsize ∧
    256 + [(7 : Byte)].length ≤ 2 ^ vfSt.regs.apsize := by decide

/-- A package whose fused key digest is that of an empty key, and one image that the digest refuses. -/
def fused : State := { rs with boot := { rs.boot with keyHash := shake32 [] } }
theorem wit_boot_images :
    (¬ ∀ x ∈ [(⟨1, [], [], []⟩ : Image), ⟨1, [], [], []⟩, ⟨1, [], [], []⟩], ({ rs with boot := { rs.boot with keyHash := [1], floor := 2 } }).boot.verifies x = true) ∧
    (shake32 [] = fused.boot.keyHash ∧ fused.boot.floor ≤ 1 ∧
      ∀ sig, Config.mldsaVerify [] (toBytes 1 8 ++ [7]) sig = true → fused.boot.verifies { version := 1, body := [7], key := [], sig := sig } = true) ∧
    (let s := waitsFar [7, 4, 0, 0] (resetting 1 (st 0))
     ∃ b ∈ s.liveOf 0, s.asking [7, 4, b] = true) ∧
    (resetting 1 (st 0)).asking [7, 4, 0] = false := by
  refine ⟨?_, ⟨rfl, by decide, fun sig h => ?_⟩, ⟨0, by decide, by decide⟩, by decide⟩
  · intro h
    have := h _ (List.mem_cons_self ..)
    simp [Boot.verifies] at this
  · simp only [Boot.verifies, fused, h, Bool.and_true]
    rfl

/-- The stripe of `stripe` with P in package 1's address space and member 1 in SCM; the units of P have been read, are awaited, or are lost. -/
def farStripe (lost : Bool) (answer : Option (List Byte)) : State :=
  let far := 2 ^ 42 + 0x32000
  let plan := toBytes 2 1 ++ toBytes 1 1 ++ toBytes 1 2 ++ toBytes 32 4 ++ toBytes 1 4 ++ toBytes 7 4 ++ toBytes 256 8 ++ List.replicate 40 0 ++
    member 0 0x30000 0 ++ member 1 0x20000000000 0x20000010000 ++ member 0x80 far (2 ^ 42 + 0x40040)
  { onRegs (fun r => { r with routes := [(0, 0x02000000), (1, 0x01000001)] }) rs with
    rebuild := { rs.rebuild with stat := 1, plan := plan, chosen := [1, 2], done := 0 }
    homes := { rs.homes with remotes := [⟨1, [7, 10, 2, far], 1, 0, .rebuildRead 1 0x32000 32 32, answer, false, lost, 0, true⟩] } }
theorem wit_rebuild_far :
    (let s := farStripe false (some (List.replicate 32 0xA5))
     let bs := s.rebuild.plan
     planUnits bs = 1 ∧ planUnit bs = 32 ∧ ((List.range (planK bs + planM bs)).filter (planLost bs)) = [0] ∧ (planMember bs 0).live = 0 ∧
       LocalPa s ((planMember bs 0).slot) 32 0x30000 ∧ MemberBytes s 1 (planMember bs 1).slot 32 32 (List.replicate 32 0) ∧
       MemberBytes s 2 (planMember bs 2).slot 32 32 (List.replicate 32 0xA5)) ∧
    (∀ b ∈ [false, true], let s := farStripe b none
     let pa := (planMember s.rebuild.plan 2).slot
     s.phys pa = .remote 1 ∧ (s.sent [7, 10, 2, pa] fun rid => .rebuildRead rid (pa % 2 ^ 42) 32 32).map (fun r => (r.lost, r.answer)) = some (b, none)) := by
  refine ⟨⟨by decide, by decide, by decide, by decide, by decide +kernel, Or.inl ⟨0x20000000000, by decide +kernel, by decide +kernel⟩,
    Or.inr ⟨1, _, by decide, by rfl, rfl, rfl, rfl⟩⟩, by decide⟩

theorem wit_code_is_near :
    (rs.withFetchWord 64 0x0000005001003001).walkNeed bd.blk bk true bd.lanes bd.pc = none ∧
    (rs.withFetchWord 64 0x00000007003400D0).walkNeed 0 (sk id) false [] (sk id).seq.pc = none := by decide

/-! ### Decoding: a word of every row, its fields placed by the format of 02 R72, R73, R76, R79 and the row's own encoding table -/

abbrev v3 (op g d a b c : Nat) : Nat := op + g * 2 ^ 8 + d * 2 ^ 11 + a * 2 ^ 22 + b * 2 ^ 36 + c * 2 ^ 50
/-- MOD of V2: SUB, RM, the bits ABSB, NEGB, ABSA, NEGA as one number, TYPE (02 R73). -/
abbrev v2 (op g d a b sub rm mods ty : Nat) : Nat := op + g * 2 ^ 8 + d * 2 ^ 11 + a * 2 ^ 22 + b * 2 ^ 36 + ty * 2 ^ 50 + mods * 2 ^ 54 + rm * 2 ^ 58 + sub * 2 ^ 60
abbrev vi (op g d a imm : Nat) : Nat := op + g * 2 ^ 8 + d * 2 ^ 11 + a * 2 ^ 22 + imm * 2 ^ 36
abbrev fm (op g data addr order scope evict size path off : Nat) : Nat :=
  op + g * 2 ^ 8 + data * 2 ^ 11 + addr * 2 ^ 22 + order * 2 ^ 36 + scope * 2 ^ 38 + evict * 2 ^ 41 + size * 2 ^ 44 + path * 2 ^ 47 + off * 2 ^ 50
abbrev ma (op g d addr order scope evict size opnd : Nat) : Nat :=
  op + g * 2 ^ 8 + d * 2 ^ 11 + addr * 2 ^ 22 + order * 2 ^ 39 + scope * 2 ^ 41 + evict * 2 ^ 44 + size * 2 ^ 47 + opnd * 2 ^ 50
abbrev fu (op g kd ka kb imm : Nat) : Nat := op + g * 2 ^ 8 + kd * 2 ^ 11 + ka * 2 ^ 18 + kb * 2 ^ 25 + imm * 2 ^ 32
/-- OPF is given as a number from bit 39. -/
abbrev fx (op g acc ta tb mcast ty opf : Nat) : Nat := op + g * 2 ^ 8 + acc * 2 ^ 11 + ta * 2 ^ 15 + tb * 2 ^ 23 + mcast * 2 ^ 31 + ty * 2 ^ 35 + opf * 2 ^ 39
abbrev reads (w : Nat) (i : Instr) : Prop := decodeTableWord 64 w = some i

/-- V7 through rot1, and K3.hi, as source fields (02 R64, R67). -/
abbrev va : Src := .v 7 .rot1
abbrev fa : Nat := 7 + 1 * 2 ^ 11
abbrev kh : Src := .k 7
abbrev fk : Nat := 1553 + 2 * 3
theorem words_integer :
    reads (v3 0x00 5 0 0 0 0) (.nop 5) ∧ reads (v2 0x01 1 9 fa fk 0 0 0 0) (.iadd 1 (.v 9) va kh) ∧ reads (v2 0x02 0 2047 fk fa 0 0 0 0) (.isub 0 .vz kh va) ∧
    reads (vi 0x03 0 1551 fa 0x8000001) (.iaddi 0 (.q 15) va 0x8000001) ∧ reads (v2 0x04 0 9 fa fk 0 0 0 0) (.imul 0 (.v 9) va kh) ∧
    reads (v2 0x05 0 9 fa fk 0 0 0 0) (.imulhi 0 (.v 9) va kh) ∧ reads (v2 0x06 0 9 fa fk 0 0 0 0) (.imulhu 0 (.v 9) va kh) ∧
    reads (v3 0x07 0 9 fa fk 1535) (.imad 0 (.v 9) va kh (.v 1535 .ident)) ∧ reads (v2 0x08 0 9 fa fk 0 0 0 0) (.idiv 0 (.v 9) va kh) ∧
    reads (v2 0x09 0 9 fa fk 0 0 0 0) (.idivu 0 (.v 9) va kh) ∧ reads (v2 0x0A 0 9 fa fk 0 0 0 0) (.irem 0 (.v 9) va kh) ∧ reads (v2 0x0B 0 9 fa fk 0 0 0 0) (.iremu 0 (.v 9) va kh) ∧
    reads (v2 0x0C 0 9 fa fk 0 0 0 0) (.imin 0 (.v 9) va kh) ∧ reads (v2 0x0D 0 9 fa fk 0 0 0 0) (.imax 0 (.v 9) va kh) ∧ reads (v2 0x0E 0 9 fa fk 0 0 0 0) (.iminu 0 (.v 9) va kh) ∧
    reads (v2 0x0F 0 9 fa fk 0 0 0 0) (.imaxu 0 (.v 9) va kh) ∧ reads (v2 0x10 0 9 fa 0 0 0 0 0) (.iabs 0 (.v 9) va) ∧ reads (v2 0x11 0 9 fa fk 0 0 0 0) (.and 0 (.v 9) va kh) ∧
    reads (v2 0x12 0 9 fa fk 0 0 0 0) (.or 0 (.v 9) va kh) ∧ reads (v2 0x13 0 9 fa fk 0 0 0 0) (.xor 0 (.v 9) va kh) ∧ reads (v2 0x14 0 9 fa fk 0 0 0 0) (.andn 0 (.v 9) va kh) ∧
    reads (vi 0x15 0 9 fa 5) (.andi 0 (.v 9) va 5) ∧ reads (vi 0x16 0 9 fa 5) (.ori 0 (.v 9) va 5) ∧ reads (vi 0x17 0 9 fa 5) (.xori 0 (.v 9) va 5) := by
  decide
theorem words_shift :
    reads (v2 0x18 0 9 fa fk 0 0 0 0) (.shl 0 (.v 9) va kh) ∧ reads (v2 0x19 0 9 fa fk 0 0 0 0) (.shr 0 (.v 9) va kh) ∧ reads (v2 0x1A 0 9 fa fk 0 0 0 0) (.sar 0 (.v 9) va kh) ∧
    reads (v2 0x1B 0 9 fa fk 0 0 0 0) (.rotl 0 (.v 9) va kh) ∧ reads (vi 0x1C 0 9 fa 31) (.shli 0 (.v 9) va 31) ∧ reads (vi 0x1D 0 9 fa 31) (.shri 0 (.v 9) va 31) ∧
    reads (vi 0x1E 0 9 fa 31) (.sari 0 (.v 9) va 31) ∧ reads (v3 0x1F 0 9 fa 0 fk) (.bfe 0 (.v 9) va kh) ∧ reads (v3 0x20 0 9 fa 0 fk) (.bfeu 0 (.v 9) va kh) ∧
    reads (v3 0x21 0 9 fa fk 8) (.bfi 0 (.v 9) va kh (.v 8 .ident)) ∧ reads (v2 0x22 0 9 fa 0 0 0 0 0) (.popc 0 (.v 9) va) ∧ reads (v2 0x23 0 9 fa 0 0 0 0 0) (.clz 0 (.v 9) va) ∧
    reads (v2 0x24 0 9 fa 0 0 0 0 0) (.ctz 0 (.v 9) va) ∧ reads (v2 0x25 0 9 fa 0 0 0 0 0) (.brev 0 (.v 9) va) ∧
    reads (v2 0x26 0 10 8 (1552 + 2 * 3) 0 0 0 0) (.add64 0 (.v 10) (.v 8 .ident) (.k 6)) ∧ reads (v2 0x27 0 10 8 12 0 0 0 0) (.sub64 0 (.v 10) (.v 8 .ident) (.v 12 .ident)) ∧
    reads (v2 0x28 0 10 8 fa 0 0 0 0) (.shl64 0 (.v 10) (.v 8 .ident) va) ∧ reads (v2 0x29 0 10 8 fa 1 0 0 0) (.shr64 0 (.v 10) (.v 8 .ident) va true) ∧
    reads (v2 0x2A 0 10 8 fa (3 + 8) 0 0 0) (.lea 0 (.v 10) (.v 8 .ident) va 3 true) ∧ reads (v2 0x2B 0 12 8 0 2 0 0 0) (.mov 0 (.v 12) (.v 8 .ident) .w128) ∧
    reads (vi 0x2C 0 9 0 0xFFFFFFF) (.movi 0 (.v 9) 0xFFFFFFF) ∧ reads (vi 0x2D 0 9 fa 0xABCD) (.movhi 0 (.v 9) va 0xABCD) ∧ reads (v2 0x2E 0 9 fa fk (2 + 8) 0 0 0) (.sel 0 (.v 9) va kh 2 true) ∧
    reads (v2 0x2F 0 2 fa fk 9 0 0 0) (.isetp 0 2 va kh .geu) ∧ reads (v2 0x30 0 2 (3 + 7 * 2 ^ 11) 4 3 0 0 0) (.psetp 0 2 ⟨3, .mir⟩ ⟨4, .ident⟩ .andn) ∧
    reads (v2 0x31 0 9 0 0 0 0 0 0) (.p2v 0 (.v 9)) ∧ reads (v2 0x32 0 0 fa fk 0 0 0 0) (.v2p 0 va kh) ∧ reads (v2 0x33 0 9 fa fk 4 0 0 0) (.shuf 0 (.v 9) va kh .rot) ∧
    reads (v2 0x34 0 2 3 0 2 0 0 0) (.vote 0 (.uni 2) ⟨3, .ident⟩) ∧ reads (v2 0x34 0 9 3 0 3 0 0 0) (.vote 0 (.ballot (.v 9)) ⟨3, .ident⟩) ∧
    reads (v2 0x35 0 9 fa 0 8 2 0 0) (.redoct 0 (.v 9) va .fadd .rdn) ∧ reads (v2 0x36 0 9 8 0 1 0 0 0) (.matchL 0 (.v 9) (.v 8 .ident) true) ∧
    reads (v3 0x37 0 9 fa fk 8) (.idot4 0 (.v 9) va kh (.v 8 .ident)) := by
  decide
/-- -|A| and |B|: ABSB is bit 3, NEGB bit 2, ABSA bit 1, NEGA bit 0 of the four. -/
abbrev na : FSrc := ⟨va, true, true⟩
abbrev nb : FSrc := ⟨kh, true, false⟩
theorem words_float :
    reads (v2 0x40 0 9 fa fk 0 3 0xB 0) (.fadd 0 (.v 9) na nb .rup) ∧ reads (v2 0x41 0 9 fa fk 0 1 0xB 0) (.fsub 0 (.v 9) na nb .rtz) ∧ reads (v2 0x42 0 9 fa fk 0 0 0xB 0) (.fmul 0 (.v 9) na nb .rne) ∧
    reads (v3 0x43 0 9 fa fk 8) (.ffma 0 (.v 9) va kh (.v 8 .ident)) ∧ reads (v2 0x44 0 9 fa fk 0 0 0xB 0) (.fmin 0 (.v 9) na nb) ∧ reads (v2 0x45 0 9 fa fk 0 0 0xB 0) (.fmax 0 (.v 9) na nb) ∧
    reads (v2 0x46 0 2 fa fk 7 0 0xB 0) (.fsetp 0 2 na nb .nan) ∧ reads (v2 0x47 0 9 fa 0 0 0 3 0) (.frcp 0 (.v 9) na) ∧ reads (v2 0x48 0 9 fa 0 0 0 3 0) (.frsq 0 (.v 9) na) ∧
    reads (v2 0x49 0 9 fa 0 0 2 3 0) (.fsqrt 0 (.v 9) na .rdn) ∧ reads (v2 0x4A 0 9 fa fk 0 2 0xB 0) (.fdiv 0 (.v 9) na nb .rdn) ∧ reads (v2 0x4B 0 9 fa 0 0 0 3 0) (.fexp2 0 (.v 9) na) ∧
    reads (v2 0x4C 0 9 fa 0 0 0 3 0) (.flog2 0 (.v 9) na) ∧ reads (v2 0x4D 0 9 fa 0 0 0 3 0) (.fsin 0 (.v 9) na) ∧ reads (v2 0x4E 0 9 fa 0 0 0 3 0) (.fcos 0 (.v 9) na) ∧
    reads (v2 0x4F 0 9 fa 0 0 0 3 0) (.ftanh 0 (.v 9) na) ∧ reads (v2 0x50 0 9 fa 0 0 1 3 0) (.frnd 0 (.v 9) na .rtz) ∧ reads (v2 0x51 0 9 fa 0 0 0 3 0) (.fclass 0 (.v 9) na) ∧
    reads (v2 0x52 0 9 fa fk 0 1 3 0) (.fscale 0 (.v 9) na kh .rtz) ∧ reads (v2 0x53 0 9 fa fk 0 0 0xB 2) (.hadd2 0 (.v 9) na nb true) ∧ reads (v2 0x54 0 9 fa fk 0 0 0xB 1) (.hsub2 0 (.v 9) na nb false) ∧
    reads (v2 0x55 0 9 fa fk 0 0 0xB 2) (.hmul2 0 (.v 9) na nb true) ∧ reads (v3 0x56 0 9 fa fk 8) (.hfma2 0 (.v 9) va kh (.v 8 .ident)) ∧ reads (v2 0x57 0 9 fa fk 0 0 0xB 1) (.hmin2 0 (.v 9) na nb false) ∧
    reads (v2 0x58 0 9 fa fk 0 0 0xB 2) (.hmax2 0 (.v 9) na nb true) ∧ reads (v2 0x59 0 9 fa fk 0 3 0 1) (.cvt 0 (.v 9) va (some kh) .fp32 .fp16 .rup) ∧
    reads (v2 0x59 0 10 fa 0 8 0 0 11) (.cvt 0 (.v 10) va none .int32 .uint64 .rne) ∧ reads (v2 0x5A 0 9 8 fk 3 1 0 0) (.pack8 0 (.v 9) (.v 8 .ident) kh true true .rtz) ∧
    reads (v2 0x5B 0 12 fa fk 0 1 0 0) (.unpack8 0 (.v 12) va (some kh) .rtz) ∧ reads (v2 0x5B 0 10 fa 0 2 0 0 0) (.unpack8 0 (.v 10) va none .rne) ∧
    reads (v2 0x5C 0 9 fa fk 0 0 0 0) (.bscale 0 (.v 9) va kh) := by
  decide
theorem words_memory :
    reads (fm 0x80 0 12 8 1 5 7 4 3 0x3FFF) (.ld 0 (.v 12) ⟨8, 0x3FFF, .pers, .s128, 7, .pod, .acq⟩) ∧ reads (fm 0x81 0 1551 8 2 3 0 0 0 1) (.st 0 (.q 15) ⟨8, 1, .gen, .s8, 0, .die, .rel⟩) ∧
    reads (fm 0x82 0 2047 8 0 0 6 1 2 0) (.ldro 0 .vz ⟨8, 0, .ro, .s16, 6, .thread, .rlx⟩) ∧ reads (fm 0x83 0 9 8 3 2 0 2 1 0) (.lds 0 (.v 9) ⟨8, 0, .spad, .s32, 0, .cluster, .sc⟩) ∧
    reads (fm 0x84 0 10 8 2 1 0 3 1 0) (.sts 0 (.v 10) ⟨8, 0, .spad, .s64, 0, .block, .rel⟩) ∧
    reads (ma 0x85 0 9 8 3 6 1 2 fk) (.atomAdd 0 (.v 9) ⟨8, .s32, 1, .system, .sc, kh⟩) ∧ reads (ma 0x86 0 9 8 0 4 0 2 6) (.atomMin 0 (.v 9) ⟨8, .s32, 0, .package, .rlx, .v 6 .ident⟩) ∧
    reads (ma 0x87 0 9 8 0 4 0 2 6) (.atomMax 0 (.v 9) ⟨8, .s32, 0, .package, .rlx, .v 6 .ident⟩) ∧ reads (ma 0x88 0 9 8 0 4 0 2 6) (.atomMinu 0 (.v 9) ⟨8, .s32, 0, .package, .rlx, .v 6 .ident⟩) ∧
    reads (ma 0x89 0 9 8 0 4 0 2 6) (.atomMaxu 0 (.v 9) ⟨8, .s32, 0, .package, .rlx, .v 6 .ident⟩) ∧ reads (ma 0x8A 0 9 8 0 4 0 2 6) (.atomAnd 0 (.v 9) ⟨8, .s32, 0, .package, .rlx, .v 6 .ident⟩) ∧
    reads (ma 0x8B 0 9 8 0 4 0 2 6) (.atomOr 0 (.v 9) ⟨8, .s32, 0, .package, .rlx, .v 6 .ident⟩) ∧ reads (ma 0x8C 0 9 8 0 4 0 2 6) (.atomXor 0 (.v 9) ⟨8, .s32, 0, .package, .rlx, .v 6 .ident⟩) ∧
    reads (ma 0x8D 0 10 8 1 4 0 3 6) (.atomExch 0 (.v 10) ⟨8, .s64, 0, .package, .acq, .v 6 .ident⟩) ∧ reads (ma 0x8E 0 10 8 2 4 0 3 6) (.atomCas 0 (.v 10) ⟨8, .s64, 0, .package, .rel, .v 6 .ident⟩) ∧
    reads (ma 0x8F 0 9 8 0 4 0 2 6) (.atomFadd 0 (.v 9) ⟨8, .s32, 0, .package, .rlx, .v 6 .ident⟩) ∧ reads (ma 0x90 0 9 8 0 4 0 2 6) (.atomFmin 0 (.v 9) ⟨8, .s32, 0, .package, .rlx, .v 6 .ident⟩) ∧
    reads (ma 0x91 0 9 8 0 4 0 2 6) (.atomFmax 0 (.v 9) ⟨8, .s32, 0, .package, .rlx, .v 6 .ident⟩) ∧ reads (fm 0x92 0 0 0 3 6 0 0 0 0) (.fence 0 .sc .system) ∧
    reads (fm 0x93 0 0 8 0 0 7 2 2 5) (.pref 0 8 5 true .s32 7) ∧ reads (fm 0x94 0 0 0 0 0 0 0 0 0) (.cctlRoinv 0) ∧ reads (fm 0x94 0 1 0 0 0 0 0 0 0) (.cctlL1inv 0) ∧
    reads (fm 0x94 0 2 8 0 0 0 2 0 5) (.cctlL1line 0 8 5 .s32) ∧ reads (fm 0x94 0 3 8 0 0 0 2 0 5) (.cctlL2wb 0 8 5 .s32) ∧ reads (fm 0x94 0 4 8 0 0 0 2 0 5) (.cctlL2inv 0 8 5 .s32) ∧
    reads (fm 0x95 0 0 8 0 0 7 2 0 5) (.pwb 0 8 5 .s32 true) ∧ reads (fm 0x96 0 0 0 0 5 0 0 0 0) (.pbar 0 true) := by
  decide
theorem words_queue_control :
    reads (v2 0xA0 0 9 (1536 + 3) 0 1 0 0 0) (.qlen 0 (.v 9) 3 true) ∧ reads (v2 0xA1 0 9 (1536 + 3) 0 2 0 0 0) (.qtryPop 0 (.v 9) 3 2) ∧ reads (v2 0xA1 0 (1536 + 3) fa 0 2 0 0 0) (.qtryPush 0 3 va 2) ∧
    reads (v2 0xA2 0 0 (1536 + 3) 0 0 0 0 0) (.qclose 0 3) ∧ reads (v2 0xA3 0 2 (1536 + 3) 0 0 0 0 0) (.qeos 0 2 3) ∧ reads (vi 0xB0 1 0 0 0xFFFFFFE) (.bra 1 0xFFFFFFE) ∧
    reads (v2 0xB1 0 0 8 0 0 0 0 0) (.brx 0 (.v 8 .ident)) ∧ reads (vi 0xB2 0 10 0 7) (.call 0 (.v 10) 7) ∧ reads (v2 0xB3 0 0 (1552 + 2 * 3) 0 0 0 0 0) (.ret 0 (.k 6)) ∧ reads (vi 0xB4 3 0 0 0) (.exit 3) ∧
    reads (vi 0xB5 0 0 0 0) (.region 0) ∧ reads (vi 0xB6 0 0 0 0) (.yield 0) ∧ reads (vi 0xB7 0 0 0 0xFFFF) (.trap 0 0xFFFF) ∧ reads (vi 0xB8 0 0 0 9) (.bkpt 0 9) ∧
    reads (v2 0xB9 0 0 0 0 0 0 0 0) (.utret 0 .plain) ∧ reads (v2 0xB9 0 0 0 0 1 0 0 0) (.utret 0 .retry) ∧ reads (v2 0xB9 0 0 fa 0 2 0 0 0) (.utret 0 (.subst va)) ∧
    reads (v2 0xB9 0 0 8 0 3 0 0 0) (.utret 0 (.substW64 (.v 8 .ident))) ∧ reads (vi 0xBA 0 10 0 0x31) (.rdsr 0 (.v 10) 0x31) ∧ reads (vi 0xBB 0 0 fa 0x30) (.wrsr 0 0x30 va) ∧
    reads (vi 0xBC 0 0 0 1536) (.grow 0 1536) ∧ reads (vi 0xBD 0 0 0 64) (.shrink 0 64) ∧ reads (vi 0xBE 0 0 0 (2 ^ 20 - 1)) (.sleep 0 0xFFFFF) := by
  decide
theorem words_uniform :
    reads (fu 0xC0 2 1 126 127 0x80000000) (.kadd 2 1 126 127 0x80000000) ∧ reads (fu 0xC1 0 1 2 3 4) (.ksub 0 1 2 3 4) ∧ reads (fu 0xC2 0 1 2 3 4) (.kmul 0 1 2 3 4) ∧ reads (fu 0xC3 0 1 2 3 4) (.kand 0 1 2 3 4) ∧
    reads (fu 0xC4 0 1 2 3 4) (.kor 0 1 2 3 4) ∧ reads (fu 0xC5 0 1 2 3 4) (.kxor 0 1 2 3 4) ∧ reads (fu 0xC6 0 1 2 3 4) (.kshl 0 1 2 3 4) ∧ reads (fu 0xC7 0 1 2 3 4) (.kshr 0 1 2 3 4) ∧
    reads (fu 0xC8 0 1 2 3 4) (.kmin 0 1 2 3 4) ∧ reads (fu 0xC9 0 1 2 3 4) (.kmax 0 1 2 3 4) ∧ reads (fu 0xCA 0 1 2 3 6) (.kset 0 1 2 3 .ltu) ∧ reads (fu 0xCB 0 1 0 0 4) (.kmovi 0 1 4) ∧
    reads (fu 0xCC 0 1 2 0 4) (.kmovhi 0 1 2 4) ∧ reads (fu 0xCD 0 1 2 (1 + 6 * 4) 8) (.kld 0 1 2 .acq .system 8) ∧ reads (fu 0xCE 0 1 2 (2 + 5 * 4) 8) (.kst 0 1 2 .rel .pod 8) ∧
    reads (fu 0xCF 1 0 0 0 0xFFFFFFFF) (.kbra 1 0xFFFFFFFF) ∧ reads (fu 0xD0 0 0 2 0 9) (.kloop 2 9) ∧ reads 0xD1 .kend ∧ reads (fu 0xD2 0 1 0 0 0x40) (.krdsr 0 1 0x40) := by
  decide
theorem words_tiles :
    reads (fx 0xD3 0 0 63 0 0 2 5) (.talloc 0 63 .bf16 5) ∧ reads (fx 0xD4 0 0 63 0 0 0 0) (.tfree 0 63) ∧
    reads (fx 0xD5 0 0 63 0 0xA 0 (5 + 6 * 2 ^ 7 + 1 * 2 ^ 14 + 1 * 2 ^ 15 + 9 * 2 ^ 16)) (.tload 0 63 0xA 5 6 true true 9) ∧
    reads (fx 0xD6 0 0 63 0 0 0 (5 + 6 * 2 ^ 7 + 0 * 2 ^ 14 + 1 * 2 ^ 15 + 9 * 2 ^ 16)) (.tstore 0 63 5 6 false true 9) ∧ reads (fx 0xD7 0 0 63 0 0 0 0) (.tset 0 63) ∧
    reads (fx 0xD8 0 15 (62 + 3 * 64) 61 0 4 (2 + 4)) (.mma 0 15 ⟨62, 3, false⟩ ⟨61, 0, true⟩ .int8 true) ∧ reads (fx 0xD9 0 15 0 0 0 0 0) (.aalloc 0 15) ∧ reads (fx 0xDA 0 15 0 0 0 0 0) (.afree 0 15) ∧
    reads (fx 0xDB 0 15 0 0 0 0 0) (.aclr 0 15) ∧ reads (fx 0xDC 0 15 0 0 0 3 (5 + 6 * 2 ^ 7 + 1 * 2 ^ 14 + 0x13 * 2 ^ 16)) (.astore 0 15 (.rows 5 6 true) .b8 0x13) ∧
    reads (fx 0xDC 0 15 63 0 0 1 (2 ^ 15)) (.astore 0 15 (.tile 63) .fp16 0) ∧ reads (fx 0xDD 0 15 0 0 0 8 (5 + 6 * 2 ^ 7 + 1 * 2 ^ 14)) (.aload 0 15 true 5 6 true) := by
  decide
theorem words_engines :
    reads (fx 0xDE 0 0 0 0 0 3 (11 + 12 * 2 ^ 7 + 10 * 2 ^ 14 + 3 * 2 ^ 21)) (.cpy 0 true 3 10 11 12) ∧ reads (fx 0xDF 0 0 0 0 0 0 (11 + 12 * 2 ^ 7 + 10 * 2 ^ 14 + 3 * 2 ^ 21)) (.cpya 0 false 3 10 11 12) ∧
    reads (fx 0xE0 0 0 0 0 0 0 (11 + 12 * 2 ^ 7 + 10 * 2 ^ 14 + 3 * 2 ^ 21)) (.cpyg 0 3 10 11 12) ∧ reads (fx 0xE1 0 0 0 0 0 0 (11 + 12 * 2 ^ 7 + 10 * 2 ^ 14 + 3 * 2 ^ 21)) (.cpys 0 3 10 11 12) ∧
    reads (fx 0xE2 0 0 0 0 0 0 (11 + 12 * 2 ^ 7 + 3 * 2 ^ 21)) (.cpyq 0 3 11 12) ∧ reads (fx 0xE3 0 0 0 0 0 0 (11 + 12 * 2 ^ 7 + 10 * 2 ^ 14 + 3 * 2 ^ 21)) (.cpyec 0 3 10 11 12) ∧
    reads (fx 0xE4 0 0 0 0 0 0 (7 + 9 * 2 ^ 21)) (.cpycan 0 7 false 9) ∧ reads (fx 0xE4 0 0 0 0 0 0 (7 + 2 ^ 7)) (.cpycan 0 7 true 0) ∧
    reads (fu 0xE5 0 0 3 0 (14 + 1 * 2 ^ 4 + 2 * 2 ^ 5 + 0xFFFF * 2 ^ 8)) (.qcfg 0 14 3 true 2 0xFFFF) ∧ reads (fu 0xE6 0 0 0 0 14) (.qrel 0 14) ∧
    reads (fx 0xE7 0 0 63 0 0 0 (0xFFFF + 15 * 2 ^ 16)) (.strm 0 63 0xFFFF 15) ∧ reads (fx 0xE8 0 0 0 0 0 0 (15 * 2 ^ 16)) (.strmstop 0 15) ∧ reads (fu 0xE9 0 0 3 0 64) (.launch 0 3 64) ∧
    reads (fu 0xEA 0 0 3 0 64) (.coll 0 3 64) ∧ reads (fu 0xEB 0 2 3 0 0) (.step 0 2 3) := by
  decide
theorem words_sync :
    reads (vi 0xF0 0 9 0 15) (.barArrive 0 (.v 9) 15) ∧ reads (vi 0xF1 0 0 0 (15 + 16)) (.barWait 0 15 (.imm true)) ∧ reads (vi 0xF1 0 0 fk (15 + 32)) (.barWait 0 15 (.reg kh false)) ∧ reads (vi 0xF1 0 0 fk (15 + 16 + 32)) (.barWait 0 15 (.reg kh true)) ∧ reads (vi 0xF2 0 0 0 15) (.barSync 0 15) ∧
    reads (vi 0xF3 0 0 fk (15 + 64 + 0x1FFFFF * 2 ^ 7)) (.barExpect 0 15 .bytes (some kh) 0x1FFFFF) ∧ reads (vi 0xF3 0 0 0 (15 + 2 * 16)) (.barExpect 0 15 .all none 0) ∧ reads (vi 0xF4 0 0 0 0) (.cbar 0) ∧
    reads (vi 0xF5 0 0 0 (1 + 2 * 2 ^ 6 + 3 * 2 ^ 12 + 4 * 2 ^ 18)) (.wait 0 1 2 3 4) ∧ reads (vi 0xF6 0 0 8 1) (.signal 0 (.v 8) .add) ∧ reads (vi 0xF6 0 0 (1552 + 2 * 126) 2) (.signal 0 (.k 126) .maxu) := by
  decide

/-! ### Ill-formed terms, one for each check of WellFormed -/

theorem ill_formed_operands :
    ∀ i ∈ ([.add64 0 (.v 9) (.v 8 .ident) (.v 8 .ident), .sub64 0 (.v 8) (.k 7) (.v 8 .ident), .add64 0 (.v 8) (.v 8 .ident) (.v 1535 .ident), .shl64 0 (.v 1535) (.v 8 .ident) (.v 1 .ident),
      .shr64 0 (.v 8) (.v 7 .ident) (.v 1 .ident) true, .lea 0 (.v 8) (.k 1) (.v 1 .ident) 0 false, .mov 0 (.v 9) (.v 8 .ident) .w64, .mov 0 (.v 10) (.v 8 .ident) .w128,
      .mov 0 (.v 8) (.k 4) .w128, .redoct 0 (.v 1) (.v 2 .ident) .fmin .rtz, .matchL 0 (.v 1) (.v 3 .ident) true] : List Instr), i.wf = false := by decide
theorem ill_formed_conversions :
    ∀ i ∈ ([.cvt 0 (.v 1) (.v 2 .ident) none .fp32 .b8 .rne, .cvt 0 (.v 1) (.v 2 .ident) (some (.v 3 .ident)) .fp32 .int8 .rne, .cvt 0 (.v 1) (.v 2 .ident) none .int32 .int64 .rne,
      .cvt 0 (.v 2) (.v 3 .ident) none .int64 .int32 .rne, .cvt 0 (.v 2) (.v 2 .ident) none .int64 .fp16 .rne, .cvt 0 (.v 2) (.v 2 .ident) none .fp32 .bf16 .rne,
      .cvt 0 (.v 3) (.v 2 .ident) none .fp16 .fp32 .rne, .cvt 0 (.v 2) (.v 2 .ident) (some (.v 3 .ident)) .fp16 .bf16 .rne, .pack8 0 (.v 1) (.v 2 .ident) (.v 3 .ident) false false .rne,
      .pack8 0 (.v 1) (.v 3 .ident) (.v 3 .ident) false true .rne, .unpack8 0 (.v 2) (.v 3 .ident) (some (.v 3 .ident)) .rne, .unpack8 0 (.v 3) (.v 3 .ident) none .rne] : List Instr), i.wf = false := by decide
theorem ill_formed_memory :
    ∀ i ∈ ([.ld 0 (.v 1) ⟨3, 0, .gen, .s32, 0, .thread, .rlx⟩, .ld 0 (.v 1) ⟨2, 0, .gen, .s32, 0, .thread, .rel⟩, .ld 0 (.q 1) ⟨2, 0, .gen, .s32, 0, .thread, .rlx⟩,
      .ld 0 (.v 1) ⟨2, 0, .gen, .s64, 0, .thread, .rlx⟩, .ld 0 (.v 1) ⟨2, 0, .ro, .s32, 0, .thread, .rlx⟩, .ld 0 (.v 1) ⟨2, 0, .spad, .s32, 1, .thread, .rlx⟩,
      .st 0 (.v 1) ⟨2, 0, .gen, .s32, 0, .thread, .acq⟩, .st 0 (.v 2) ⟨2, 0, .gen, .s128, 0, .thread, .rlx⟩, .st 0 (.v 2) ⟨2, 0, .ro, .s32, 0, .thread, .rlx⟩,
      .ldro 0 (.v 2) ⟨2, 0, .ro, .s32, 0, .thread, .acq⟩, .ldro 0 (.v 2) ⟨2, 0, .ro, .s32, 0, .block, .rlx⟩, .ldro 0 (.v 2) ⟨2, 0, .gen, .s32, 0, .thread, .rlx⟩,
      .lds 0 (.v 2) ⟨2, 0, .gen, .s32, 0, .thread, .rlx⟩, .lds 0 (.v 2) ⟨2, 0, .spad, .s32, 1, .thread, .rlx⟩, .sts 0 (.v 2) ⟨2, 0, .gen, .s32, 0, .thread, .rlx⟩, .sts 0 (.v 2) ⟨2, 0, .spad, .s32, 7, .thread, .rlx⟩,
      .atomAdd 0 (.v 2) ⟨3, .s32, 0, .die, .rlx, .v 4 .ident⟩, .atomMin 0 (.q 2) ⟨2, .s32, 0, .die, .rlx, .v 4 .ident⟩, .atomMax 0 (.v 2) ⟨2, .s32, 0, .die, .rlx, .v 4 .rot1⟩,
      .atomOr 0 (.v 2) ⟨2, .s16, 0, .die, .rlx, .v 4 .ident⟩, .atomXor 0 (.v 3) ⟨2, .s64, 0, .die, .rlx, .v 4 .ident⟩, .atomAnd 0 (.v 2) ⟨2, .s64, 0, .die, .rlx, .v 5 .ident⟩,
      .atomCas 0 (.v 2) ⟨2, .s32, 0, .die, .rlx, .k 4⟩, .atomCas 0 (.v 2) ⟨2, .s32, 0, .die, .rlx, .v 1535 .ident⟩, .atomCas 0 (.v 2) ⟨2, .s64, 0, .die, .rlx, .v 1534 .ident⟩,
      .atomFadd 0 (.v 2) ⟨2, .s64, 0, .die, .rlx, .v 4 .ident⟩, .fence 0 .rlx .die, .pref 0 3 0 false .s8 0, .cctlL1line 0 3 0 .s8, .cctlL2wb 0 3 0 .s8, .cctlL2inv 0 3 0 .s8, .pwb 0 3 0 .s8 false] : List Instr),
      i.wf = false := by decide
theorem ill_formed_control :
    ∀ i ∈ ([.qlen 0 (.q 1) 0 false, .qtryPop 0 (.q 1) 0 1, .qtryPush 0 0 (.q 1) 1, .brx 0 (.v 3 .ident), .brx 0 (.q 3), .ret 0 (.k 5), .call 0 (.v 3) 0, .call 0 (.q 2) 0, .utret 0 (.substW64 (.v 3 .ident)),
      .rdsr 0 (.v 1) 0x003, .rdsr 0 (.v 1) 0x040, .wrsr 0 0x033 (.v 2 .ident), .wrsr 0 0x031 (.v 3 .ident), .wrsr 0 0xFFF (.v 2 .ident), .grow 0 0, .grow 0 65, .shrink 0 1600] : List Instr), i.wf = false := by decide
theorem ill_formed_uniform :
    ∀ i ∈ ([.kld 0 1 2 .rel .die 0, .kst 0 1 2 .acq .die 0, .krdsr 0 1 0x062, .krdsr 0 1 0x003, .talloc 0 0 .fp32 0, .mma 0 0 ⟨0, 0, false⟩ ⟨0, 0, false⟩ .uint8 false,
      .mma 0 0 ⟨0, 1, true⟩ ⟨0, 0, false⟩ .int8 false, .mma 0 0 ⟨0, 0, false⟩ ⟨0, 1, true⟩ .int8 false, .astore 0 0 (.rows 0 0 false) .int8 0, .astore 0 0 (.tile 0) .fp32 0,
      .astore 0 0 (.rows 0 0 false) .fp32 1, .astore 0 0 (.tile 0) .b8 0x10, .astore 0 0 (.tile 0) .b8 0x20, .cpya 0 false 0 0 0 127, .cpyg 0 0 0 0 127, .cpys 0 0 0 0 127, .cpycan 0 0 true 1,
      .qcfg 0 0 0 false 0 0, .barArrive 0 (.q 0) 0, .barWait 0 0 (.reg (.q 0) false), .barWait 0 0 (.reg (.v 0 .mir) true), .barExpect 0 0 .bytes (some (.q 0)) 0, .barExpect 0 0 .all none 1,
      .signal 0 (.v 3) .set, .signal 0 (.k 127) .set] : List Instr), i.wf = false := by decide

/-! ### One step of one instruction, with results that the spec's examples and pseudocode give -/

/-- The state after a bundle of the placed octet has executed a word, its threads first changed by `f`. -/
def ran (w : Nat) (f : Nat → Thread → Thread) : Option State :=
  let s := rs.withFetchWord 64 w
  match step { s with blocks := s.blocks.map fun k => { k with threads := k.threads.mapIdx fun i x => f i { x with opening := false } } } with
  | .next t => some t
  | _ => none
/-- The registers from `n` of every lane. -/
def regs (n : Nat) (s : Option State) : List Word := (s.bind fun t => t.blocks[0]?).elim [] fun k => k.threads.map fun x => x.v.getD n 0
def thr (s : Option State) : Option Thread := (s.bind fun t => t.blocks[0]?).bind fun k => k.threads[0]?
def with2 (a b : List Word) (i : Nat) (x : Thread) : Thread := { x with v := (x.v.set 4 (a.getD i 0)).set 5 (b.getD i 1) }
def dividends : List Word := [0xFFFFFFF9, 7, 0x80000000, 5]
def divisors : List Word := [2, 0xFFFFFFFE, 0xFFFFFFFF, 0]
/-- 05 R136, the example's four rows. -/
theorem test_idiv : (regs 6 (ran (v2 0x08 0 6 4 5 0 0 0 0) (with2 dividends divisors))).take 4 = [0xFFFFFFFD, 0xFFFFFFFD, 0x80000000, 0xFFFFFFFF] := by decide +kernel
theorem test_irem : (regs 6 (ran (v2 0x0A 0 6 4 5 0 0 0 0) (with2 dividends divisors))).take 4 = [0xFFFFFFFF, 1, 0, 5] := by decide +kernel
theorem test_idivu : (regs 6 (ran (v2 0x09 0 6 4 5 0 0 0 0) (with2 dividends divisors))).take 4 = [0x7FFFFFFC, 0, 0, 0xFFFFFFFF] := by decide +kernel
theorem test_iremu : (regs 6 (ran (v2 0x0B 0 6 4 5 0 0 0 0) (with2 dividends divisors))).take 4 = [1, 7, 0x80000000, 5] := by decide +kernel
/-- 05 R135: −2 × 3 and 0xFFFFFFFE × 3. -/
theorem test_imulhi : (regs 6 (ran (v2 0x05 0 6 4 5 0 0 0 0) (with2 [0xFFFFFFFE] [3]))).take 1 = [0xFFFFFFFF] := by decide +kernel
theorem test_imulhu : (regs 6 (ran (v2 0x06 0 6 4 5 0 0 0 0) (with2 [0xFFFFFFFE] [3]))).take 1 = [2] := by decide +kernel
/-- 05 R145, the example: P2 in every lane but lane 1. -/
theorem test_isetp_x1 :
    ((ran 0x200200600140102F fun i x => { x with v := (x.v.set 5 (BitVec.ofNat 32 i)).set 6 (BitVec.ofNat 32 (10 * i)) }).bind fun t => t.blocks[0]?).elim [] (fun k => k.threads.map fun x => x.pred.getLsbD 2) =
      [true, false, true, true, true, true, true, true] := by decide +kernel
/-- 05 R149, R153, the example: 1.0 in every lane. -/
theorem test_redoct_fadd :
    regs 8 (ran (v2 0x35 0 8 9 0 8 0 0 0) fun i x => { x with v := x.v.set 9 ([0x4B800000, 0x3F800000, 0xCB800000, 0x3F800000].getD i 0) }) = List.replicate 8 0x3F800000 := by decide +kernel
/-- 07 R196, R197, the example. -/
theorem test_bscale : (regs 12 (ran (v2 0x5C 0 12 4 5 0 0 0 0) (with2 [0x42C80000] [4]))).take 1 = [0x7E04] := by decide +kernel
theorem test_pack8_head :
    (regs 20 (ran 0x200000C00200A05A fun _ x => { x with v := ((x.v.set 8 0x42C80000).set 9 0xC0400000).set 12 0x7E04 })).take 1 = [0xD47C7E04] := by decide +kernel
/-- 06 R171, the example's four elements: 0.15625, −2^−12, 60, NaN. -/
theorem test_unpack8 :
    let t := thr (ran (v2 0x5B 0 8 4 5 0 0 0 0) (with2 [0x807F813A] [0x7D04]))
    (t.elim [] fun x => (x.v.drop 8).take 4) = [0x3E200000, 0xB9800000, 0x42700000, 0x7FC00000] := by decide +kernel
/-- 12 R351: 2 × 0x34 and 4 × 0x56 in the field. -/
theorem test_gmul : gmul 2 0x34 = 0x68 ∧ gmul 4 0x56 = 0x45 ∧ gmul 0x80 2 = 0x1D := by decide
/-- 08 R204, 02 R53: the target is the header two words after the clause's own, its first instruction one word on. -/
theorem test_bra : (thr (ran (vi 0xB0 0 0 0 2) fun _ x => x)).map (fun x => (x.pc, x.status)) = some (0x10118, .ready false) := by decide +kernel
theorem test_exit : (thr (ran 0xB4 fun _ x => x)).map (·.status) = some .exiting := by decide +kernel
/-- A K instruction at the placed sequencer. -/
def kran (w : Nat) : Option Block :=
  let s := rs.withFetchWord 64 w
  match step { s with blocks := s.blocks.map fun k => { k with k := (k.k.set 1 0xFFFFFFFFFFFFFFFF).set 2 3 } } with
  | .next t => t.blocks[0]?
  | _ => none
/-- 14 R393: wrap of 2^64 − 1 + (3 − 1); a write of K0 is discarded; the zero-trip loop leaves. -/
theorem test_kadd : (kran (fu 0xC0 0 3 1 2 0xFFFFFFFF)).map (·.k.getD 3 0) = some 1 := by decide +kernel
theorem test_k0 : (kran (fu 0xC0 0 0 1 2 5)).map (fun k => k.kreg 0) = some 0 := by decide +kernel
theorem test_kloop : (kran (fu 0xD0 0 0 2 0 9)).map (fun k => k.seq.loops) = some [(0x10110, 3)] := by decide +kernel

end Sys2Proof.Tests
end

section
/-! SUPPORT. The records of a save area, written and read again (08 R238, R239; 12 R335; 18 R487). -/

namespace Sys2Proof.Machine

/-! ### Records as lists of little-endian fields (00 R13) -/

theorem ofBytes_toBytes (v n : Nat) : ofBytes (toBytes v n) = v % 256 ^ n := by
  induction n generalizing v with
  | zero => simp [toBytes, ofBytes, Nat.mod_one]
  | succ n ih => rw [toBytes, ofBytes, ih, Nat.pow_succ', Nat.mod_mul, BitVec.toNat_ofNat]

theorem toBytes_one (v : Nat) : toBytes v 1 = [BitVec.ofNat 8 v] := rfl

theorem toBytes_zero (n : Nat) : toBytes 0 n = List.replicate n 0 := by
  induction n with
  | zero => rfl
  | succ n ih => rw [toBytes, List.replicate_succ, Nat.zero_div, ih]; rfl

theorem rdN_append_right (a b : List Byte) (o n : Nat) : rdN (a ++ b) (a.length + o) n = rdN b o n := by
  rw [rdN, List.drop_append, List.drop_of_length_le (by omega), Nat.add_sub_cancel_left]; rfl

/-- The bytes of a record, whose fields are given as widths in bytes with values. -/
def fieldBytes (l : List (Nat × Nat)) : List Byte := l.flatMap fun f => toBytes f.2 f.1

/-- The field of a record that begins at an offset. -/
def fieldAt : List (Nat × Nat) → Nat → Option (Nat × Nat)
  | [], _ => none
  | f :: l, o => if o = 0 then some f else if f.1 ≤ o then fieldAt l (o - f.1) else none

theorem rdN_fieldBytes {l : List (Nat × Nat)} {o n v : Nat} (h : fieldAt l o = some (n, v)) (rest : List Byte) :
    rdN (fieldBytes l ++ rest) o n = v % 256 ^ n := by
  induction l generalizing o with
  | nil => cases h
  | cons f l ih =>
    have e : fieldBytes (f :: l) ++ rest = toBytes f.2 f.1 ++ (fieldBytes l ++ rest) := by simp [fieldBytes]
    rw [fieldAt] at h
    rw [e]
    split at h
    · next ho =>
      obtain rfl := Option.some.inj h
      rw [ho, rdN, List.drop_zero, List.take_left' (toBytes_length ..), ofBytes_toBytes]
    · split at h
      · next hle =>
        have shift := rdN_append_right (toBytes f.2 f.1) (fieldBytes l ++ rest) (o - f.1) n
        rw [toBytes_length, Nat.add_sub_cancel' hle] at shift
        rw [shift, ih h]
      · cases h

theorem rdN_of_fieldBytes {l : List (Nat × Nat)} {o n v : Nat} (h : fieldAt l o = some (n, v)) :
    rdN (fieldBytes l) o n = v % 256 ^ n := by
  simpa using rdN_fieldBytes h []

theorem ofNat_mod_field {w n : Nat} (x : BitVec w) (hw : w ≤ 8 * n) : BitVec.ofNat w (x.toNat % 256 ^ n) = x := by
  have hx : x.toNat < 256 ^ n := calc
    x.toNat < 2 ^ w := x.isLt
    _ ≤ 2 ^ (8 * n) := Nat.pow_le_pow_right (by decide) hw
    _ = 256 ^ n := by rw [Nat.pow_mul]
  rw [Nat.mod_eq_of_lt hx, BitVec.ofNat_toNat, BitVec.setWidth_eq]

theorem nbit_eq_of_div_mod {v i : Nat} {b : Bool} (h : v / 2 ^ i % 2 = b2n b) : nbit v i = b := by
  rw [nbit, h]; cases b <;> rfl

@[simp] theorem b2n_true : b2n true = 1 := rfl
@[simp] theorem b2n_false : b2n false = 0 := rfl
theorem b2n_le (b : Bool) : b2n b ≤ 1 := by cases b <;> decide

/-- Records of one length, one after another, are found again by their numbers. -/
theorem map_range_flatMap {α β : Type} (f : α → List Byte) (c : Nat) (hc : ∀ x, (f x).length = c) (g : List Byte → β)
    (l : List α) (a rest : List Byte) :
    ((List.range l.length).map fun i => g (((a ++ (l.flatMap f ++ rest)).drop (a.length + c * i)).take c)) = l.map fun x => g (f x) := by
  induction l generalizing a with
  | nil => rfl
  | cons x l ih =>
    have tail := ih (a ++ f x)
    rw [List.length_append, hc] at tail
    rw [List.length_cons, List.range_succ_eq_map, List.map_cons, List.map_map, List.map_cons, ← tail]
    congr 1
    · simp [List.take_left' (hc x)]
    · refine List.map_congr_left fun i _ => ?_
      simp [Nat.mul_succ, Nat.add_assoc, Nat.add_comm c]

/-! ### Barrier and queue records (18 R487; 12 R335) -/

/-- The fields of a barrier record. -/
def Barrier.fields (x : Barrier) : List (Nat × Nat) :=
  [(2, x.expected.getD 0xFFFF), (2, x.arrived), (1, b2n x.phase), (3, 0), (8, x.pending.toNat)]

theorem Barrier.bytes_eq (x : Barrier) : x.bytes = fieldBytes x.fields := by
  have phase : toBytes (b2n x.phase) 4 = toBytes (b2n x.phase) 1 ++ toBytes 0 3 := by cases x.phase <;> rfl
  simp [Barrier.bytes, Barrier.fields, fieldBytes, phase]

theorem Barrier.ofBytes_bytes (x : Barrier) (ha : x.arrived < 65536) (he : ∀ n, x.expected = some n → n < 65535) :
    Barrier.ofBytes x.bytes = x := by
  have read {o n v : Nat} (hf : fieldAt x.fields o = some (n, v)) : rdN x.bytes o n = v % 256 ^ n := by
    rw [x.bytes_eq]; exact rdN_of_fieldBytes hf
  have expected : rdN x.bytes 0 2 = x.expected.getD 0xFFFF % 256 ^ 2 := read rfl
  have arrived : rdN x.bytes 2 2 = x.arrived % 256 ^ 2 := read rfl
  have phase : rdN x.bytes 4 1 = b2n x.phase % 256 ^ 1 := read rfl
  have pending : rdN x.bytes 8 8 = x.pending.toNat % 256 ^ 8 := read rfl
  obtain ⟨ex, ar, ph, pe⟩ := x
  simp only [Barrier.ofBytes, expected, arrived, phase, pending, ofNat_mod_field pe (n := 8) (by decide), Barrier.mk.injEq, and_true]
  refine ⟨?_, Nat.mod_eq_of_lt ha, ?_⟩
  · cases ex with
    | none => rfl
    | some n =>
      have := he n rfl
      rw [Option.getD_some, Nat.mod_eq_of_lt (by omega), if_neg (by omega)]
  · cases ph <;> rfl

/-- Byte 10 of a queue record: the carved bit, the mode, and the closed and end-of-stream marks. -/
def Carve.marks (c : Carve) : Nat := 1 + 2 * b2n c.row + 4 * c.width + 16 * b2n c.closed + 32 * b2n (c.closed && c.count == 0)

/-- The fields of a carved queue's record. -/
def Carve.fields (c : Carve) : List (Nat × Nat) :=
  [(4, c.offset), (2, c.cap), (2, c.head), (2, c.count), (1, c.marks), (5, 0), (8, c.pushes.toNat), (8, c.pops.toNat)]

theorem Carve.bytes_eq (c : Carve) (h : c.carved = true) : c.bytes = fieldBytes c.fields := by
  simp [Carve.bytes, h, padTo, Carve.fields, Carve.marks, fieldBytes, toBytes_length, toBytes_zero]

theorem Carve.marks_read (c : Carve) (hw : c.width < 4) :
    nbit (c.marks % 256 ^ 1) 0 = true ∧ nbit (c.marks % 256 ^ 1) 1 = c.row ∧ nfld (c.marks % 256 ^ 1) 2 2 = c.width ∧
    nbit (c.marks % 256 ^ 1) 4 = c.closed := by
  have row := b2n_le c.row
  have closed := b2n_le c.closed
  have eos := b2n_le (c.closed && c.count == 0)
  have marks : c.marks % 256 ^ 1 = 1 + 2 * b2n c.row + 4 * c.width + 16 * b2n c.closed + 32 * b2n (c.closed && c.count == 0) :=
    Nat.mod_eq_of_lt (by unfold Carve.marks; omega)
  rw [marks]
  refine ⟨nbit_eq_of_div_mod ?_, nbit_eq_of_div_mod ?_, ?_, nbit_eq_of_div_mod ?_⟩
  · rw [b2n_true]; omega
  · omega
  · rw [nfld]; omega
  · omega

theorem Carve.ofBytes_bytes (c : Carve) (h : c.carved = true) (ho : c.offset < 2 ^ 32) (hcap : c.cap < 65536) (hh : c.head < 65536)
    (hn : c.count < 65536) (hw : c.width < 4) : Carve.ofBytes c.bytes c.tag = c := by
  have read {o n v : Nat} (hf : fieldAt c.fields o = some (n, v)) : rdN c.bytes o n = v % 256 ^ n := by
    rw [c.bytes_eq h]; exact rdN_of_fieldBytes hf
  obtain ⟨carved, row, width, closed⟩ := c.marks_read hw
  have offset : rdN c.bytes 0 4 = c.offset := (read rfl).trans (Nat.mod_eq_of_lt ho)
  have cap : rdN c.bytes 4 2 = c.cap := (read rfl).trans (Nat.mod_eq_of_lt hcap)
  have head : rdN c.bytes 6 2 = c.head := (read rfl).trans (Nat.mod_eq_of_lt hh)
  have count : rdN c.bytes 8 2 = c.count := (read rfl).trans (Nat.mod_eq_of_lt hn)
  have marks : rdN c.bytes 10 1 = c.marks % 256 ^ 1 := read rfl
  have pushes : rdN c.bytes 16 8 = c.pushes.toNat % 256 ^ 8 := read rfl
  have pops : rdN c.bytes 24 8 = c.pops.toNat % 256 ^ 8 := read rfl
  simp only [Carve.ofBytes, offset, cap, head, count, marks, pushes, pops, carved, row, width, closed,
    ofNat_mod_field _ (show 64 ≤ 8 * 8 by decide)]
  rw [← h]

/-! ### Store entries (08 R238) -/

@[simp] theorem Size.ofCode_code (x : Size) : Size.ofCode x.code = some x := by cases x <;> rfl
@[simp] theorem Path.ofCode_code (x : Path) : Path.ofCode x.code = some x := by cases x <;> rfl

theorem rebind_self (slot ea : Nat) : rebind slot slot ea = ea := by
  unfold rebind
  split <;> omega

/-- The fields of a store entry. -/
def BufStore.fields (x : BufStore) : List (Nat × Nat) :=
  [(8, x.addr), (1, x.size.code), (1, x.path.code), (1, b2n x.sts), (5, 0), (16, x.data.toNat)]

theorem BufStore.bytes_eq (x : BufStore) : x.bytes = fieldBytes x.fields := by
  simp [BufStore.bytes, BufStore.fields, fieldBytes, toBytes_one, toBytes_zero]

theorem BufStore.bytes_length (x : BufStore) : x.bytes.length = 32 := by simp [BufStore.bytes, toBytes_length]

theorem BufStore.ofBytes_bytes (x : BufStore) (slot : Nat) (ha : x.addr < 2 ^ 64) :
    BufStore.ofBytes x.bytes slot slot = { x with evict := 0 } := by
  have read {o n v : Nat} (hf : fieldAt x.fields o = some (n, v)) : rdN x.bytes o n = v % 256 ^ n := by
    rw [x.bytes_eq]; exact rdN_of_fieldBytes hf
  have addr : rdN x.bytes 0 8 = x.addr := (read rfl).trans (Nat.mod_eq_of_lt ha)
  have size : rdN x.bytes 8 1 = x.size.code := (read rfl).trans (by cases x.size <;> rfl)
  have path : rdN x.bytes 9 1 = x.path.code := (read rfl).trans (by cases x.path <;> rfl)
  have sts : (rdN x.bytes 10 1 == 1) = x.sts := by rw [read rfl]; cases x.sts <;> rfl
  have data : rdN x.bytes 16 16 = x.data.toNat % 256 ^ 16 := read rfl
  simp only [BufStore.ofBytes, addr, size, path, sts, data, rebind_self, ite_self, Size.ofCode_code, Path.ofCode_code, Option.getD_some,
    ofNat_mod_field x.data (n := 16) (by decide)]

/-! ### STATUS of a thread record (08 R238, R239) -/

/-- STATUS without its bit 7. -/
def TStatus.code : TStatus → Nat
  | .ready _ | .issued => 0
  | .parked (.queue _) => 1
  | .parked (.barrier _ _) | .parked (.cbar _) => 2
  | .parked (.wait _ _ _ _) | .parked (.limit _ _) | .parked (.pbar _) | .exiting => 3
  | .parked (.sleep _) => 4
  | .parked (.syscall _ _ _) => 5
  | .parked (.replay _) => 6
  | .parked (.grow _) => 7
  | .parked .meet => 8
  | .exited => 9

theorem TStatus.code_le (x : TStatus) : x.code ≤ 9 := by
  cases x with
  | parked p => cases p <;> simp [TStatus.code]
  | _ => simp [TStatus.code]

theorem TStatus.code_eq_nine_iff (x : TStatus) : x.code = 9 ↔ x = .exited := by
  cases x with
  | parked p => cases p <;> simp [TStatus.code]
  | _ => simp [TStatus.code]

theorem TStatus.code_eq_six_iff (x : TStatus) : x.code = 6 ↔ ∃ va, x = .parked (.replay va) := by
  cases x with
  | parked p => cases p <;> simp [TStatus.code]
  | _ => simp [TStatus.code]

theorem Thread.statusCode_eq (t : Thread) : t.statusCode = t.status.code + 128 * b2n t.intrap := by
  unfold Thread.statusCode TStatus.code; rfl

theorem Thread.statusCode_lt (t : Thread) : t.statusCode < 256 := by
  have code := t.status.code_le
  have intrap := b2n_le t.intrap
  rw [t.statusCode_eq]; omega

theorem Thread.statusCode_mod (t : Thread) : t.statusCode % 128 = t.status.code := by
  have code := t.status.code_le
  rw [t.statusCode_eq]; omega

theorem Thread.nbit_statusCode (t : Thread) : nbit t.statusCode 7 = t.intrap := by
  have code := t.status.code_le
  have intrap := b2n_le t.intrap
  rw [t.statusCode_eq]
  exact nbit_eq_of_div_mod (by omega)

theorem statusOf_sleep (t : Thread) (d regs : Nat) (hd : d < 2 ^ 64) (h : t.status = .parked (.sleep d)) :
    statusOf t.statusCode (t.wakeField % 256 ^ 8) regs = .parked (.sleep d) := by
  have wake : t.wakeField % 256 ^ 8 = d := by rw [Thread.wakeField, h]; exact Nat.mod_eq_of_lt hd
  rw [wake, statusOf, t.statusCode_mod, h]; rfl

theorem statusOf_barrier (t : Thread) (b : Nat) (p : Bool) (regs : Nat) (hb : b < 16) (h : t.status = .parked (.barrier b p)) :
    statusOf t.statusCode (t.wakeField % 256 ^ 8) regs = .parked (.barrier b p) := by
  have hp := b2n_le p
  have wake : t.wakeField % 256 ^ 8 = b + 16 * b2n p := by
    have number : t.wakeField = b + 16 * b2n p := by rw [Thread.wakeField, h]
    rw [number]; exact Nat.mod_eq_of_lt (by omega)
  have cluster : nbit (b + 16 * b2n p) 5 = false := nbit_eq_of_div_mod (by rw [b2n_false]; omega)
  have parity : nbit (b + 16 * b2n p) 4 = p := nbit_eq_of_div_mod (by omega)
  have number : (b + 16 * b2n p) % 16 = b := by omega
  rw [wake, statusOf, t.statusCode_mod, h]
  simp [TStatus.code, cluster, parity, number]

theorem statusOf_replay (t : Thread) (va wake regs : Nat) (h : t.status = .parked (.replay va)) :
    statusOf t.statusCode wake regs = .ready false := by
  rw [statusOf, t.statusCode_mod, h]; rfl

/-! ### Thread records (08 R238, R239) -/

/-- The fields of a thread record before its store entries. -/
def Thread.fields (t : Thread) (tid code : Nat) : List (Nat × Nat) :=
  [(8, t.pc.toNat), (8, (if t.opening then t.pc else t.rpc).toNat), (8, t.utvec.toNat), (8, t.uepc.toNat), (8, t.uepco.toNat), (8, t.wakeField),
    (4, t.flags.toNat), (4, t.ucause.toNat), (4, t.uspecit.toNat), (4, tid), (2, t.regs), (2, t.udst.toNat), (1, (t.pred ||| 1).toNat),
    (1, t.pend.toNat), (1, t.ulanes.toNat), (1, code), (1, t.stores.length), (7, 0), (4, t.epoch.toNat), (2, t.arrb.toNat), (42, 0)]

theorem Thread.bytes_eq (t : Thread) (tid code : Nat) : t.bytes tid code =
    fieldBytes (t.fields tid code) ++ (t.stores.flatMap BufStore.bytes ++ t.v.flatMap fun w => toBytes w.toNat 4) := by
  have pend : BitVec.ofNat 8 t.pend.toNat = t.pend.setWidth 8 := BitVec.ofNat_toNat ..
  simp [Thread.bytes, padTo, Thread.fields, fieldBytes, toBytes_length, toBytes_one, toBytes_zero, pend]

theorem Thread.fields_length (t : Thread) (tid code : Nat) : (fieldBytes (t.fields tid code)).length = 0x80 := by
  simp [fieldBytes, Thread.fields, toBytes_length]

theorem Thread.rdN_bytes (t : Thread) {tid code o n v : Nat} (h : fieldAt (t.fields tid code) o = some (n, v)) :
    rdN (t.bytes tid code) o n = v % 256 ^ n := by
  rw [t.bytes_eq]; exact rdN_fieldBytes h _

theorem Thread.ofNat_rdN_bytes (t : Thread) {tid code o n w : Nat} {x : BitVec w} (hw : w ≤ 8 * n)
    (h : fieldAt (t.fields tid code) o = some (n, x.toNat)) : BitVec.ofNat w (rdN (t.bytes tid code) o n) = x := by
  rw [t.rdN_bytes h, ofNat_mod_field x hw]

theorem Thread.rdN_bytes_status (t : Thread) (tid : Nat) : rdN (t.bytes tid t.statusCode) 0x47 1 = t.statusCode :=
  (t.rdN_bytes rfl).trans (Nat.mod_eq_of_lt t.statusCode_lt)

theorem Thread.stores_ofBytes (t : Thread) (tid code slot : Nat) (ha : ∀ x ∈ t.stores, x.addr < 2 ^ 64) :
    ((List.range t.stores.length).map fun i => BufStore.ofBytes (((t.bytes tid code).drop (0x80 + 32 * i)).take 32) slot slot) =
      t.stores.map fun x => { x with evict := 0 } := by
  have cut := map_range_flatMap BufStore.bytes 32 BufStore.bytes_length (fun r => BufStore.ofBytes r slot slot) t.stores
    (fieldBytes (t.fields tid code)) (t.v.flatMap fun w => toBytes w.toNat 4)
  rw [t.fields_length, ← t.bytes_eq] at cut
  rw [cut]
  exact List.map_congr_left fun x hx => x.ofBytes_bytes slot (ha x hx)

theorem Thread.v_ofBytes (t : Thread) (tid code : Nat) :
    ((List.range t.v.length).map fun i => BitVec.ofNat 32 (rdN (t.bytes tid code) (0x80 + 32 * t.stores.length + 4 * i) 4)) = t.v := by
  have cut := map_range_flatMap (fun w : Word => toBytes w.toNat 4) 4 (fun _ => toBytes_length ..) (fun r => BitVec.ofNat 32 (Machine.ofBytes r)) t.v
    (fieldBytes (t.fields tid code) ++ t.stores.flatMap BufStore.bytes) []
  have stores : (t.stores.flatMap BufStore.bytes).length = 32 * t.stores.length := by
    rw [List.length_flatMap]
    simp only [BufStore.bytes_length, List.map_const', List.sum_replicate_nat, Nat.mul_comm]
  rw [List.append_nil, List.length_append, t.fields_length, stores, List.append_assoc, ← t.bytes_eq] at cut
  have same (w : Word) : BitVec.ofNat 32 (Machine.ofBytes (toBytes w.toNat 4)) = w := by
    rw [ofBytes_toBytes, ofNat_mod_field w (by decide)]
  simpa only [same, List.map_id', rdN] using cut

theorem Thread.udst_ofBytes (t : Thread) (tid code : Nat) : BitVec.ofNat 32 (rdN (t.bytes tid code) 0x42 2 % 2048) = t.udst &&& 0x7FF := by
  have read : rdN (t.bytes tid code) 0x42 2 % 2048 = t.udst.toNat % 2048 := by
    rw [t.rdN_bytes rfl]; exact Nat.mod_mod_of_dvd _ (by decide)
  have low : t.udst.toNat &&& (2 ^ 11 - 1) = t.udst.toNat % 2 ^ 11 := Nat.and_two_pow_sub_one_eq_mod ..
  apply BitVec.eq_of_toNat_eq
  rw [read, BitVec.toNat_ofNat, BitVec.toNat_and, Nat.mod_eq_of_lt (by omega)]
  exact low.symm

/-- What STATUS, WAKE, PC and RPC say of the thread restored: what is parked on a barrier or in SLEEP stays so, and what awaits
replay is ready at RPC (08 R239). -/
theorem Thread.status_ofBytes (t : Thread) (tid cycle slot : Nat) (tag : BitVec 4) :
    let r := t.ofBytes (t.bytes tid t.statusCode) cycle slot slot tag
    r.intrap = t.intrap ∧
    ((∀ va, t.status ≠ .parked (.replay va)) → r.pc = t.pc) ∧
    (∀ d, d < 2 ^ 64 → t.status = .parked (.sleep d) → r.status = .parked (.sleep d)) ∧
    (∀ b p, b < 16 → t.status = .parked (.barrier b p) → r.status = .parked (.barrier b p)) ∧
    (∀ va, t.status = .parked (.replay va) → r.status = .ready false ∧ r.pc = if t.opening then t.pc else t.rpc) := by
  have wake : rdN (t.bytes tid t.statusCode) 0x28 8 = t.wakeField % 256 ^ 8 := t.rdN_bytes rfl
  have pc : BitVec.ofNat 64 (rdN (t.bytes tid t.statusCode) 0 8) = t.pc := t.ofNat_rdN_bytes (by decide) rfl
  have rpc : BitVec.ofNat 64 (rdN (t.bytes tid t.statusCode) 8 8) = if t.opening then t.pc else t.rpc := t.ofNat_rdN_bytes (by decide) rfl
  simp only [Thread.ofBytes, t.rdN_bytes_status, wake, pc, rpc, t.statusCode_mod]
  refine ⟨t.nbit_statusCode, fun h => ?_, fun d hd h => statusOf_sleep t d _ hd h, fun b p hb h => statusOf_barrier t b p _ hb h, fun va h => ?_⟩
  · exact if_neg fun awaits => (t.status.code_eq_six_iff.1 awaits).elim h
  · exact ⟨statusOf_replay t va _ _ h, if_pos (t.status.code_eq_six_iff.2 ⟨va, h⟩)⟩

/-- What a record holds as long as its NSTORE and REGS say comes back to a thread that has not exited. -/
theorem Thread.lists_ofBytes (t : Thread) (tid cycle slot : Nat) (tag : BitVec 4) (hlive : t.status ≠ .exited) (hregs : t.v.length < 65536)
    (hstores : t.stores.length < 256) (haddr : ∀ x ∈ t.stores, x.addr < 2 ^ 64) :
    let r := t.ofBytes (t.bytes tid t.statusCode) cycle slot slot tag
    r.v = t.v ∧ r.stores = t.stores.map (fun x => { x with evict := 0 }) ∧
    r.grants = (if 64 < t.v.length then [(64, t.v.length, t.grant)] else []) ∧ r.cntSt = t.stores.length := by
  have live : t.status.code ≠ 9 := mt t.status.code_eq_nine_iff.1 hlive
  have regs : rdN (t.bytes tid t.statusCode) 0x40 2 = t.v.length := (t.rdN_bytes rfl).trans (Nat.mod_eq_of_lt hregs)
  have nstore : rdN (t.bytes tid t.statusCode) 0x48 1 = t.stores.length := (t.rdN_bytes rfl).trans (Nat.mod_eq_of_lt hstores)
  simp only [Thread.ofBytes, t.rdN_bytes_status, t.statusCode_mod, if_neg live, regs, nstore, and_true]
  exact ⟨t.v_ofBytes .., t.stores_ofBytes _ _ _ haddr⟩

end Sys2Proof.Machine

open Sys2Proof Sys2Proof.Machine

/-- Settles O47: each record is a list of fields, and what reads it takes each field at its offset. -/
theorem saveRoundTrip : Obligations.SaveRoundTrip := by
  refine ⟨?_, Barrier.ofBytes_bytes, Carve.ofBytes_bytes⟩
  intro t tid cycle slot tag hlive hregs hstores haddr r
  obtain ⟨v, stores, grants, cntSt⟩ := t.lists_ofBytes tid cycle slot tag hlive hregs hstores haddr
  obtain ⟨intrap, status⟩ := t.status_ofBytes tid cycle slot tag
  have field {o n w : Nat} {x : BitVec w} (hw : w ≤ 8 * n) (h : fieldAt (t.fields tid t.statusCode) o = some (n, x.toNat)) :
      BitVec.ofNat w (rdN (t.bytes tid t.statusCode) o n) = x := t.ofNat_rdN_bytes hw h
  have pred : r.pred = t.pred ||| 1 := field (by decide) rfl
  have flags : r.flags = t.flags &&& 0x71F := congrArg (· &&& 0x71F) (field (o := 0x30) (n := 4) (by decide) rfl)
  have utvec : r.utvec = t.utvec := field (by decide) rfl
  have uepc : r.uepc = t.uepc := field (by decide) rfl
  have uepco : r.uepco = t.uepco := field (by decide) rfl
  have uspecit : r.uspecit = t.uspecit := field (by decide) rfl
  have ucause : r.ucause = t.ucause &&& 0x777FF := congrArg (· &&& 0x777FF) (field (o := 0x34) (n := 4) (by decide) rfl)
  have ulanes : r.ulanes = t.ulanes := field (by decide) rfl
  have pend : r.pend = t.pend := field (by decide) rfl
  have epoch : r.epoch = t.epoch := field (by decide) rfl
  have arrb : r.arrb = t.arrb := field (by decide) rfl
  exact ⟨v, pred, flags, utvec, uepc, uepco, uspecit, ucause, ulanes, t.udst_ofBytes .., intrap, pend, epoch, arrb, stores, rfl, grants, rfl,
    cntSt, rfl, status⟩
end
